-- ==== Sys2Proof/Word.lean ====
section
/-!
DEFINITION. The word types of the part and their plainest arithmetic (00 R5: little-endian bytes, 32-bit parcels and
64-bit scalars).
-/
namespace Sys2Proof

/-- One byte of memory. -/
abbrev Byte := BitVec 8

/-- A 32-bit word: a parcel of code, or one lane of a vector register. -/
abbrev Word := BitVec 32

/-- A 64-bit word: a scalar register, an address. -/
abbrev DWord := BitVec 64

/-- A 128-bit lane mask: one bit for each of the G = 128 lanes (00 R9). -/
abbrev Mask := BitVec 128

/-- One bit for each of the 64 × 64 cells of a plane, bit 64·y + x for cell (x, y). -/
abbrev CellMask := BitVec 4096

/-- The wave width G of this part (00 R9). -/
abbrev gWidth : Nat := 128

end Sys2Proof
end

