-- ==== Sys2Proof/Syntax/Operands.lean ====
section
/-!
DEFINITION. The operand and modifier types of the encoded instructions: the field classes of 12 R205, the modifier
groups of 12 R211 and the SUB groups of 13 R227, and the outside data carried by the device's unencoded steps.
-/
namespace Sys2Proof

/-- The hint layer of an instruction: stall count S, yield Y and energy class ECLS (12 R203, R208). -/
structure Hints where
  s : BitVec 3
  y : Bool
  e : BitVec 3
  deriving DecidableEq, Repr

/-- A field of class S: a scalar register, a queue register, or the zero register (12 R205). -/
inductive SReg where
  | s (n : BitVec 7)
  | q (n : BitVec 3)
  | zs
  deriving DecidableEq, Repr

/-- A vector register number, v0 to v255. -/
abbrev VReg := BitVec 8
/-- A mask register number, k0 to k15. -/
abbrev KReg := BitVec 4
/-- A plane register number, p0 to p15. -/
abbrev PReg := BitVec 4

/-- An accumulator bank of the Millrace (class ACC). -/
inductive Bank where
  | acc0 | acc1
  deriving DecidableEq, Repr

/-- Integer predicates (13 R227). -/
inductive IntPred where
  | eq | ne | lt | le | gt | ge
  deriving DecidableEq, Repr

/-- Float predicates (13 R227). -/
inductive FloatPred where
  | eq | ne | lt | le | gt | ge | uo | ord
  deriving DecidableEq, Repr

/-- Conditions of BRS (13 R227). -/
inductive BrsCond where
  | z | nz | neg | nneg
  deriving DecidableEq, Repr

/-- Votes of BRV (13 R227). -/
inductive Vote where
  | any | all | noneSet
  deriving DecidableEq, Repr

/-- Cross-lane reductions (13 R227). -/
inductive RedOp where
  | add | min | max | and | or | xor | fadd
  deriving DecidableEq, Repr

/-- Atomic operations (13 R227). -/
inductive AtomOp where
  | add | exch | cas | and | or | xor | min | max
  deriving DecidableEq, Repr

/-- Plane reductions (13 R227). -/
inductive PlaneRed where
  | add | min | max
  deriving DecidableEq, Repr

/-- Memory orders (06 R107). -/
inductive Order where
  | rlx | acq | rel | ar
  deriving DecidableEq, Repr

/-- Scopes (06 R107). -/
inductive Scope where
  | wave | wg | dev | sys
  deriving DecidableEq, Repr

/-- Rounding modes (09 R154). -/
inductive Rnd where
  | rne | rz | ru | rd
  deriving DecidableEq, Repr

/-- Types of the vector integer family (13 R225). -/
inductive VType where
  | i32 | n32 | i64 | n64
  deriving DecidableEq, Repr

/-- TYPE codes of the memory family (13 R226). -/
inductive MemType where
  | b32 | b64 | i8 | n8 | i16 | n16 | i32 | n32 | i64 | n64 | f32
  deriving DecidableEq, Repr

/-- TYPE codes of VSCAN, VRED and VSEGRED (13 R226). -/
inductive RedType where
  | i32 | i64 | n32 | n64 | f32
  deriving DecidableEq, Repr

/-- Lane selection of VSHUF (13 R225). -/
inductive LaneSel where
  | lidx | lrot | lxor
  deriving DecidableEq, Repr

/-- FORM of PEVAL (13 R225). -/
inductive PForm where
  | lin | quad | expq
  deriving DecidableEq, Repr

/-- Element formats of PLD, PST and MDRAIN (22 R320, 20 R315). -/
inductive ElemFmt where
  | f32 | f16 | bf16
  deriving DecidableEq, Repr

/-- Scale formats of the Millrace (20 R300, 09 R152). -/
inductive ScaleFmt where
  | nosc | e8 | s8
  deriving DecidableEq, Repr

/-- An element format: the 4-bit code of 09 R144 with the flags X and U. -/
structure Fmt where
  code : BitVec 4
  x : Bool
  u : Bool
  deriving DecidableEq, Repr

/-- A conversion byte (13 R226): an element format, or one of the four wider integer formats. -/
inductive Conv where
  | fmt (f : Fmt)
  | i32 | n32 | i16 | n16
  deriving DecidableEq, Repr

/-- The index of a lane address (16 R272): none, a vector register read signed or unsigned, or the lane number. -/
inductive Index where
  | noIndex
  | vec (r : VReg) (signed : Bool)
  | lane
  deriving DecidableEq, Repr

/-- The CSRs that are assigned a number (11 R197). -/
inductive Csr where
  | lane | wave | wgid | stage | ctx | phase | gang | vbase | vlen
  | fflags | pflags | pext | rowProgress | budget
  | tvec | tstat | tepc | trec
  deriving DecidableEq, Repr

/-- The destination of CSRR: scalar, or vector for %lane (24 R342). -/
inductive CsrDst where
  | sreg (d : SReg)
  | vreg (d : VReg)
  deriving DecidableEq, Repr

/-- One partition of the signed board configuration (25 R359): its columns, its governor share in 1/1024 of the
device where the configuration sets one, and granules assigned to it as pairs: kind (0 safe tier, 1 CXL) and granule (01
R14, R17, R18). -/
structure PartConfig where
  cols : List Nat
  share : Option Nat
  granules : List (Nat × Nat)
  deriving DecidableEq, Repr

/-- The signed board configuration (25 R359). -/
structure BoardConfig where
  verified : Bool
  digest : Nat
  parts : List PartConfig
  /-- admission masks, keyed 16·link + local partition (25 R355) -/
  masks : List (Nat × Nat)
  retired : List Nat
  deriving DecidableEq, Repr

/-- A firmware image as Towpath sees it (25 R358). -/
structure FirmwareImage where
  digest : Nat
  secVersion : Nat
  verified : Bool
  deriving DecidableEq, Repr

/-- What a peer or host asks of this device (07 R128, R121; 25 R355). -/
inductive RemoteOp where
  | read (len : Nat)
  | write (data : List Byte)
  | atomic (op : AtomOp) (ty : MemType) (x cmp : Nat)
  /-- an add-on-store's drain tile: FP32 addends by offset -/
  | drain (parts : List (Nat × Nat))
  deriving DecidableEq, Repr

/-- A request arriving on a peer link. -/
structure PeerRequestIn where
  link : Nat
  remotePart : Nat
  part : Nat
  addr : Nat
  op : RemoteOp
  tag : Nat
  deriving DecidableEq, Repr

/-- Atomic operations that the device completes (25 R346). -/
inductive HostAtomic where
  | fetchAdd | swap | cas
  deriving DecidableEq, Repr

/-- What an agent asks of a register (25 R346, R347): cmp is what a CAS compares with. -/
inductive RegReq where
  | write (value : Nat)
  | read
  | atomic (op : HostAtomic) (x cmp : Nat)
  deriving DecidableEq, Repr

/-- Who reaches a control-space register (25 R347). -/
inductive RegAgent where
  | virtualFunction (p : Nat)
  | physicalFunction
  | firmware
  | towpath
  deriving DecidableEq, Repr

/-- Sensors that Towpath reports over PLDM (25 R357). -/
inductive Sensor where
  | dieTemp | coolantTemp | modulePower | railCurrent (rail : Nat) | governorStalls | sparing
  | retiredClusters | takenSlices
  deriving DecidableEq, Repr

/-- Names a workgroup that is away from its cluster: its context and identifier. -/
abbrev AwayId := Nat

end Sys2Proof
end

