-- ==== Sys2Proof/Syntax.lean ====
section
/-!
DEFINITION. The instructions and device steps of the part, one constructor per row of spec/opcode_table.json. Encoded
instructions carry their hints, mask, modifiers and operands (12 R203 to R205, 13 R223 to R227); a length variant of an
opcode is a constructor of its own. A step that the outside world starts carries what the outside world supplies. A step
of the device itself carries nothing: the turn that runs it says in State.subj which pending thing it acts on.
(Constructors with operands come first, those without last, so that the compiler can number them.)
-/
namespace Sys2Proof

/-- The instructions and device steps. -/
inductive Instr where
  -- encoded instructions
  | nop (h : Hints)
  | entry (h : Hints)
  | br (h : Hints) (off : Word)
  | brs (h : Hints) (cond : BrsCond) (a : SReg) (off : Word)
  | brv (h : Hints) (vote : Vote) (km : KReg) (off : Word)
  | bru (h : Hints) (km : KReg) (off : Word)
  | call (h : Hints) (off : Word)
  | callt (h : Hints) (o : Order) (sc : Scope) (a : SReg)
  | jmpt (h : Hints) (o : Order) (sc : Scope) (a : SReg)
  | ret (h : Hints)
  | loop (h : Hints) (d : BitVec 7) (off : Word)
  | exit (h : Hints)
  | trap (h : Hints) (code : Word)
  | trapf (h : Hints)
  | phase (h : Hints) (ph : BitVec 4)
  | smov (h : Hints) (d a : SReg)
  | smovi (h : Hints) (d : SReg) (imm : Word)
  | smovi128 (h : Hints) (d : SReg) (imm : DWord)
  | sadd (h : Hints) (d a b : SReg)
  | sadd96 (h : Hints) (d a : SReg) (imm : Word)
  | ssub (h : Hints) (d a b : SReg)
  | ssub96 (h : Hints) (d a : SReg) (imm : Word)
  | smul (h : Hints) (d a b : SReg)
  | smul96 (h : Hints) (d a : SReg) (imm : Word)
  | smulh (h : Hints) (n : Bool) (d a b : SReg)
  | smulh96 (h : Hints) (n : Bool) (d a : SReg) (imm : Word)
  | sdiv (h : Hints) (n : Bool) (d a b : SReg)
  | sdiv96 (h : Hints) (n : Bool) (d a : SReg) (imm : Word)
  | srem (h : Hints) (n : Bool) (d a b : SReg)
  | srem96 (h : Hints) (n : Bool) (d a : SReg) (imm : Word)
  | sand (h : Hints) (d a b : SReg)
  | sand96 (h : Hints) (d a : SReg) (imm : Word)
  | sor (h : Hints) (d a b : SReg)
  | sor96 (h : Hints) (d a : SReg) (imm : Word)
  | sxor (h : Hints) (d a b : SReg)
  | sxor96 (h : Hints) (d a : SReg) (imm : Word)
  | sshl (h : Hints) (d a b : SReg)
  | sshl96 (h : Hints) (d a : SReg) (imm : Word)
  | sshr (h : Hints) (d a b : SReg)
  | sshr96 (h : Hints) (d a : SReg) (imm : Word)
  | ssar (h : Hints) (d a b : SReg)
  | ssar96 (h : Hints) (d a : SReg) (imm : Word)
  | smin (h : Hints) (n : Bool) (d a b : SReg)
  | smin96 (h : Hints) (n : Bool) (d a : SReg) (imm : Word)
  | smax (h : Hints) (n : Bool) (d a b : SReg)
  | smax96 (h : Hints) (n : Bool) (d a : SReg) (imm : Word)
  | scmp (h : Hints) (n : Bool) (p : IntPred) (d a b : SReg)
  | scmp96 (h : Hints) (n : Bool) (p : IntPred) (d a : SReg) (imm : Word)
  | ssel (h : Hints) (d a b c : SReg)
  | spopc (h : Hints) (d a : SReg)
  | sclz (h : Hints) (d a : SReg)
  | kand (h : Hints) (d a b : KReg)
  | kor (h : Hints) (d a b : KReg)
  | kxor (h : Hints) (d a b : KReg)
  | kandn (h : Hints) (d a b : KReg)
  | knot (h : Hints) (d a : KReg)
  | kmov (h : Hints) (d a : KReg)
  | kpopc (h : Hints) (d : SReg) (a : KReg)
  | kfirst (h : Hints) (d : SReg) (a : KReg)
  | krank (h : Hints) (d : VReg) (a : KReg)
  | ktos (h : Hints) (d : SReg) (a : KReg) (hi : Bool)
  | kfroms (h : Hints) (d : KReg) (a : SReg) (hi : Bool)
  | kcmps (h : Hints) (n : Bool) (p : IntPred) (d : KReg) (a : SReg)
  | vmov (h : Hints) (k : KReg) (wide : Bool) (d a : VReg)
  | vmov96 (h : Hints) (k : KReg) (wide : Bool) (d : VReg) (imm : Word)
  | vmovs (h : Hints) (k : KReg) (wide : Bool) (d : VReg) (a : SReg)
  | vadd (h : Hints) (k : KReg) (ty : VType) (sat : Bool) (d a b : VReg)
  | vadd96 (h : Hints) (k : KReg) (ty : VType) (sat : Bool) (d a : VReg) (imm : Word)
  | vsub (h : Hints) (k : KReg) (ty : VType) (sat : Bool) (d a b : VReg)
  | vsub96 (h : Hints) (k : KReg) (ty : VType) (sat : Bool) (d a : VReg) (imm : Word)
  | vmul (h : Hints) (k : KReg) (ty : VType) (sat : Bool) (d a b : VReg)
  | vmul96 (h : Hints) (k : KReg) (ty : VType) (sat : Bool) (d a : VReg) (imm : Word)
  | vmulh (h : Hints) (k : KReg) (ty : VType) (d a b : VReg)
  | vmulh96 (h : Hints) (k : KReg) (ty : VType) (d a : VReg) (imm : Word)
  | vmad (h : Hints) (k : KReg) (ty : VType) (sat : Bool) (d a b c : VReg)
  | vand (h : Hints) (k : KReg) (wide : Bool) (d a b : VReg)
  | vand96 (h : Hints) (k : KReg) (wide : Bool) (d a : VReg) (imm : Word)
  | vor (h : Hints) (k : KReg) (wide : Bool) (d a b : VReg)
  | vor96 (h : Hints) (k : KReg) (wide : Bool) (d a : VReg) (imm : Word)
  | vxor (h : Hints) (k : KReg) (wide : Bool) (d a b : VReg)
  | vxor96 (h : Hints) (k : KReg) (wide : Bool) (d a : VReg) (imm : Word)
  | vshl (h : Hints) (k : KReg) (wide : Bool) (d a b : VReg)
  | vshl96 (h : Hints) (k : KReg) (wide : Bool) (d a : VReg) (imm : Word)
  | vshr (h : Hints) (k : KReg) (ty : VType) (d a b : VReg)
  | vshr96 (h : Hints) (k : KReg) (ty : VType) (d a : VReg) (imm : Word)
  | vsar (h : Hints) (k : KReg) (ty : VType) (d a b : VReg)
  | vsar96 (h : Hints) (k : KReg) (ty : VType) (d a : VReg) (imm : Word)
  | vmin (h : Hints) (k : KReg) (ty : VType) (d a b : VReg)
  | vmin96 (h : Hints) (k : KReg) (ty : VType) (d a : VReg) (imm : Word)
  | vmax (h : Hints) (k : KReg) (ty : VType) (d a b : VReg)
  | vmax96 (h : Hints) (k : KReg) (ty : VType) (d a : VReg) (imm : Word)
  | vcmp (h : Hints) (k : KReg) (ty : VType) (p : IntPred) (d : KReg) (a b : VReg)
  | vcmp96 (h : Hints) (k : KReg) (ty : VType) (p : IntPred) (d : KReg) (a : VReg) (imm : Word)
  | vsel (h : Hints) (k : KReg) (wide : Bool) (d a b : VReg) (c : KReg)
  | vclz (h : Hints) (k : KReg) (wide : Bool) (d a : VReg)
  | vpopc (h : Hints) (k : KReg) (wide : Bool) (d a : VReg)
  | vaddc (h : Hints) (k : KReg) (ty : VType) (d a b : VReg) (c : KReg)
  | fadd (h : Hints) (k : KReg) (rm : Rnd) (d a b : VReg)
  | fadd96 (h : Hints) (k : KReg) (rm : Rnd) (d a : VReg) (imm : Word)
  | fsub (h : Hints) (k : KReg) (rm : Rnd) (d a b : VReg)
  | fsub96 (h : Hints) (k : KReg) (rm : Rnd) (d a : VReg) (imm : Word)
  | fmul (h : Hints) (k : KReg) (rm : Rnd) (d a b : VReg)
  | fmul96 (h : Hints) (k : KReg) (rm : Rnd) (d a : VReg) (imm : Word)
  | ffma (h : Hints) (k : KReg) (rm : Rnd) (d a b c : VReg)
  | fmin (h : Hints) (k : KReg) (d a b : VReg)
  | fmin96 (h : Hints) (k : KReg) (d a : VReg) (imm : Word)
  | fmax (h : Hints) (k : KReg) (d a b : VReg)
  | fmax96 (h : Hints) (k : KReg) (d a : VReg) (imm : Word)
  | fcmp (h : Hints) (k : KReg) (p : FloatPred) (d : KReg) (a b : VReg)
  | fcmp96 (h : Hints) (k : KReg) (p : FloatPred) (d : KReg) (a : VReg) (imm : Word)
  | fdiv (h : Hints) (k : KReg) (rm : Rnd) (d a b : VReg)
  | fsqrt (h : Hints) (k : KReg) (rm : Rnd) (d a : VReg)
  | frcp (h : Hints) (k : KReg) (d a : VReg)
  | frsq (h : Hints) (k : KReg) (d a : VReg)
  | fexp2 (h : Hints) (k : KReg) (d a : VReg)
  | flog2 (h : Hints) (k : KReg) (d a : VReg)
  | fcvt (h : Hints) (k : KReg) (sat : Bool) (rm : Rnd) (dt st : Conv) (d a : VReg)
  | fclass (h : Hints) (k : KReg) (d a : VReg)
  | frnd (h : Hints) (k : KReg) (rm : Rnd) (d a : VReg)
  | vshuf (h : Hints) (k : KReg) (wide : Bool) (sel : LaneSel) (d a b : VReg)
  | vrot (h : Hints) (k : KReg) (wide : Bool) (d a : VReg) (b : SReg)
  | vbcast (h : Hints) (k : KReg) (wide : Bool) (d a : VReg) (b : SReg)
  | vscan (h : Hints) (k : KReg) (ty : RedType) (op : RedOp) (rm : Rnd) (d a : VReg)
  | vred (h : Hints) (k : KReg) (ty : RedType) (op : RedOp) (rm : Rnd) (d : SReg) (a : VReg)
  | vsegred (h : Hints) (k : KReg) (ty : RedType) (op : RedOp) (rm : Rnd) (d a : VReg) (b : KReg)
  | vcomp (h : Hints) (k : KReg) (wide : Bool) (d a : VReg)
  | reorder (h : Hints) (k : KReg) (wide : Bool) (a : VReg) (b : SReg) (regs : List VReg)
  | vld (h : Hints) (k : KReg) (ty : MemType) (o : Order) (sc : Scope) (d : VReg) (a : SReg) (ix : Index)
      (scale : BitVec 4)
  | vld96 (h : Hints) (k : KReg) (ty : MemType) (o : Order) (sc : Scope) (d : VReg) (a : SReg) (ix : Index)
      (scale : BitVec 4) (disp : Word)
  | vld128 (h : Hints) (k : KReg) (ty : MemType) (o : Order) (sc : Scope) (d : VReg) (a : SReg) (ix : Index)
      (disp scale : Word)
  | vst (h : Hints) (k : KReg) (ty : MemType) (o : Order) (sc : Scope) (d : VReg) (a : SReg) (ix : Index)
      (scale : BitVec 4)
  | vst96 (h : Hints) (k : KReg) (ty : MemType) (o : Order) (sc : Scope) (d : VReg) (a : SReg) (ix : Index)
      (scale : BitVec 4) (disp : Word)
  | vst128 (h : Hints) (k : KReg) (ty : MemType) (o : Order) (sc : Scope) (d : VReg) (a : SReg) (ix : Index)
      (disp scale : Word)
  | vldl (h : Hints) (k : KReg) (o : Order) (sc : Scope) (d : VReg) (a : SReg) (b c level status : VReg)
  | vcst (h : Hints) (k : KReg) (ty : MemType) (o : Order) (sc : Scope) (d : VReg) (a : SReg)
  | vcst96 (h : Hints) (k : KReg) (ty : MemType) (o : Order) (sc : Scope) (d : VReg) (a : SReg) (disp : Word)
  | vcst128 (h : Hints) (k : KReg) (ty : MemType) (o : Order) (sc : Scope) (d : VReg) (a : SReg)
      (disp stride : Word)
  | sld (h : Hints) (ty : MemType) (o : Order) (sc : Scope) (d a : SReg)
  | sld96 (h : Hints) (ty : MemType) (o : Order) (sc : Scope) (d a : SReg) (disp : Word)
  | sst (h : Hints) (ty : MemType) (o : Order) (sc : Scope) (d a : SReg)
  | sst96 (h : Hints) (ty : MemType) (o : Order) (sc : Scope) (d a : SReg) (disp : Word)
  | atom (h : Hints) (k : KReg) (ty : MemType) (op : AtomOp) (o : Order) (sc : Scope) (d : VReg) (a : SReg)
      (b c : VReg)
  | atom96 (h : Hints) (k : KReg) (ty : MemType) (op : AtomOp) (o : Order) (sc : Scope) (d : VReg) (a : SReg)
      (b c : VReg) (disp : Word)
  | atom128 (h : Hints) (k : KReg) (ty : MemType) (op : AtomOp) (o : Order) (sc : Scope) (d : VReg) (a : SReg)
      (ix : Index) (c : VReg) (disp : Word) (scale : BitVec 24)
  | satom (h : Hints) (ty : MemType) (op : AtomOp) (o : Order) (sc : Scope) (d a b : SReg) (c : Option SReg)
  | satom96 (h : Hints) (ty : MemType) (op : AtomOp) (o : Order) (sc : Scope) (d a b : SReg) (c : Option SReg)
      (disp : Word)
  | fence (h : Hints) (o : Order) (sc : Scope)
  | ifence (h : Hints)
  | lodfence (h : Hints) (a : SReg)
  | lodfence96 (h : Hints) (imm : Word)
  | publish (h : Hints) (d a : SReg)
  | publish96 (h : Hints) (d : SReg) (imm : Word)
  | wait (h : Hints) (ld st cp tl : Byte)
  | semacq (h : Hints) (sem : BitVec 6) (b : SReg)
  | semacq96 (h : Hints) (sem : BitVec 6) (imm : Word)
  | semrel (h : Hints) (sem : BitVec 6) (b c : SReg)
  | semrel96 (h : Hints) (sem : BitVec 6) (c : SReg) (imm : Word)
  | binit (h : Hints) (a b : SReg)
  | barrive (h : Hints) (d a : SReg)
  | bwait (h : Hints) (d a b : SReg)
  | binval (h : Hints) (a : SReg)
  | msend (h : Hints) (d : SReg) (a : VReg) (b : SReg) (arg : DWord)
  | mrecv (h : Hints) (d : VReg) (a : SReg)
  | tqpush (h : Hints) (d a b c : SReg)
  | tqpop (h : Hints) (d a : SReg) (b : BitVec 7)
  | spawn (h : Hints) (k : KReg) (d : KReg) (a : SReg) (b : VReg)
  | spawn128 (h : Hints) (k : KReg) (d : KReg) (b : VReg) (entryAddr : DWord)
  | launch (h : Hints) (d a b : SReg)
  | talloc (h : Hints) (d a b : SReg)
  | talloc96 (h : Hints) (d a : SReg) (imm : Word)
  | tfree (h : Hints) (a : SReg)
  | tld (h : Hints) (o : Order) (sc : Scope) (a b c : SReg) (off : Word) (sem : Option (BitVec 6))
  | tst (h : Hints) (o : Order) (sc : Scope) (a b c : SReg) (off : Word) (sem : Option (BitVec 6))
  | mkshape (h : Hints) (d a : SReg) (b : VReg) (disp : Word)
  | xcopy (h : Hints) (mc lod : Bool) (o : Order) (sc : Scope) (sem : Option (BitVec 6)) (a b c : SReg)
      (rowMask colMask : BitVec 16) (dtile stile : Option Byte)
  | xgather (h : Hints) (o : Order) (sc : Scope) (sem : Option (BitVec 6)) (a : SReg) (b : VReg) (c : SReg)
      (count : BitVec 16) (esz : BitVec 2) (dt : Bool) (dtile : Byte) (limit : Word)
  | mgang (h : Hints) (a : SReg)
  | mwload (h : Hints) (a b c : SReg) (f : Fmt) (scf : ScaleFmt) (kbm1 : BitVec 4) (ta : Bool) (tile : Byte)
  | mmul (h : Hints) (d : Bank) (a b c : SReg) (f : Fmt) (scf : ScaleFmt) (mm1 : Byte) (kbm1 : BitVec 4)
      (accum ta : Bool) (tile : Byte)
  | mdrain (h : Hints) (add : Bool) (o : Order) (sc : Scope) (d : Bank) (a b : SReg) (sem : Option (BitVec 6))
      (ofmt : ElemFmt) (mm1 : Byte) (dt : Bool) (dtile : Byte)
  | mstat (h : Hints) (d : SReg) (sel : BitVec 2) (clear : BitVec 5)
  | pcfg (h : Hints) (k : KReg) (wm1 hm1 : BitVec 6)
  | peval (h : Hints) (k : KReg) (form : PForm) (add : Bool) (d : PReg) (a b c : SReg) (ox oy : BitVec 16)
  | pld (h : Hints) (k : KReg) (d : PReg) (a b : SReg) (tile : Byte) (ef : ElemFmt)
  | pst (h : Hints) (k : KReg) (d : PReg) (a b : SReg) (tile : Byte) (ef : ElemFmt)
  | padd (h : Hints) (k : KReg) (d a b : PReg)
  | pmul (h : Hints) (k : KReg) (d a b : PReg)
  | pfma (h : Hints) (k : KReg) (d a b c : PReg)
  | pmin (h : Hints) (k : KReg) (d a b : PReg)
  | pmax (h : Hints) (k : KReg) (d a b : PReg)
  | pexp2 (h : Hints) (k : KReg) (d a : PReg)
  | prcp (h : Hints) (k : KReg) (d a : PReg)
  | pif (h : Hints) (k : KReg) (p : FloatPred) (a b : PReg)
  | pelse (h : Hints) (k : KReg)
  | pend (h : Hints) (k : KReg)
  | pblend (h : Hints) (k : KReg) (d a b : PReg)
  | pred (h : Hints) (k : KReg) (op : PlaneRed) (d : SReg) (a : PReg)
  | prow (h : Hints) (k : KReg) (op : PlaneRed) (d : VReg) (a : PReg)
  | binapp (h : Hints) (k : KReg) (d : KReg) (a b : VReg) (c : SReg) (ts : BitVec 2)
  | rstart (h : Hints) (k : KReg) (d : VReg)
  | rbox (h : Hints) (k : KReg) (d a b : VReg)
  | rtri (h : Hints) (k : KReg) (d a b : VReg)
  | rpush (h : Hints) (k : KReg) (d a : VReg) (c : KReg)
  | rpop (h : Hints) (k : KReg) (d a : VReg)
  | rstop (h : Hints) (k : KReg) (d : VReg)
  | csrr (h : Hints) (d : CsrDst) (csr : Csr)
  | csrw (h : Hints) (csr : Csr) (a : SReg)
  | feat (h : Hints) (d a : SReg)
  | feat96 (h : Hints) (d : SReg) (imm : Word)
  | tret (h : Hints)
  | halt (h : Hints)
  -- steps that the outside world starts or supplies with data
  /-- cxl holds the bytes of the device on each CXL port, 0 where none trains (01 R14) -/
  | powerUp (cfg : BoardConfig) (cxl : List Nat)
  | junction100C (hot : Bool)
  | clusterRetirement (cl : Nat)
  | sliceFailure (sl : Nat)
  | routerFailure (site : Nat)
  | laneFailure (link : Nat)
  | cxlPortDown (port : Nat)
  | peerRequest (req : PeerRequestIn)
  | pldmSensorRead (sensor : Sensor)
  | firmwareUpdate (img : FirmwareImage)
  | spdmRequest (measurement : Nat)
  | retirementClear (cl : Nat)
  | kick (agent : RegAgent) (part queue seq : Nat)
  | commandKick (agent : RegAgent) (queue seq : Nat)
  | go (agent : RegAgent) (part queue newNext : Nat)
  | cons (agent : RegAgent) (part value : Nat)
  | hactResume (agent : RegAgent) (cl row : Nat)
  | hactEnd (agent : RegAgent) (cl row : Nat)
  | registerWrite (agent : RegAgent) (addr size : Nat) (req : RegReq)
  | ctxCreate (queue : Nat) (record : List Byte)
  | copyIn (queue : Nat) (data : List Byte)
  | hostCompletion (id : Nat) (ok : Bool) (data : List Byte)
  | peerCompletion (id : Nat) (ok : Bool) (data : List Byte)
  | linkLevelReplay (link : Nat)
  | mainSideFailure (reason : Nat)
  | liveMigration (ctx : Nat) (accepts : Bool)
  -- FILL, and steps of the device itself: State.subj says what they act on
  | powerFailWarning
  | junction110C
  | governorWindow
  | spawnTimeout
  | starvationCount
  | packetReread
  | creditReturn
  | packetGrant
  | packetInjection
  | lineTransfer
  | readRequest
  | readResponse
  | write
  | atomicRequest
  | acknowledgement
  | mailboxPacket
  | mailboxRefusal
  | copyData
  | multicastCopyData
  | lodFeedbackReport
  | eddyAppend
  | lodFeedbackAnswer
  | semaphoreAdd
  | semaphoreAddAnswer
  | lateralAccess
  | engineElement
  | pieceLanding
  | traversalResult
  | workgroupStart
  | evictionDone
  | workgroupResume
  | mergeDrained
  | binWaveStart
  | spillRefill
  | park
  | workgroupLost
  | leaseFree
  | vaultRelease
  | planeRelease
  | shootdownAcknowledge
  | checkpointCopy
  | launchCompletion
  | barrierDispatch
  | destructionComplete
  | commandCompletion
  | ctxDestroy
  | copyOut
  | shootdown
  | mboxAssign
  | mboxFree
  | answerRetry
  | answerDeliver
  | answerKill
  | checkpoint
  | restore
  | logFree
  | fill
  | keyAgeOut
  deriving DecidableEq, Repr

end Sys2Proof
end

