-- ==== Sys2Proof/WellFormed.lean ====
section
/-!
DEFINITION. Which instructions the encoding admits: the class, pairing, type, operation and modifier rules that the
fields alone decide (12 R205, R206; 13 R224 to R227; 14 R230, R240, R245; 15 R250 to R270; 16 R271 to R293; 20 R299 to R316;
22 R320 to R331; 24 R335, R342). A breach of any of them raises ILLEGAL.
-/
namespace Sys2Proof

/-- Class V64: the register named is even (12 R205). -/
def VReg.isEven (r : VReg) : Bool := r.toNat % 2 == 0

/-- The queue registers among source fields. -/
def queuesOf (l : List SReg) : List (BitVec 3) :=
  l.filterMap fun r => match r with
    | .q n => some n
    | .s _ => none
    | .zs => none

/-- No queue register is named in two source fields (12 R206). -/
def queuesDistinct (l : List SReg) : Bool := decide (queuesOf l).Nodup

/-- A 64-bit vector type (15 R248). -/
def VType.is64 : VType → Bool
  | .i64 | .n64 => true
  | .i32 | .n32 => false

/-- A signed vector type. -/
def VType.signed : VType → Bool
  | .i32 | .i64 => true
  | .n32 | .n64 => false

/-- The vector type whose width and sign are given. -/
def VType.ofWide (wide : Bool) : VType := if wide then .i64 else .i32

/-- A 64-bit memory type. -/
def MemType.is64 : MemType → Bool
  | .b64 | .i64 | .n64 => true
  | _ => false

/-- A 64-bit reduction type. -/
def RedType.is64 : RedType → Bool
  | .i64 | .n64 => true
  | _ => false

/-- Every listed register is even when the type is 64 bits wide. -/
def pairsOk (wide : Bool) (l : List VReg) : Bool := !wide || l.all VReg.isEven

/-- Types of loads (13 R226). -/
def MemType.loadOk : MemType → Bool
  | .b32 | .b64 | .i8 | .n8 | .i16 | .n16 => true
  | _ => false

/-- Types of stores (13 R226). -/
def MemType.storeOk : MemType → Bool
  | .b32 | .b64 | .n8 | .n16 => true
  | _ => false

/-- Atomic operations each type accepts (13 R226). -/
def AtomOp.typeOk (op : AtomOp) (ty : MemType) : Bool :=
  match op with
  | .add => match ty with
    | .b32 | .b64 | .i32 | .n32 | .i64 | .n64 | .f32 => true
    | _ => false
  | .exch | .cas | .and | .or | .xor => match ty with
    | .b32 | .b64 => true
    | _ => false
  | .min | .max => match ty with
    | .i32 | .n32 | .i64 | .n64 => true
    | _ => false

/-- .rlx goes with scope .wave only (14 R236, 16 R271, 20 R299). -/
def scopeOk (o : Order) (sc : Scope) : Bool := o != .rlx || sc == .wave

def loadOrder (o : Order) (sc : Scope) : Bool := (o == .rlx || o == .acq) && scopeOk o sc
def storeOrder (o : Order) (sc : Scope) : Bool := (o == .rlx || o == .rel) && scopeOk o sc

/-- A reduction and its type and rounding agree (13 R225 to R227, 15 R267). -/
def redOk (ty : RedType) (op : RedOp) (rm : Rnd) : Bool :=
  (match op with
    | .fadd => ty == .f32
    | .min | .max => true
    | .add | .and | .or | .xor => ty != .f32) &&
  (op == .fadd || rm == .rne)

/-- An element format with X and U only where 09 R144 lets them stand. -/
def Fmt.ok (f : Fmt) : Bool :=
  decide (f.code.toNat ≤ 12) && ((!f.x && !f.u) || (decide (3 ≤ f.code.toNat) && decide (f.code.toNat ≤ 9)))

/-- A format the Millrace reads: codes 1 to 12 (20 R300). -/
def Fmt.matrixOk (f : Fmt) : Bool := f.ok && f.code != 0

def Conv.ok : Conv → Bool
  | .fmt f => f.ok
  | _ => true

/-- A conversion byte that names an integer format (13 R226, 09 R144). -/
def Conv.isInt : Conv → Bool
  | .fmt f => decide (10 ≤ f.code.toNat)
  | _ => true

/-- The scale operand is zs exactly as SCF .nosc requires (20 R300). -/
def scaleOk (scf : ScaleFmt) (c : SReg) : Bool := scf != .nosc || c == .zs

/-- The operands of one ATOM (16 R279, 13 R226). -/
def atomOk (ty : MemType) (op : AtomOp) (o : Order) (sc : Scope) (d c : VReg) : Bool :=
  op.typeOk ty && scopeOk o sc && pairsOk ty.is64 [d, c] &&
    (op != .cas || c.toNat % (if ty.is64 then 4 else 2) == 0)

def satomOk (ty : MemType) (op : AtomOp) (o : Order) (sc : Scope) (a b : SReg) (c : Option SReg) : Bool :=
  op.typeOk ty && scopeOk o sc && (c.isSome == (op == .cas)) && queuesDistinct ([a, b] ++ c.toList)

/-- No register is listed twice. -/
def nodupRegs (l : List VReg) : Bool := decide l.Nodup

/-- The instructions the encoding admits. Unencoded steps have no encoding to break. -/
def Instr.wf : Instr → Bool
  | .callt _ o sc _ | .jmpt _ o sc _ => loadOrder o sc
  | .sadd _ _ a b | .ssub _ _ a b | .smul _ _ a b | .sand _ _ a b | .sor _ _ a b | .sxor _ _ a b
  | .sshl _ _ a b | .sshr _ _ a b | .ssar _ _ a b => queuesDistinct [a, b]
  | .smulh _ _ _ a b | .sdiv _ _ _ a b | .srem _ _ _ a b | .smin _ _ _ a b | .smax _ _ _ a b
  | .scmp _ _ _ _ a b => queuesDistinct [a, b]
  | .ssel _ _ a b c => queuesDistinct [a, b, c]
  | .kand _ d _ _ | .kor _ d _ _ | .kxor _ d _ _ | .kandn _ d _ _ => d != 0
  | .knot _ d _ | .kmov _ d _ => d != 0
  | .kfroms _ d _ _ => d != 0
  | .kcmps _ _ _ d _ => d != 0
  | .vmov _ _ w d a => pairsOk w [d, a]
  | .vmov96 _ _ w d _ => pairsOk w [d]
  | .vmovs _ _ w d _ => pairsOk w [d]
  | .vadd _ _ ty _ d a b | .vsub _ _ ty _ d a b | .vmul _ _ ty _ d a b => pairsOk ty.is64 [d, a, b]
  | .vadd96 _ _ ty _ d a _ | .vsub96 _ _ ty _ d a _ | .vmul96 _ _ ty _ d a _ => pairsOk ty.is64 [d, a]
  | .vmulh _ _ ty d a b | .vmin _ _ ty d a b | .vmax _ _ ty d a b => pairsOk ty.is64 [d, a, b]
  | .vmulh96 _ _ ty d a _ | .vmin96 _ _ ty d a _ | .vmax96 _ _ ty d a _ => pairsOk ty.is64 [d, a]
  | .vmad _ _ ty _ d a b c => pairsOk ty.is64 [d, a, b, c]
  | .vand _ _ w d a b | .vor _ _ w d a b | .vxor _ _ w d a b => pairsOk w [d, a, b]
  | .vand96 _ _ w d a _ | .vor96 _ _ w d a _ | .vxor96 _ _ w d a _ | .vshl96 _ _ w d a _ => pairsOk w [d, a]
  | .vshl _ _ w d a _ => pairsOk w [d, a]
  | .vshr _ _ ty d a _ | .vsar _ _ ty d a _ => pairsOk ty.is64 [d, a]
  | .vshr96 _ _ ty d a _ | .vsar96 _ _ ty d a _ => pairsOk ty.is64 [d, a]
  | .vcmp _ _ ty _ d a b => d != 0 && pairsOk ty.is64 [a, b]
  | .vcmp96 _ _ ty _ d a _ => d != 0 && pairsOk ty.is64 [a]
  | .vsel _ _ w d a b _ => pairsOk w [d, a, b]
  | .vclz _ _ w d a | .vpopc _ _ w d a => pairsOk w [d, a]
  | .vaddc _ _ ty d a b c => pairsOk ty.is64 [d, a, b] && c != 0
  | .fcmp _ _ _ d _ _ => d != 0
  | .fcmp96 _ _ _ d _ _ => d != 0
  | .fcvt _ _ sat _ dt st _ _ =>
    dt.ok && st.ok && dt != st && !(dt.isInt && st.isInt) && !(sat && dt.isInt)
  | .vshuf _ _ w _ d a _ => pairsOk w [d, a]
  | .vrot _ _ w d a _ | .vbcast _ _ w d a _ => pairsOk w [d, a]
  | .vscan _ _ ty op rm d a => redOk ty op rm && pairsOk ty.is64 [d, a]
  | .vred _ _ ty op rm _ a => redOk ty op rm && pairsOk ty.is64 [a]
  | .vsegred _ _ ty op rm d a b => redOk ty op rm && pairsOk ty.is64 [d, a] && b != 0
  | .vcomp _ _ w d a => pairsOk w [d, a]
  | .reorder _ _ w _ _ regs =>
    decide (1 ≤ regs.length) && decide (regs.length ≤ 8) && nodupRegs regs && pairsOk w regs
  | .vld _ _ ty o sc d _ _ _ => ty.loadOk && loadOrder o sc && pairsOk ty.is64 [d]
  | .vld96 _ _ ty o sc d _ _ _ _ => ty.loadOk && loadOrder o sc && pairsOk ty.is64 [d]
  | .vld128 _ _ ty o sc d _ _ _ _ => ty.loadOk && loadOrder o sc && pairsOk ty.is64 [d]
  | .vst _ _ ty o sc d _ _ _ => ty.storeOk && storeOrder o sc && pairsOk ty.is64 [d]
  | .vst96 _ _ ty o sc d _ _ _ _ => ty.storeOk && storeOrder o sc && pairsOk ty.is64 [d]
  | .vst128 _ _ ty o sc d _ _ _ _ => ty.storeOk && storeOrder o sc && pairsOk ty.is64 [d]
  | .vldl _ _ o sc d _ b c level status =>
    loadOrder o sc && status != d && status != level && status != b && status != c
  | .vcst _ _ ty o sc d _ => ty.storeOk && storeOrder o sc && pairsOk ty.is64 [d]
  | .vcst96 _ _ ty o sc d _ _ => ty.storeOk && storeOrder o sc && pairsOk ty.is64 [d]
  | .vcst128 _ _ ty o sc d _ _ _ => ty.storeOk && storeOrder o sc && pairsOk ty.is64 [d]
  | .sld _ ty o sc _ _ => ty.loadOk && loadOrder o sc
  | .sld96 _ ty o sc _ _ _ => ty.loadOk && loadOrder o sc
  | .sst _ ty o sc d a => ty.storeOk && storeOrder o sc && queuesDistinct [d, a]
  | .sst96 _ ty o sc d a _ => ty.storeOk && storeOrder o sc && queuesDistinct [d, a]
  | .atom _ _ ty op o sc d _ _ c => atomOk ty op o sc d c
  | .atom96 _ _ ty op o sc d _ _ c _ => atomOk ty op o sc d c
  | .atom128 _ _ ty op o sc d _ _ c _ _ => atomOk ty op o sc d c
  | .satom _ ty op o sc _ a b c => satomOk ty op o sc a b c
  | .satom96 _ ty op o sc _ a b c _ => satomOk ty op o sc a b c
  | .fence _ o _ => o != .rlx
  | .publish96 _ _ imm => decide (imm.toNat < 16)
  | .semrel _ _ b c => queuesDistinct [b, c]
  | .binit _ a b => queuesDistinct [a, b]
  | .bwait _ _ a b => queuesDistinct [a, b]
  | .tqpush _ _ a b c => queuesDistinct [a, b, c]
  | .tqpop _ _ _ b => b.toNat % 2 == 0
  | .spawn _ _ d _ b => d != 0 && decide (b.toNat ≤ 252)
  | .spawn128 _ _ d b _ => d != 0 && decide (b.toNat ≤ 252)
  | .launch _ _ a b => queuesDistinct [a, b]
  | .talloc _ _ a b => queuesDistinct [a, b]
  | .tld _ o sc a b c _ _ | .tst _ o sc a b c _ _ => storeOrder o sc && queuesDistinct [a, b, c]
  | .xcopy _ mc lod o sc _ a b c rm cm dt st =>
    storeOrder o sc && queuesDistinct [a, b, c] && !(mc && (lod || dt.isSome || st.isSome)) &&
      !(lod && st.isSome) && (mc || (rm == 0 && cm == 0))
  | .xgather _ o sc _ a _ c count _ _ _ _ =>
    storeOrder o sc && queuesDistinct [a, c] && decide (1 ≤ count.toNat) && decide (count.toNat ≤ gWidth)
  | .mwload _ a b c f scf kbm1 _ _ =>
    f.matrixOk && scaleOk scf c && decide (kbm1.toNat ≤ 11) && queuesDistinct [a, b, c]
  | .mmul _ _ a b c f scf _ kbm1 _ _ _ =>
    f.matrixOk && scaleOk scf c && decide (kbm1.toNat ≤ 11) && queuesDistinct [a, b, c]
  | .mdrain _ add o sc _ a b _ ofmt _ _ _ =>
    storeOrder o sc && queuesDistinct [a, b] && !(add && ofmt != .f32)
  | .mstat _ _ sel clear => sel != 3 || clear == 0
  | .peval _ _ form _ _ a b c _ _ => (form != .lin || c == .zs) && queuesDistinct [a, b, c]
  | .pld _ _ _ a b _ _ | .pst _ _ _ a b _ _ => queuesDistinct [a, b]
  | .binapp _ _ d a _ _ _ => d != 0 && a.isEven
  | .rbox _ _ d a b => d.isEven && a.isEven && b.toNat % 8 == 0
  | .rtri _ _ d a b => d.toNat % 4 == 0 && a.isEven && b.toNat % 8 == 0
  | .rpush _ _ _ a c => a.isEven && c != 0
  | .rpop _ _ d _ => d.isEven
  | .csrr _ d csr => match d with
    | .sreg _ => csr != .lane
    | .vreg _ => csr == .lane
  | _ => true

end Sys2Proof
end

