-- ==== Sys2Proof/Decode.lean ====
section
/-!
DEFINITION. The decoder, total on any bytes, and the encoder, both written from the encoding tables (12 R200 to R207, 13
R223 to R227, 14 R230, R240, R245; 15 R250, R256, R265; 16 R275; 20 R300; 22 R320; 24 R335, R342). The decoder reads the
fields the instruction names, checks that the result is well formed, and checks that encoding it again gives the very
same word: every unused or reserved bit and every unassigned field value is refused by that last check (R207, R224).
-/
namespace Sys2Proof

/-- The length an instruction's LEN field gives, FILL apart (12 R200). -/
inductive Len where
  | w64 | w96 | w128
  deriving DecidableEq, Repr

/-- Bytes of an instruction of that length. -/
def Len.bytes : Len → Nat
  | .w64 => 8
  | .w96 => 12
  | .w128 => 16

/-- The fields of an instruction that is not FILL (12 R203, R204). imm holds bits [127:64]; the 96-bit form uses its
low half. -/
structure Raw where
  len : Len
  h : Hints
  km : BitVec 4
  op : BitVec 8
  sub : BitVec 3
  d : Byte
  a : Byte
  b : Byte
  c : Byte
  mod : Byte
  imm : DWord
  deriving DecidableEq, Repr

namespace Raw

/-- The 32-bit immediate of the 96-bit form. -/
def imm32 (r : Raw) : Word := r.imm.extractLsb' 0 32

/-- Bits [127:96]. -/
def immHi (r : Raw) : Word := r.imm.extractLsb' 32 32

/-- The first parcel (12 R203). -/
def parcel0 (r : Raw) : Word :=
  r.d ++ r.sub ++ r.op ++ r.km ++ r.h.e ++ (if r.h.y then 1#1 else 0#1) ++ r.h.s ++
    (match r.len with
      | .w64 => 0#2
      | .w96 => 1#2
      | .w128 => 2#2)

/-- The second parcel (12 R203). -/
def parcel1 (r : Raw) : Word := r.mod ++ r.c ++ r.b ++ r.a

/-- The parcels of an instruction, the first lowest in memory. -/
def parcels (r : Raw) : List Word :=
  match r.len with
  | .w64 => [r.parcel0, r.parcel1]
  | .w96 => [r.parcel0, r.parcel1, r.imm32]
  | .w128 => [r.parcel0, r.parcel1, r.imm32, r.immHi]

/-- The fields of a length and its parcels; absent parcels are zero. -/
def ofParcels (len : Len) (p0 p1 p2 p3 : Word) : Raw :=
  { len := len
    h := { s := p0.extractLsb' 2 3, y := p0.getLsbD 5, e := p0.extractLsb' 6 3 }
    km := p0.extractLsb' 9 4
    op := p0.extractLsb' 13 8
    sub := p0.extractLsb' 21 3
    d := p0.extractLsb' 24 8
    a := p1.extractLsb' 0 8
    b := p1.extractLsb' 8 8
    c := p1.extractLsb' 16 8
    mod := p1.extractLsb' 24 8
    imm := p3 ++ p2 }

/-- A 64-bit form with every field but the opcode zero. -/
def form64 (h : Hints) (op : BitVec 8) : Raw :=
  { len := .w64, h := h, km := 0, op := op, sub := 0, d := 0, a := 0, b := 0, c := 0, mod := 0, imm := 0 }

/-- A 96-bit form with its immediate. -/
def form96 (h : Hints) (op : BitVec 8) (imm : Word) : Raw :=
  { form64 h op with len := .w96, imm := imm.setWidth 64 }

/-- A 128-bit form with bits [127:64]. -/
def form128 (h : Hints) (op : BitVec 8) (ext : DWord) : Raw :=
  { form64 h op with len := .w128, imm := ext }

/-- MOD[7:4] (13 R225). -/
def modHi (r : Raw) : BitVec 4 := r.mod.extractLsb' 4 4
/-- ORDER, MOD[3:2]. -/
def modOrder (r : Raw) : BitVec 2 := r.mod.extractLsb' 2 2
/-- SCOPE or RM, MOD[1:0]. -/
def modLow (r : Raw) : BitVec 2 := r.mod.extractLsb' 0 2

end Raw

/-- Codes of the integer predicates (13 R227). -/
def IntPred.code : IntPred → BitVec 3
  | .eq => 0
  | .ne => 1
  | .lt => 2
  | .le => 3
  | .gt => 4
  | .ge => 5

/-- The IntPred a code names, if it is assigned. -/
def IntPred.ofCode (c : BitVec 3) : Option IntPred :=
  match c.toNat with
  | 0 => some .eq
  | 1 => some .ne
  | 2 => some .lt
  | 3 => some .le
  | 4 => some .gt
  | 5 => some .ge
  | _ => none

/-- Codes of the float predicates (13 R227). -/
def FloatPred.code : FloatPred → BitVec 3
  | .eq => 0
  | .ne => 1
  | .lt => 2
  | .le => 3
  | .gt => 4
  | .ge => 5
  | .uo => 6
  | .ord => 7

/-- The FloatPred a code names, if it is assigned. -/
def FloatPred.ofCode (c : BitVec 3) : Option FloatPred :=
  match c.toNat with
  | 0 => some .eq
  | 1 => some .ne
  | 2 => some .lt
  | 3 => some .le
  | 4 => some .gt
  | 5 => some .ge
  | 6 => some .uo
  | 7 => some .ord
  | _ => none

/-- Codes of the BRS conditions (13 R227). -/
def BrsCond.code : BrsCond → BitVec 3
  | .z => 0
  | .nz => 1
  | .neg => 2
  | .nneg => 3

/-- The BrsCond a code names, if it is assigned. -/
def BrsCond.ofCode (c : BitVec 3) : Option BrsCond :=
  match c.toNat with
  | 0 => some .z
  | 1 => some .nz
  | 2 => some .neg
  | 3 => some .nneg
  | _ => none

/-- Codes of the BRV votes (13 R227). -/
def Vote.code : Vote → BitVec 3
  | .any => 0
  | .all => 1
  | .noneSet => 2

/-- The Vote a code names, if it is assigned. -/
def Vote.ofCode (c : BitVec 3) : Option Vote :=
  match c.toNat with
  | 0 => some .any
  | 1 => some .all
  | 2 => some .noneSet
  | _ => none

/-- Codes of the reductions (13 R227). -/
def RedOp.code : RedOp → BitVec 3
  | .add => 0
  | .min => 1
  | .max => 2
  | .and => 3
  | .or => 4
  | .xor => 5
  | .fadd => 6

/-- The RedOp a code names, if it is assigned. -/
def RedOp.ofCode (c : BitVec 3) : Option RedOp :=
  match c.toNat with
  | 0 => some .add
  | 1 => some .min
  | 2 => some .max
  | 3 => some .and
  | 4 => some .or
  | 5 => some .xor
  | 6 => some .fadd
  | _ => none

/-- Codes of the atomic operations (13 R227). -/
def AtomOp.code : AtomOp → BitVec 3
  | .add => 0
  | .exch => 1
  | .cas => 2
  | .and => 3
  | .or => 4
  | .xor => 5
  | .min => 6
  | .max => 7

/-- The AtomOp a code names, if it is assigned. -/
def AtomOp.ofCode (c : BitVec 3) : Option AtomOp :=
  match c.toNat with
  | 0 => some .add
  | 1 => some .exch
  | 2 => some .cas
  | 3 => some .and
  | 4 => some .or
  | 5 => some .xor
  | 6 => some .min
  | 7 => some .max
  | _ => none

/-- Codes of the plane reductions (13 R227). -/
def PlaneRed.code : PlaneRed → BitVec 3
  | .add => 0
  | .min => 1
  | .max => 2

/-- The PlaneRed a code names, if it is assigned. -/
def PlaneRed.ofCode (c : BitVec 3) : Option PlaneRed :=
  match c.toNat with
  | 0 => some .add
  | 1 => some .min
  | 2 => some .max
  | _ => none

/-- Codes of the orders (06 R107). -/
def Order.code : Order → BitVec 2
  | .rlx => 0
  | .acq => 1
  | .rel => 2
  | .ar => 3

/-- The Order a code names, if it is assigned. -/
def Order.ofCode (c : BitVec 2) : Option Order :=
  match c.toNat with
  | 0 => some .rlx
  | 1 => some .acq
  | 2 => some .rel
  | 3 => some .ar
  | _ => none

/-- Codes of the scopes (06 R107). -/
def Scope.code : Scope → BitVec 2
  | .wave => 0
  | .wg => 1
  | .dev => 2
  | .sys => 3

/-- The Scope a code names, if it is assigned. -/
def Scope.ofCode (c : BitVec 2) : Option Scope :=
  match c.toNat with
  | 0 => some .wave
  | 1 => some .wg
  | 2 => some .dev
  | 3 => some .sys
  | _ => none

/-- Codes of the rounding modes (09 R154). -/
def Rnd.code : Rnd → BitVec 2
  | .rne => 0
  | .rz => 1
  | .ru => 2
  | .rd => 3

/-- The Rnd a code names, if it is assigned. -/
def Rnd.ofCode (c : BitVec 2) : Option Rnd :=
  match c.toNat with
  | 0 => some .rne
  | 1 => some .rz
  | 2 => some .ru
  | 3 => some .rd
  | _ => none

/-- Codes of the vector integer types (13 R225). -/
def VType.code : VType → BitVec 2
  | .i32 => 0
  | .n32 => 1
  | .i64 => 2
  | .n64 => 3

/-- The VType a code names, if it is assigned. -/
def VType.ofCode (c : BitVec 2) : Option VType :=
  match c.toNat with
  | 0 => some .i32
  | 1 => some .n32
  | 2 => some .i64
  | 3 => some .n64
  | _ => none

/-- Codes of the reduction types (13 R226). -/
def RedType.code : RedType → BitVec 3
  | .i32 => 0
  | .i64 => 1
  | .n32 => 2
  | .n64 => 3
  | .f32 => 4

/-- The RedType a code names, if it is assigned. -/
def RedType.ofCode (c : BitVec 3) : Option RedType :=
  match c.toNat with
  | 0 => some .i32
  | 1 => some .i64
  | 2 => some .n32
  | 3 => some .n64
  | 4 => some .f32
  | _ => none

/-- Codes of LANESEL (13 R225). -/
def LaneSel.code : LaneSel → BitVec 2
  | .lidx => 0
  | .lrot => 1
  | .lxor => 2

/-- The LaneSel a code names, if it is assigned. -/
def LaneSel.ofCode (c : BitVec 2) : Option LaneSel :=
  match c.toNat with
  | 0 => some .lidx
  | 1 => some .lrot
  | 2 => some .lxor
  | _ => none

/-- Codes of FORM (13 R225). -/
def PForm.code : PForm → BitVec 2
  | .lin => 0
  | .quad => 1
  | .expq => 2

/-- The PForm a code names, if it is assigned. -/
def PForm.ofCode (c : BitVec 2) : Option PForm :=
  match c.toNat with
  | 0 => some .lin
  | 1 => some .quad
  | 2 => some .expq
  | _ => none

/-- Codes of OFMT and EFMT (20 R315, 22 R320). -/
def ElemFmt.code : ElemFmt → BitVec 4
  | .f32 => 0
  | .f16 => 1
  | .bf16 => 2

/-- The ElemFmt a code names, if it is assigned. -/
def ElemFmt.ofCode (c : BitVec 4) : Option ElemFmt :=
  match c.toNat with
  | 0 => some .f32
  | 1 => some .f16
  | 2 => some .bf16
  | _ => none

/-- Codes of SCF (20 R300). -/
def ScaleFmt.code : ScaleFmt → BitVec 2
  | .nosc => 0
  | .e8 => 1
  | .s8 => 2

/-- The ScaleFmt a code names, if it is assigned. -/
def ScaleFmt.ofCode (c : BitVec 2) : Option ScaleFmt :=
  match c.toNat with
  | 0 => some .nosc
  | 1 => some .e8
  | 2 => some .s8
  | _ => none

/-- Codes of the accumulator banks (12 R205). -/
def Bank.code : Bank → BitVec 8
  | .acc0 => 0
  | .acc1 => 1

/-- The Bank a code names, if it is assigned. -/
def Bank.ofCode (c : BitVec 8) : Option Bank :=
  match c.toNat with
  | 0 => some .acc0
  | 1 => some .acc1
  | _ => none

/-- Numbers of the CSRs (11 R197). -/
def Csr.code : Csr → BitVec 8
  | .lane => 0
  | .wave => 1
  | .wgid => 2
  | .stage => 3
  | .ctx => 4
  | .phase => 5
  | .gang => 6
  | .vbase => 7
  | .vlen => 8
  | .fflags => 16
  | .pflags => 17
  | .pext => 18
  | .rowProgress => 19
  | .budget => 20
  | .tvec => 32
  | .tstat => 33
  | .tepc => 34
  | .trec => 35

/-- The Csr a code names, if it is assigned. -/
def Csr.ofCode (c : BitVec 8) : Option Csr :=
  match c.toNat with
  | 0 => some .lane
  | 1 => some .wave
  | 2 => some .wgid
  | 3 => some .stage
  | 4 => some .ctx
  | 5 => some .phase
  | 6 => some .gang
  | 7 => some .vbase
  | 8 => some .vlen
  | 16 => some .fflags
  | 17 => some .pflags
  | 18 => some .pext
  | 19 => some .rowProgress
  | 20 => some .budget
  | 32 => some .tvec
  | 33 => some .tstat
  | 34 => some .tepc
  | 35 => some .trec
  | _ => none

/-- TYPE codes of the memory family; codes 0 and 1 name .b32 and .b64 in an order that depends on whether the
instruction is a vector or a scalar one (13 R226). -/
def MemType.code (scalar : Bool) : MemType → BitVec 4
  | .b32 => if scalar then 1 else 0
  | .b64 => if scalar then 0 else 1
  | .i8 => 2
  | .n8 => 3
  | .i16 => 4
  | .n16 => 5
  | .i32 => 6
  | .n32 => 7
  | .i64 => 8
  | .n64 => 9
  | .f32 => 10

/-- The memory type a code names. -/
def MemType.ofCode (scalar : Bool) (c : BitVec 4) : Option MemType :=
  match c.toNat with
  | 0 => some (if scalar then .b64 else .b32)
  | 1 => some (if scalar then .b32 else .b64)
  | 2 => some .i8
  | 3 => some .n8
  | 4 => some .i16
  | 5 => some .n16
  | 6 => some .i32
  | 7 => some .n32
  | 8 => some .i64
  | 9 => some .n64
  | 10 => some .f32
  | _ => none

/-- The byte of a class S field (12 R205). -/
def SReg.byte : SReg → Byte
  | .s n => n.setWidth 8
  | .q n => 0x80 ||| n.setWidth 8
  | .zs => 0xF0

/-- The S register a byte names. -/
def SReg.ofByte (b : Byte) : Option SReg :=
  if b.toNat < 0x80 then some (.s (b.setWidth 7))
  else if b.toNat < 0x88 then some (.q (b.setWidth 3))
  else if b.toNat = 0xF0 then some .zs
  else none

/-- The low four bits of a K or P field; the high bits must be zero, which the decoder's last check sees to. -/
def nibble (b : Byte) : BitVec 4 := b.extractLsb' 0 4

def nibbleByte (k : BitVec 4) : Byte := k.setWidth 8

/-- The byte of an optional semaphore number, 0xFF for none (20 R299). -/
def semByte : Option (BitVec 6) → Byte
  | some n => n.setWidth 8
  | none => 0xFF

/-- The semaphore a byte names. -/
def semOfByte (b : Byte) : Option (Option (BitVec 6)) :=
  if b.toNat < 64 then some (some (b.setWidth 6)) else if b.toNat = 0xFF then some none else none

/-- A conversion byte (13 R226). -/
def Conv.byte : Conv → Byte
  | .fmt f => 0#2 ++ (if f.u then 1#1 else 0#1) ++ (if f.x then 1#1 else 0#1) ++ f.code
  | .i32 => 0x40
  | .n32 => 0x41
  | .i16 => 0x42
  | .n16 => 0x43

/-- The format bits [5:0] of a byte name. -/
def Fmt.ofByte (b : Byte) : Fmt := { code := b.extractLsb' 0 4, x := b.getLsbD 4, u := b.getLsbD 5 }

/-- The conversion a byte names. -/
def Conv.ofByte (b : Byte) : Option Conv :=
  match b.toNat with
  | 0x40 => some .i32
  | 0x41 => some .n32
  | 0x42 => some .i16
  | 0x43 => some .n16
  | _ => if b.toNat < 0x40 then some (.fmt (Fmt.ofByte b)) else none

/-- The format byte of a matrix instruction: SCF in bits [7:6] (20 R300). -/
def fmtByte (f : Fmt) (scf : ScaleFmt) : Byte :=
  scf.code ++ (if f.u then 1#1 else 0#1) ++ (if f.x then 1#1 else 0#1) ++ f.code

/-- The index operand: the control byte's IX and IXS bits and the B field (16 R272). -/
def Index.b : Index → Byte
  | .vec r _ => r
  | .noIndex => 0
  | .lane => 0

/-- The address control byte (16 R272). -/
def Index.control (ix : Index) (scale : BitVec 4) : Byte :=
  0#1 ++ scale ++ (match ix with
    | .vec _ true => 5#3
    | .vec _ false => 1#3
    | .noIndex => 0#3
    | .lane => 2#3)

/-- The index a control byte and a B field name. -/
def Index.ofControl (ctl b : Byte) : Option Index :=
  match (ctl.extractLsb' 0 3).toNat with
  | 0 => some .noIndex
  | 1 => some (.vec b false)
  | 2 => some .lane
  | 5 => some (.vec b true)
  | _ => none

/-- SC of a control byte. -/
def scaleOf (ctl : Byte) : BitVec 4 := ctl.extractLsb' 3 4

/-- A Bool as one bit. -/
def bit (b : Bool) : BitVec 1 := if b then 1#1 else 0#1

/-- The listed registers of REORDER as extension bytes (15 R269). -/
def regsExt : List VReg → DWord
  | [] => 0
  | r :: rest => (regsExt rest <<< 8) ||| r.setWidth 64

/-- The first n listed registers of an extension field. -/
def regsOf : Nat → DWord → List VReg
  | 0, _ => []
  | n + 1, e => e.extractLsb' 0 8 :: regsOf n (e >>> 8)

/-- The byte of an optional S register, zero for none. -/
def optByte : Option SReg → Byte
  | some r => r.byte
  | none => 0

/-- A tile number under its flag (20 R300). -/
def optTile (flag : Bool) (n : Byte) : Option Byte := if flag then some n else none

/-- The destination byte of CSRR. -/
def CsrDst.byte : CsrDst → Byte
  | .sreg d => d.byte
  | .vreg d => d

/-- The destination of CSRR: vector for %lane (24 R342). -/
def CsrDst.ofByte (vector : Bool) (b : Byte) : Option CsrDst :=
  if vector then some (.vreg b) else (SReg.ofByte b).map .sreg

/-- The fields of an encoded instruction; none for FILL and for steps without an encoding. -/
def encodeRaw : Instr → Option Raw
  | .nop h => some (Raw.form64 h 0x00)
  | .entry h => some (Raw.form64 h 0x01)
  | .br h off => some (Raw.form96 h 0x02 off)
  | .brs h cond a off => some ({ Raw.form96 h 0x03 off with sub := cond.code, a := a.byte })
  | .brv h vote km off => some ({ Raw.form96 h 0x04 off with sub := vote.code, km := km })
  | .bru h km off => some ({ Raw.form96 h 0x05 off with km := km })
  | .call h off => some (Raw.form96 h 0x06 off)
  | .callt h o sc a => some ({ Raw.form64 h 0x07 with a := a.byte, mod := 0#4 ++ o.code ++ sc.code })
  | .jmpt h o sc a => some ({ Raw.form64 h 0x08 with a := a.byte, mod := 0#4 ++ o.code ++ sc.code })
  | .ret h => some (Raw.form64 h 0x09)
  | .loop h d off => some ({ Raw.form96 h 0x0A off with d := d.setWidth 8 })
  | .exit h => some (Raw.form64 h 0x0B)
  | .trap h code => some (Raw.form96 h 0x0C code)
  | .trapf h => some (Raw.form64 h 0x0D)
  | .phase h ph => some ({ Raw.form64 h 0x0E with a := nibbleByte ph })
  | .smov h d a => some ({ Raw.form64 h 0x20 with d := d.byte, a := a.byte })
  | .smovi h d imm => some ({ Raw.form96 h 0x21 imm with d := d.byte })
  | .smovi128 h d imm => some ({ Raw.form128 h 0x21 imm with d := d.byte })
  | .sadd h d a b => some ({ Raw.form64 h 0x22 with d := d.byte, a := a.byte, b := b.byte })
  | .sadd96 h d a imm => some ({ Raw.form96 h 0x22 imm with d := d.byte, a := a.byte })
  | .ssub h d a b => some ({ Raw.form64 h 0x23 with d := d.byte, a := a.byte, b := b.byte })
  | .ssub96 h d a imm => some ({ Raw.form96 h 0x23 imm with d := d.byte, a := a.byte })
  | .smul h d a b => some ({ Raw.form64 h 0x24 with d := d.byte, a := a.byte, b := b.byte })
  | .smul96 h d a imm => some ({ Raw.form96 h 0x24 imm with d := d.byte, a := a.byte })
  | .smulh h n d a b => some ({ Raw.form64 h 0x25 with d := d.byte, a := a.byte, b := b.byte, mod := 0#7 ++ bit n })
  | .smulh96 h n d a imm => some ({ Raw.form96 h 0x25 imm with d := d.byte, a := a.byte, mod := 0#7 ++ bit n })
  | .sdiv h n d a b => some ({ Raw.form64 h 0x26 with d := d.byte, a := a.byte, b := b.byte, mod := 0#7 ++ bit n })
  | .sdiv96 h n d a imm => some ({ Raw.form96 h 0x26 imm with d := d.byte, a := a.byte, mod := 0#7 ++ bit n })
  | .srem h n d a b => some ({ Raw.form64 h 0x27 with d := d.byte, a := a.byte, b := b.byte, mod := 0#7 ++ bit n })
  | .srem96 h n d a imm => some ({ Raw.form96 h 0x27 imm with d := d.byte, a := a.byte, mod := 0#7 ++ bit n })
  | .sand h d a b => some ({ Raw.form64 h 0x28 with d := d.byte, a := a.byte, b := b.byte })
  | .sand96 h d a imm => some ({ Raw.form96 h 0x28 imm with d := d.byte, a := a.byte })
  | .sor h d a b => some ({ Raw.form64 h 0x29 with d := d.byte, a := a.byte, b := b.byte })
  | .sor96 h d a imm => some ({ Raw.form96 h 0x29 imm with d := d.byte, a := a.byte })
  | .sxor h d a b => some ({ Raw.form64 h 0x2A with d := d.byte, a := a.byte, b := b.byte })
  | .sxor96 h d a imm => some ({ Raw.form96 h 0x2A imm with d := d.byte, a := a.byte })
  | .sshl h d a b => some ({ Raw.form64 h 0x2B with d := d.byte, a := a.byte, b := b.byte })
  | .sshl96 h d a imm => some ({ Raw.form96 h 0x2B imm with d := d.byte, a := a.byte })
  | .sshr h d a b => some ({ Raw.form64 h 0x2C with d := d.byte, a := a.byte, b := b.byte })
  | .sshr96 h d a imm => some ({ Raw.form96 h 0x2C imm with d := d.byte, a := a.byte })
  | .ssar h d a b => some ({ Raw.form64 h 0x2D with d := d.byte, a := a.byte, b := b.byte })
  | .ssar96 h d a imm => some ({ Raw.form96 h 0x2D imm with d := d.byte, a := a.byte })
  | .smin h n d a b => some ({ Raw.form64 h 0x2E with d := d.byte, a := a.byte, b := b.byte, mod := 0#7 ++ bit n })
  | .smin96 h n d a imm => some ({ Raw.form96 h 0x2E imm with d := d.byte, a := a.byte, mod := 0#7 ++ bit n })
  | .smax h n d a b => some ({ Raw.form64 h 0x2F with d := d.byte, a := a.byte, b := b.byte, mod := 0#7 ++ bit n })
  | .smax96 h n d a imm => some ({ Raw.form96 h 0x2F imm with d := d.byte, a := a.byte, mod := 0#7 ++ bit n })
  | .scmp h n p d a b => some ({ Raw.form64 h 0x30 with sub := p.code, d := d.byte, a := a.byte, b := b.byte, mod := 0#7 ++ bit n })
  | .scmp96 h n p d a imm => some ({ Raw.form96 h 0x30 imm with sub := p.code, d := d.byte, a := a.byte, mod := 0#7 ++ bit n })
  | .ssel h d a b c => some ({ Raw.form64 h 0x31 with d := d.byte, a := a.byte, b := b.byte, c := c.byte })
  | .spopc h d a => some ({ Raw.form64 h 0x32 with d := d.byte, a := a.byte })
  | .sclz h d a => some ({ Raw.form64 h 0x33 with d := d.byte, a := a.byte })
  | .kand h d a b => some ({ Raw.form64 h 0x40 with d := nibbleByte d, a := nibbleByte a, b := nibbleByte b })
  | .kor h d a b => some ({ Raw.form64 h 0x41 with d := nibbleByte d, a := nibbleByte a, b := nibbleByte b })
  | .kxor h d a b => some ({ Raw.form64 h 0x42 with d := nibbleByte d, a := nibbleByte a, b := nibbleByte b })
  | .kandn h d a b => some ({ Raw.form64 h 0x43 with d := nibbleByte d, a := nibbleByte a, b := nibbleByte b })
  | .knot h d a => some ({ Raw.form64 h 0x44 with d := nibbleByte d, a := nibbleByte a })
  | .kmov h d a => some ({ Raw.form64 h 0x45 with d := nibbleByte d, a := nibbleByte a })
  | .kpopc h d a => some ({ Raw.form64 h 0x46 with d := d.byte, a := nibbleByte a })
  | .kfirst h d a => some ({ Raw.form64 h 0x47 with d := d.byte, a := nibbleByte a })
  | .krank h d a => some ({ Raw.form64 h 0x48 with d := d, a := nibbleByte a })
  | .ktos h d a hi => some ({ Raw.form64 h 0x49 with d := d.byte, a := nibbleByte a, b := 0#7 ++ bit hi })
  | .kfroms h d a hi => some ({ Raw.form64 h 0x4A with d := nibbleByte d, a := a.byte, b := 0#7 ++ bit hi })
  | .kcmps h n p d a => some ({ Raw.form64 h 0x4B with sub := p.code, d := nibbleByte d, a := a.byte, mod := 0#7 ++ bit n })
  | .vmov h k w d a => some ({ Raw.form64 h 0x50 with km := k, d := d, a := a, mod := bit w ++ 0#7 })
  | .vmov96 h k w d imm => some ({ Raw.form96 h 0x50 imm with km := k, d := d, mod := bit w ++ 0#7 })
  | .vmovs h k w d a => some ({ Raw.form64 h 0x51 with km := k, d := d, a := a.byte, mod := bit w ++ 0#7 })
  | .vadd h k ty sat d a b => some ({ Raw.form64 h 0x52 with km := k, d := d, a := a, b := b, mod := ty.code ++ bit sat ++ 0#5 })
  | .vadd96 h k ty sat d a imm => some ({ Raw.form96 h 0x52 imm with km := k, d := d, a := a, mod := ty.code ++ bit sat ++ 0#5 })
  | .vsub h k ty sat d a b => some ({ Raw.form64 h 0x53 with km := k, d := d, a := a, b := b, mod := ty.code ++ bit sat ++ 0#5 })
  | .vsub96 h k ty sat d a imm => some ({ Raw.form96 h 0x53 imm with km := k, d := d, a := a, mod := ty.code ++ bit sat ++ 0#5 })
  | .vmul h k ty sat d a b => some ({ Raw.form64 h 0x54 with km := k, d := d, a := a, b := b, mod := ty.code ++ bit sat ++ 0#5 })
  | .vmul96 h k ty sat d a imm => some ({ Raw.form96 h 0x54 imm with km := k, d := d, a := a, mod := ty.code ++ bit sat ++ 0#5 })
  | .vmulh h k ty d a b => some ({ Raw.form64 h 0x55 with km := k, d := d, a := a, b := b, mod := ty.code ++ 0#6 })
  | .vmulh96 h k ty d a imm => some ({ Raw.form96 h 0x55 imm with km := k, d := d, a := a, mod := ty.code ++ 0#6 })
  | .vmad h k ty sat d a b c => some ({ Raw.form64 h 0x56 with km := k, d := d, a := a, b := b, c := c, mod := ty.code ++ bit sat ++ 0#5 })
  | .vand h k w d a b => some ({ Raw.form64 h 0x57 with km := k, d := d, a := a, b := b, mod := bit w ++ 0#7 })
  | .vand96 h k w d a imm => some ({ Raw.form96 h 0x57 imm with km := k, d := d, a := a, mod := bit w ++ 0#7 })
  | .vor h k w d a b => some ({ Raw.form64 h 0x58 with km := k, d := d, a := a, b := b, mod := bit w ++ 0#7 })
  | .vor96 h k w d a imm => some ({ Raw.form96 h 0x58 imm with km := k, d := d, a := a, mod := bit w ++ 0#7 })
  | .vxor h k w d a b => some ({ Raw.form64 h 0x59 with km := k, d := d, a := a, b := b, mod := bit w ++ 0#7 })
  | .vxor96 h k w d a imm => some ({ Raw.form96 h 0x59 imm with km := k, d := d, a := a, mod := bit w ++ 0#7 })
  | .vshl h k w d a b => some ({ Raw.form64 h 0x5A with km := k, d := d, a := a, b := b, mod := bit w ++ 0#7 })
  | .vshl96 h k w d a imm => some ({ Raw.form96 h 0x5A imm with km := k, d := d, a := a, mod := bit w ++ 0#7 })
  | .vshr h k ty d a b => some ({ Raw.form64 h 0x5B with km := k, d := d, a := a, b := b, mod := ty.code ++ 0#6 })
  | .vshr96 h k ty d a imm => some ({ Raw.form96 h 0x5B imm with km := k, d := d, a := a, mod := ty.code ++ 0#6 })
  | .vsar h k ty d a b => some ({ Raw.form64 h 0x5C with km := k, d := d, a := a, b := b, mod := ty.code ++ 0#6 })
  | .vsar96 h k ty d a imm => some ({ Raw.form96 h 0x5C imm with km := k, d := d, a := a, mod := ty.code ++ 0#6 })
  | .vmin h k ty d a b => some ({ Raw.form64 h 0x5D with km := k, d := d, a := a, b := b, mod := ty.code ++ 0#6 })
  | .vmin96 h k ty d a imm => some ({ Raw.form96 h 0x5D imm with km := k, d := d, a := a, mod := ty.code ++ 0#6 })
  | .vmax h k ty d a b => some ({ Raw.form64 h 0x5E with km := k, d := d, a := a, b := b, mod := ty.code ++ 0#6 })
  | .vmax96 h k ty d a imm => some ({ Raw.form96 h 0x5E imm with km := k, d := d, a := a, mod := ty.code ++ 0#6 })
  | .vcmp h k ty p d a b => some ({ Raw.form64 h 0x5F with km := k, sub := p.code, d := nibbleByte d, a := a, b := b, mod := ty.code ++ 0#6 })
  | .vcmp96 h k ty p d a imm => some ({ Raw.form96 h 0x5F imm with km := k, sub := p.code, d := nibbleByte d, a := a, mod := ty.code ++ 0#6 })
  | .vsel h k w d a b c => some ({ Raw.form64 h 0x60 with km := k, d := d, a := a, b := b, c := nibbleByte c, mod := bit w ++ 0#7 })
  | .vclz h k w d a => some ({ Raw.form64 h 0x61 with km := k, d := d, a := a, mod := bit w ++ 0#7 })
  | .vpopc h k w d a => some ({ Raw.form64 h 0x62 with km := k, d := d, a := a, mod := bit w ++ 0#7 })
  | .vaddc h k ty d a b c => some ({ Raw.form64 h 0x63 with km := k, d := d, a := a, b := b, c := nibbleByte c, mod := ty.code ++ 0#6 })
  | .fadd h k rm d a b => some ({ Raw.form64 h 0x80 with km := k, d := d, a := a, b := b, mod := 0#6 ++ rm.code })
  | .fadd96 h k rm d a imm => some ({ Raw.form96 h 0x80 imm with km := k, d := d, a := a, mod := 0#6 ++ rm.code })
  | .fsub h k rm d a b => some ({ Raw.form64 h 0x81 with km := k, d := d, a := a, b := b, mod := 0#6 ++ rm.code })
  | .fsub96 h k rm d a imm => some ({ Raw.form96 h 0x81 imm with km := k, d := d, a := a, mod := 0#6 ++ rm.code })
  | .fmul h k rm d a b => some ({ Raw.form64 h 0x82 with km := k, d := d, a := a, b := b, mod := 0#6 ++ rm.code })
  | .fmul96 h k rm d a imm => some ({ Raw.form96 h 0x82 imm with km := k, d := d, a := a, mod := 0#6 ++ rm.code })
  | .ffma h k rm d a b c => some ({ Raw.form64 h 0x83 with km := k, d := d, a := a, b := b, c := c, mod := 0#6 ++ rm.code })
  | .fmin h k d a b => some ({ Raw.form64 h 0x84 with km := k, d := d, a := a, b := b })
  | .fmin96 h k d a imm => some ({ Raw.form96 h 0x84 imm with km := k, d := d, a := a })
  | .fmax h k d a b => some ({ Raw.form64 h 0x85 with km := k, d := d, a := a, b := b })
  | .fmax96 h k d a imm => some ({ Raw.form96 h 0x85 imm with km := k, d := d, a := a })
  | .fcmp h k p d a b => some ({ Raw.form64 h 0x86 with km := k, sub := p.code, d := nibbleByte d, a := a, b := b })
  | .fcmp96 h k p d a imm => some ({ Raw.form96 h 0x86 imm with km := k, sub := p.code, d := nibbleByte d, a := a })
  | .fdiv h k rm d a b => some ({ Raw.form64 h 0x87 with km := k, d := d, a := a, b := b, mod := 0#6 ++ rm.code })
  | .fsqrt h k rm d a => some ({ Raw.form64 h 0x88 with km := k, d := d, a := a, mod := 0#6 ++ rm.code })
  | .frcp h k d a => some ({ Raw.form64 h 0x89 with km := k, d := d, a := a })
  | .frsq h k d a => some ({ Raw.form64 h 0x8A with km := k, d := d, a := a })
  | .fexp2 h k d a => some ({ Raw.form64 h 0x8B with km := k, d := d, a := a })
  | .flog2 h k d a => some ({ Raw.form64 h 0x8C with km := k, d := d, a := a })
  | .fcvt h k sat rm dt st d a => some ({ Raw.form64 h 0x8D with km := k, d := d, a := a, b := dt.byte, c := st.byte, mod := 0#4 ++ bit sat ++ 0#1 ++ rm.code })
  | .fclass h k d a => some ({ Raw.form64 h 0x8E with km := k, d := d, a := a })
  | .frnd h k rm d a => some ({ Raw.form64 h 0x8F with km := k, d := d, a := a, mod := 0#6 ++ rm.code })
  | .vshuf h k w sel d a b => some ({ Raw.form64 h 0xA0 with km := k, d := d, a := a, b := b, mod := 0#2 ++ bit w ++ sel.code ++ 0#3 })
  | .vrot h k w d a b => some ({ Raw.form64 h 0xA1 with km := k, d := d, a := a, b := b.byte, mod := 0#2 ++ bit w ++ 0#5 })
  | .vbcast h k w d a b => some ({ Raw.form64 h 0xA2 with km := k, d := d, a := a, b := b.byte, mod := 0#2 ++ bit w ++ 0#5 })
  | .vscan h k ty op rm d a => some ({ Raw.form64 h 0xA3 with km := k, sub := op.code, d := d, a := a, mod := ty.code ++ 0#3 ++ rm.code })
  | .vred h k ty op rm d a => some ({ Raw.form64 h 0xA4 with km := k, sub := op.code, d := d.byte, a := a, mod := ty.code ++ 0#3 ++ rm.code })
  | .vsegred h k ty op rm d a b => some ({ Raw.form64 h 0xA5 with km := k, sub := op.code, d := d, a := a, b := nibbleByte b, mod := ty.code ++ 0#3 ++ rm.code })
  | .vcomp h k w d a => some ({ Raw.form64 h 0xA6 with km := k, d := d, a := a, mod := 0#2 ++ bit w ++ 0#5 })
  | .reorder h k w a b regs => some ({ Raw.form128 h 0xA7 (regsExt regs) with km := k, a := a, b := b.byte, c := BitVec.ofNat 8 regs.length, mod := 0#2 ++ bit w ++ 0#5 })
  | .vld h k ty o sc d a ix scale => some ({ Raw.form64 h 0xB0 with km := k, d := d, a := a.byte, b := ix.b, c := ix.control scale, mod := ty.code false ++ o.code ++ sc.code })
  | .vld96 h k ty o sc d a ix scale disp => some ({ Raw.form96 h 0xB0 disp with km := k, d := d, a := a.byte, b := ix.b, c := ix.control scale, mod := ty.code false ++ o.code ++ sc.code })
  | .vld128 h k ty o sc d a ix disp scale => some ({ Raw.form128 h 0xB0 (scale ++ disp) with km := k, d := d, a := a.byte, b := ix.b, c := ix.control 0, mod := ty.code false ++ o.code ++ sc.code })
  | .vst h k ty o sc d a ix scale => some ({ Raw.form64 h 0xB1 with km := k, d := d, a := a.byte, b := ix.b, c := ix.control scale, mod := ty.code false ++ o.code ++ sc.code })
  | .vst96 h k ty o sc d a ix scale disp => some ({ Raw.form96 h 0xB1 disp with km := k, d := d, a := a.byte, b := ix.b, c := ix.control scale, mod := ty.code false ++ o.code ++ sc.code })
  | .vst128 h k ty o sc d a ix disp scale => some ({ Raw.form128 h 0xB1 (scale ++ disp) with km := k, d := d, a := a.byte, b := ix.b, c := ix.control 0, mod := ty.code false ++ o.code ++ sc.code })
  | .vldl h k o sc d a b c level status => some ({ Raw.form128 h 0xB2 (0#48 ++ status ++ level) with km := k, d := d, a := a.byte, b := b, c := c, mod := 0#4 ++ o.code ++ sc.code })
  | .vcst h k ty o sc d a => some ({ Raw.form64 h 0xB3 with km := k, d := d, a := a.byte, mod := ty.code false ++ o.code ++ sc.code })
  | .vcst96 h k ty o sc d a disp => some ({ Raw.form96 h 0xB3 disp with km := k, d := d, a := a.byte, mod := ty.code false ++ o.code ++ sc.code })
  | .vcst128 h k ty o sc d a disp stride => some ({ Raw.form128 h 0xB3 (stride ++ disp) with km := k, d := d, a := a.byte, mod := ty.code false ++ o.code ++ sc.code })
  | .sld h ty o sc d a => some ({ Raw.form64 h 0xB4 with d := d.byte, a := a.byte, mod := ty.code true ++ o.code ++ sc.code })
  | .sld96 h ty o sc d a disp => some ({ Raw.form96 h 0xB4 disp with d := d.byte, a := a.byte, mod := ty.code true ++ o.code ++ sc.code })
  | .sst h ty o sc d a => some ({ Raw.form64 h 0xB5 with d := d.byte, a := a.byte, mod := ty.code true ++ o.code ++ sc.code })
  | .sst96 h ty o sc d a disp => some ({ Raw.form96 h 0xB5 disp with d := d.byte, a := a.byte, mod := ty.code true ++ o.code ++ sc.code })
  | .atom h k ty op o sc d a b c => some ({ Raw.form64 h 0xB6 with km := k, sub := op.code, d := d, a := a.byte, b := b, c := c, mod := ty.code false ++ o.code ++ sc.code })
  | .atom96 h k ty op o sc d a b c disp => some ({ Raw.form96 h 0xB6 disp with km := k, sub := op.code, d := d, a := a.byte, b := b, c := c, mod := ty.code false ++ o.code ++ sc.code })
  | .atom128 h k ty op o sc d a ix c disp scale =>
    some ({ Raw.form128 h 0xB6 (scale ++ ix.control 0 ++ disp) with km := k, sub := op.code, d := d, a := a.byte, b := ix.b, c := c, mod := ty.code false ++ o.code ++ sc.code })
  | .satom h ty op o sc d a b c => some ({ Raw.form64 h 0xB7 with sub := op.code, d := d.byte, a := a.byte, b := b.byte, c := optByte c, mod := ty.code true ++ o.code ++ sc.code })
  | .satom96 h ty op o sc d a b c disp => some ({ Raw.form96 h 0xB7 disp with sub := op.code, d := d.byte, a := a.byte, b := b.byte, c := optByte c, mod := ty.code true ++ o.code ++ sc.code })
  | .fence h o sc => some ({ Raw.form64 h 0xB8 with mod := 0#4 ++ o.code ++ sc.code })
  | .ifence h => some (Raw.form64 h 0xB9)
  | .lodfence h a => some ({ Raw.form64 h 0xBA with a := a.byte })
  | .lodfence96 h imm => some (Raw.form96 h 0xBA imm)
  | .publish h d a => some ({ Raw.form64 h 0xBB with d := d.byte, a := a.byte })
  | .publish96 h d imm => some ({ Raw.form96 h 0xBB imm with d := d.byte })
  | .wait h ld st cp tl => some (Raw.form96 h 0xBC (tl ++ cp ++ st ++ ld))
  | .semacq h sem b => some ({ Raw.form64 h 0xBD with a := sem.setWidth 8, b := b.byte })
  | .semacq96 h sem imm => some ({ Raw.form96 h 0xBD imm with a := sem.setWidth 8 })
  | .semrel h sem b c => some ({ Raw.form64 h 0xBE with a := sem.setWidth 8, b := b.byte, c := c.byte })
  | .semrel96 h sem c imm => some ({ Raw.form96 h 0xBE imm with a := sem.setWidth 8, c := c.byte })
  | .binit h a b => some ({ Raw.form64 h 0xBF with a := a.byte, b := b.byte })
  | .barrive h d a => some ({ Raw.form64 h 0xC0 with d := d.byte, a := a.byte })
  | .bwait h d a b => some ({ Raw.form64 h 0xC1 with d := d.byte, a := a.byte, b := b.byte })
  | .binval h a => some ({ Raw.form64 h 0xC2 with a := a.byte })
  | .msend h d a b arg => some ({ Raw.form128 h 0xC3 arg with d := d.byte, a := a, b := b.byte })
  | .mrecv h d a => some ({ Raw.form64 h 0xC4 with d := d, a := a.byte })
  | .tqpush h d a b c => some ({ Raw.form64 h 0xC5 with d := d.byte, a := a.byte, b := b.byte, c := c.byte })
  | .tqpop h d a b => some ({ Raw.form64 h 0xC6 with d := d.byte, a := a.byte, b := b.setWidth 8 })
  | .spawn h k d a b => some ({ Raw.form64 h 0xC7 with km := k, d := nibbleByte d, a := a.byte, b := b })
  | .spawn128 h k d b ea => some ({ Raw.form128 h 0xC7 ea with km := k, d := nibbleByte d, b := b })
  | .launch h d a b => some ({ Raw.form64 h 0xC8 with d := d.byte, a := a.byte, b := b.byte })
  | .talloc h d a b => some ({ Raw.form64 h 0xC9 with d := d.byte, a := a.byte, b := b.byte })
  | .talloc96 h d a imm => some ({ Raw.form96 h 0xC9 imm with d := d.byte, a := a.byte })
  | .tfree h a => some ({ Raw.form64 h 0xCA with a := a.byte })
  | .tld h o sc a b c off sem => some ({ Raw.form128 h 0xCB (0#24 ++ semByte sem ++ off) with a := a.byte, b := b.byte, c := c.byte, mod := 0#4 ++ o.code ++ sc.code })
  | .tst h o sc a b c off sem => some ({ Raw.form128 h 0xCC (0#24 ++ semByte sem ++ off) with a := a.byte, b := b.byte, c := c.byte, mod := 0#4 ++ o.code ++ sc.code })
  | .mkshape h d a b disp => some ({ Raw.form128 h 0xD0 (disp.setWidth 64) with d := d.byte, a := a.byte, b := b })
  | .xcopy h mc lod o sc sem a b c rmk cmk dt st =>
    some ({ Raw.form128 h 0xD1 (0#14 ++ bit st.isSome ++ bit dt.isSome ++ st.getD 0 ++ dt.getD 0 ++ cmk ++ rmk) with d := semByte sem, a := a.byte, b := b.byte, c := c.byte, mod := 0#2 ++ bit lod ++ bit mc ++ o.code ++ sc.code })
  | .xgather h o sc sem a b c count esz dt dtile limit =>
    some ({ Raw.form128 h 0xD2 (limit ++ dtile ++ 0#5 ++ bit dt ++ esz ++ count) with d := semByte sem, a := a.byte, b := b, c := c.byte, mod := 0#4 ++ o.code ++ sc.code })
  | .mgang h a => some ({ Raw.form64 h 0xD3 with a := a.byte })
  | .mwload h a b c f scf kbm1 ta tile => some ({ Raw.form128 h 0xD4 (0#40 ++ tile ++ 0#3 ++ bit ta ++ kbm1 ++ fmtByte f scf) with a := a.byte, b := b.byte, c := c.byte })
  | .mmul h d a b c f scf mm1 kbm1 acc ta tile =>
    some ({ Raw.form128 h 0xD5 (0#32 ++ tile ++ 0#2 ++ bit ta ++ bit acc ++ kbm1 ++ mm1 ++ fmtByte f scf) with d := d.code, a := a.byte, b := b.byte, c := c.byte })
  | .mdrain h add o sc d a b sem ofmt mm1 dt dtile =>
    some ({ Raw.form128 h 0xD6 (0#32 ++ dtile ++ 0#7 ++ bit dt ++ mm1 ++ 0#4 ++ ofmt.code) with d := d.code, a := a.byte, b := b.byte, c := semByte sem, mod := 0#3 ++ bit add ++ o.code ++ sc.code })
  | .mstat h d sel clear => some ({ Raw.form64 h 0xD7 with d := d.byte, a := sel.setWidth 8, b := clear.setWidth 8 })
  | .pcfg h k wm1 hm1 => some ({ Raw.form96 h 0xE0 (0#18 ++ hm1 ++ 0#2 ++ wm1) with km := k })
  | .peval h k form add d a b c ox oy => some ({ Raw.form128 h 0xE1 (0#31 ++ bit add ++ oy ++ ox) with km := k, d := nibbleByte d, a := a.byte, b := b.byte, c := c.byte, mod := 0#6 ++ form.code })
  | .pld h k d a b tile ef => some ({ Raw.form128 h 0xE2 (0#52 ++ ef.code ++ tile) with km := k, d := nibbleByte d, a := a.byte, b := b.byte })
  | .pst h k d a b tile ef => some ({ Raw.form128 h 0xE3 (0#52 ++ ef.code ++ tile) with km := k, d := nibbleByte d, a := a.byte, b := b.byte })
  | .padd h k d a b => some ({ Raw.form64 h 0xE4 with km := k, d := nibbleByte d, a := nibbleByte a, b := nibbleByte b })
  | .pmul h k d a b => some ({ Raw.form64 h 0xE5 with km := k, d := nibbleByte d, a := nibbleByte a, b := nibbleByte b })
  | .pfma h k d a b c => some ({ Raw.form64 h 0xE6 with km := k, d := nibbleByte d, a := nibbleByte a, b := nibbleByte b, c := nibbleByte c })
  | .pmin h k d a b => some ({ Raw.form64 h 0xE7 with km := k, d := nibbleByte d, a := nibbleByte a, b := nibbleByte b })
  | .pmax h k d a b => some ({ Raw.form64 h 0xE8 with km := k, d := nibbleByte d, a := nibbleByte a, b := nibbleByte b })
  | .pexp2 h k d a => some ({ Raw.form64 h 0xE9 with km := k, d := nibbleByte d, a := nibbleByte a })
  | .prcp h k d a => some ({ Raw.form64 h 0xEA with km := k, d := nibbleByte d, a := nibbleByte a })
  | .pif h k p a b => some ({ Raw.form64 h 0xEB with km := k, a := nibbleByte a, b := nibbleByte b, c := 0#5 ++ p.code })
  | .pelse h k => some ({ Raw.form64 h 0xEB with km := k, sub := 1 })
  | .pend h k => some ({ Raw.form64 h 0xEB with km := k, sub := 2 })
  | .pblend h k d a b => some ({ Raw.form64 h 0xEC with km := k, d := nibbleByte d, a := nibbleByte a, b := nibbleByte b })
  | .pred h k op d a => some ({ Raw.form64 h 0xED with km := k, sub := op.code, d := d.byte, a := nibbleByte a })
  | .prow h k op d a => some ({ Raw.form64 h 0xEE with km := k, sub := op.code, d := d, a := nibbleByte a })
  | .binapp h k d a b c ts => some ({ Raw.form128 h 0xEF (ts.setWidth 64) with km := k, d := nibbleByte d, a := a, b := b, c := c.byte })
  | .rstart h k d => some ({ Raw.form64 h 0xF0 with km := k, d := d })
  | .rbox h k d a b => some ({ Raw.form64 h 0xF1 with km := k, d := d, a := a, b := b })
  | .rtri h k d a b => some ({ Raw.form64 h 0xF2 with km := k, d := d, a := a, b := b })
  | .rpush h k d a c => some ({ Raw.form64 h 0xF3 with km := k, d := d, a := a, c := nibbleByte c })
  | .rpop h k d a => some ({ Raw.form64 h 0xF4 with km := k, d := d, a := a })
  | .rstop h k d => some ({ Raw.form64 h 0xF5 with km := k, d := d })
  | .csrr h d csr => some ({ Raw.form64 h 0xF8 with d := d.byte, a := csr.code })
  | .csrw h csr a => some ({ Raw.form64 h 0xF9 with d := csr.code, a := a.byte })
  | .feat h d a => some ({ Raw.form64 h 0xFA with d := d.byte, a := a.byte })
  | .feat96 h d imm => some ({ Raw.form96 h 0xFA imm with d := d.byte })
  | .tret h => some (Raw.form64 h 0xFB)
  | .halt h => some (Raw.form64 h 0xFC)
  | _ => none

/-- Control instructions (14 R230). -/
def decodeControl (r : Raw) : Option Instr :=
  match r.op.toNat, r.len with
  | 0x00, .w64 => some (.nop r.h)
  | 0x01, .w64 => some (.entry r.h)
  | 0x02, .w96 => some (.br r.h r.imm32)
  | 0x03, .w96 => do some (.brs r.h (← BrsCond.ofCode r.sub) (← SReg.ofByte r.a) r.imm32)
  | 0x04, .w96 => do some (.brv r.h (← Vote.ofCode r.sub) r.km r.imm32)
  | 0x05, .w96 => some (.bru r.h r.km r.imm32)
  | 0x06, .w96 => some (.call r.h r.imm32)
  | 0x07, .w64 => do some (.callt r.h (← Order.ofCode r.modOrder) (← Scope.ofCode r.modLow) (← SReg.ofByte r.a))
  | 0x08, .w64 => do some (.jmpt r.h (← Order.ofCode r.modOrder) (← Scope.ofCode r.modLow) (← SReg.ofByte r.a))
  | 0x09, .w64 => some (.ret r.h)
  | 0x0A, .w96 => some (.loop r.h (r.d.extractLsb' 0 7) r.imm32)
  | 0x0B, .w64 => some (.exit r.h)
  | 0x0C, .w96 => some (.trap r.h r.imm32)
  | 0x0D, .w64 => some (.trapf r.h)
  | 0x0E, .w64 => some (.phase r.h (nibble r.a))
  | _, _ => none

/-- Scalar instructions (14 R240). -/
def decodeScalar (r : Raw) : Option Instr :=
  match r.op.toNat, r.len with
  | 0x20, .w64 => do some (.smov r.h (← SReg.ofByte r.d) (← SReg.ofByte r.a))
  | 0x21, .w96 => do some (.smovi r.h (← SReg.ofByte r.d) r.imm32)
  | 0x21, .w128 => do some (.smovi128 r.h (← SReg.ofByte r.d) r.imm)
  | 0x22, .w64 => do some (.sadd r.h (← SReg.ofByte r.d) (← SReg.ofByte r.a) (← SReg.ofByte r.b))
  | 0x22, .w96 => do some (.sadd96 r.h (← SReg.ofByte r.d) (← SReg.ofByte r.a) r.imm32)
  | 0x23, .w64 => do some (.ssub r.h (← SReg.ofByte r.d) (← SReg.ofByte r.a) (← SReg.ofByte r.b))
  | 0x23, .w96 => do some (.ssub96 r.h (← SReg.ofByte r.d) (← SReg.ofByte r.a) r.imm32)
  | 0x24, .w64 => do some (.smul r.h (← SReg.ofByte r.d) (← SReg.ofByte r.a) (← SReg.ofByte r.b))
  | 0x24, .w96 => do some (.smul96 r.h (← SReg.ofByte r.d) (← SReg.ofByte r.a) r.imm32)
  | 0x25, .w64 => do some (.smulh r.h (r.mod.getLsbD 0) (← SReg.ofByte r.d) (← SReg.ofByte r.a) (← SReg.ofByte r.b))
  | 0x25, .w96 => do some (.smulh96 r.h (r.mod.getLsbD 0) (← SReg.ofByte r.d) (← SReg.ofByte r.a) r.imm32)
  | 0x26, .w64 => do some (.sdiv r.h (r.mod.getLsbD 0) (← SReg.ofByte r.d) (← SReg.ofByte r.a) (← SReg.ofByte r.b))
  | 0x26, .w96 => do some (.sdiv96 r.h (r.mod.getLsbD 0) (← SReg.ofByte r.d) (← SReg.ofByte r.a) r.imm32)
  | 0x27, .w64 => do some (.srem r.h (r.mod.getLsbD 0) (← SReg.ofByte r.d) (← SReg.ofByte r.a) (← SReg.ofByte r.b))
  | 0x27, .w96 => do some (.srem96 r.h (r.mod.getLsbD 0) (← SReg.ofByte r.d) (← SReg.ofByte r.a) r.imm32)
  | 0x28, .w64 => do some (.sand r.h (← SReg.ofByte r.d) (← SReg.ofByte r.a) (← SReg.ofByte r.b))
  | 0x28, .w96 => do some (.sand96 r.h (← SReg.ofByte r.d) (← SReg.ofByte r.a) r.imm32)
  | 0x29, .w64 => do some (.sor r.h (← SReg.ofByte r.d) (← SReg.ofByte r.a) (← SReg.ofByte r.b))
  | 0x29, .w96 => do some (.sor96 r.h (← SReg.ofByte r.d) (← SReg.ofByte r.a) r.imm32)
  | 0x2A, .w64 => do some (.sxor r.h (← SReg.ofByte r.d) (← SReg.ofByte r.a) (← SReg.ofByte r.b))
  | 0x2A, .w96 => do some (.sxor96 r.h (← SReg.ofByte r.d) (← SReg.ofByte r.a) r.imm32)
  | 0x2B, .w64 => do some (.sshl r.h (← SReg.ofByte r.d) (← SReg.ofByte r.a) (← SReg.ofByte r.b))
  | 0x2B, .w96 => do some (.sshl96 r.h (← SReg.ofByte r.d) (← SReg.ofByte r.a) r.imm32)
  | 0x2C, .w64 => do some (.sshr r.h (← SReg.ofByte r.d) (← SReg.ofByte r.a) (← SReg.ofByte r.b))
  | 0x2C, .w96 => do some (.sshr96 r.h (← SReg.ofByte r.d) (← SReg.ofByte r.a) r.imm32)
  | 0x2D, .w64 => do some (.ssar r.h (← SReg.ofByte r.d) (← SReg.ofByte r.a) (← SReg.ofByte r.b))
  | 0x2D, .w96 => do some (.ssar96 r.h (← SReg.ofByte r.d) (← SReg.ofByte r.a) r.imm32)
  | 0x2E, .w64 => do some (.smin r.h (r.mod.getLsbD 0) (← SReg.ofByte r.d) (← SReg.ofByte r.a) (← SReg.ofByte r.b))
  | 0x2E, .w96 => do some (.smin96 r.h (r.mod.getLsbD 0) (← SReg.ofByte r.d) (← SReg.ofByte r.a) r.imm32)
  | 0x2F, .w64 => do some (.smax r.h (r.mod.getLsbD 0) (← SReg.ofByte r.d) (← SReg.ofByte r.a) (← SReg.ofByte r.b))
  | 0x2F, .w96 => do some (.smax96 r.h (r.mod.getLsbD 0) (← SReg.ofByte r.d) (← SReg.ofByte r.a) r.imm32)
  | 0x30, .w64 =>
    do some (.scmp r.h (r.mod.getLsbD 0) (← IntPred.ofCode r.sub) (← SReg.ofByte r.d) (← SReg.ofByte r.a) (← SReg.ofByte r.b))
  | 0x30, .w96 =>
    do some (.scmp96 r.h (r.mod.getLsbD 0) (← IntPred.ofCode r.sub) (← SReg.ofByte r.d) (← SReg.ofByte r.a) r.imm32)
  | 0x31, .w64 => do some (.ssel r.h (← SReg.ofByte r.d) (← SReg.ofByte r.a) (← SReg.ofByte r.b) (← SReg.ofByte r.c))
  | 0x32, .w64 => do some (.spopc r.h (← SReg.ofByte r.d) (← SReg.ofByte r.a))
  | 0x33, .w64 => do some (.sclz r.h (← SReg.ofByte r.d) (← SReg.ofByte r.a))
  | _, _ => none

/-- Lane-mask instructions (14 R245). -/
def decodeMask (r : Raw) : Option Instr :=
  match r.op.toNat, r.len with
  | 0x40, .w64 => some (.kand r.h (nibble r.d) (nibble r.a) (nibble r.b))
  | 0x41, .w64 => some (.kor r.h (nibble r.d) (nibble r.a) (nibble r.b))
  | 0x42, .w64 => some (.kxor r.h (nibble r.d) (nibble r.a) (nibble r.b))
  | 0x43, .w64 => some (.kandn r.h (nibble r.d) (nibble r.a) (nibble r.b))
  | 0x44, .w64 => some (.knot r.h (nibble r.d) (nibble r.a))
  | 0x45, .w64 => some (.kmov r.h (nibble r.d) (nibble r.a))
  | 0x46, .w64 => do some (.kpopc r.h (← SReg.ofByte r.d) (nibble r.a))
  | 0x47, .w64 => do some (.kfirst r.h (← SReg.ofByte r.d) (nibble r.a))
  | 0x48, .w64 => some (.krank r.h r.d (nibble r.a))
  | 0x49, .w64 => do some (.ktos r.h (← SReg.ofByte r.d) (nibble r.a) (r.b.getLsbD 0))
  | 0x4A, .w64 => do some (.kfroms r.h (nibble r.d) (← SReg.ofByte r.a) (r.b.getLsbD 0))
  | 0x4B, .w64 => do some (.kcmps r.h (r.mod.getLsbD 0) (← IntPred.ofCode r.sub) (nibble r.d) (← SReg.ofByte r.a))
  | _, _ => none

/-- Vector integer instructions (15 R250). -/
def decodeVectorInt (r : Raw) : Option Instr :=
  match r.op.toNat, r.len with
  | 0x50, .w64 => some (.vmov r.h r.km (r.mod.getLsbD 7) r.d r.a)
  | 0x50, .w96 => some (.vmov96 r.h r.km (r.mod.getLsbD 7) r.d r.imm32)
  | 0x51, .w64 => do some (.vmovs r.h r.km (r.mod.getLsbD 7) r.d (← SReg.ofByte r.a))
  | 0x52, .w64 => do some (.vadd r.h r.km (← VType.ofCode (r.mod.extractLsb' 6 2)) (r.mod.getLsbD 5) r.d r.a r.b)
  | 0x52, .w96 =>
    do some (.vadd96 r.h r.km (← VType.ofCode (r.mod.extractLsb' 6 2)) (r.mod.getLsbD 5) r.d r.a r.imm32)
  | 0x53, .w64 => do some (.vsub r.h r.km (← VType.ofCode (r.mod.extractLsb' 6 2)) (r.mod.getLsbD 5) r.d r.a r.b)
  | 0x53, .w96 =>
    do some (.vsub96 r.h r.km (← VType.ofCode (r.mod.extractLsb' 6 2)) (r.mod.getLsbD 5) r.d r.a r.imm32)
  | 0x54, .w64 => do some (.vmul r.h r.km (← VType.ofCode (r.mod.extractLsb' 6 2)) (r.mod.getLsbD 5) r.d r.a r.b)
  | 0x54, .w96 =>
    do some (.vmul96 r.h r.km (← VType.ofCode (r.mod.extractLsb' 6 2)) (r.mod.getLsbD 5) r.d r.a r.imm32)
  | 0x55, .w64 => do some (.vmulh r.h r.km (← VType.ofCode (r.mod.extractLsb' 6 2)) r.d r.a r.b)
  | 0x55, .w96 => do some (.vmulh96 r.h r.km (← VType.ofCode (r.mod.extractLsb' 6 2)) r.d r.a r.imm32)
  | 0x56, .w64 => do some (.vmad r.h r.km (← VType.ofCode (r.mod.extractLsb' 6 2)) (r.mod.getLsbD 5) r.d r.a r.b r.c)
  | 0x57, .w64 => some (.vand r.h r.km (r.mod.getLsbD 7) r.d r.a r.b)
  | 0x57, .w96 => some (.vand96 r.h r.km (r.mod.getLsbD 7) r.d r.a r.imm32)
  | 0x58, .w64 => some (.vor r.h r.km (r.mod.getLsbD 7) r.d r.a r.b)
  | 0x58, .w96 => some (.vor96 r.h r.km (r.mod.getLsbD 7) r.d r.a r.imm32)
  | 0x59, .w64 => some (.vxor r.h r.km (r.mod.getLsbD 7) r.d r.a r.b)
  | 0x59, .w96 => some (.vxor96 r.h r.km (r.mod.getLsbD 7) r.d r.a r.imm32)
  | 0x5A, .w64 => some (.vshl r.h r.km (r.mod.getLsbD 7) r.d r.a r.b)
  | 0x5A, .w96 => some (.vshl96 r.h r.km (r.mod.getLsbD 7) r.d r.a r.imm32)
  | 0x5B, .w64 => do some (.vshr r.h r.km (← VType.ofCode (r.mod.extractLsb' 6 2)) r.d r.a r.b)
  | 0x5B, .w96 => do some (.vshr96 r.h r.km (← VType.ofCode (r.mod.extractLsb' 6 2)) r.d r.a r.imm32)
  | 0x5C, .w64 => do some (.vsar r.h r.km (← VType.ofCode (r.mod.extractLsb' 6 2)) r.d r.a r.b)
  | 0x5C, .w96 => do some (.vsar96 r.h r.km (← VType.ofCode (r.mod.extractLsb' 6 2)) r.d r.a r.imm32)
  | 0x5D, .w64 => do some (.vmin r.h r.km (← VType.ofCode (r.mod.extractLsb' 6 2)) r.d r.a r.b)
  | 0x5D, .w96 => do some (.vmin96 r.h r.km (← VType.ofCode (r.mod.extractLsb' 6 2)) r.d r.a r.imm32)
  | 0x5E, .w64 => do some (.vmax r.h r.km (← VType.ofCode (r.mod.extractLsb' 6 2)) r.d r.a r.b)
  | 0x5E, .w96 => do some (.vmax96 r.h r.km (← VType.ofCode (r.mod.extractLsb' 6 2)) r.d r.a r.imm32)
  | 0x5F, .w64 =>
    do some (.vcmp r.h r.km (← VType.ofCode (r.mod.extractLsb' 6 2)) (← IntPred.ofCode r.sub) (nibble r.d) r.a r.b)
  | 0x5F, .w96 =>
    do some (.vcmp96 r.h r.km (← VType.ofCode (r.mod.extractLsb' 6 2)) (← IntPred.ofCode r.sub) (nibble r.d) r.a r.imm32)
  | 0x60, .w64 => some (.vsel r.h r.km (r.mod.getLsbD 7) r.d r.a r.b (nibble r.c))
  | 0x61, .w64 => some (.vclz r.h r.km (r.mod.getLsbD 7) r.d r.a)
  | 0x62, .w64 => some (.vpopc r.h r.km (r.mod.getLsbD 7) r.d r.a)
  | 0x63, .w64 => do some (.vaddc r.h r.km (← VType.ofCode (r.mod.extractLsb' 6 2)) r.d r.a r.b (nibble r.c))
  | _, _ => none

/-- Vector float instructions (15 R256). -/
def decodeVectorFloat (r : Raw) : Option Instr :=
  match r.op.toNat, r.len with
  | 0x80, .w64 => do some (.fadd r.h r.km (← Rnd.ofCode r.modLow) r.d r.a r.b)
  | 0x80, .w96 => do some (.fadd96 r.h r.km (← Rnd.ofCode r.modLow) r.d r.a r.imm32)
  | 0x81, .w64 => do some (.fsub r.h r.km (← Rnd.ofCode r.modLow) r.d r.a r.b)
  | 0x81, .w96 => do some (.fsub96 r.h r.km (← Rnd.ofCode r.modLow) r.d r.a r.imm32)
  | 0x82, .w64 => do some (.fmul r.h r.km (← Rnd.ofCode r.modLow) r.d r.a r.b)
  | 0x82, .w96 => do some (.fmul96 r.h r.km (← Rnd.ofCode r.modLow) r.d r.a r.imm32)
  | 0x83, .w64 => do some (.ffma r.h r.km (← Rnd.ofCode r.modLow) r.d r.a r.b r.c)
  | 0x84, .w64 => some (.fmin r.h r.km r.d r.a r.b)
  | 0x84, .w96 => some (.fmin96 r.h r.km r.d r.a r.imm32)
  | 0x85, .w64 => some (.fmax r.h r.km r.d r.a r.b)
  | 0x85, .w96 => some (.fmax96 r.h r.km r.d r.a r.imm32)
  | 0x86, .w64 => do some (.fcmp r.h r.km (← FloatPred.ofCode r.sub) (nibble r.d) r.a r.b)
  | 0x86, .w96 => do some (.fcmp96 r.h r.km (← FloatPred.ofCode r.sub) (nibble r.d) r.a r.imm32)
  | 0x87, .w64 => do some (.fdiv r.h r.km (← Rnd.ofCode r.modLow) r.d r.a r.b)
  | 0x88, .w64 => do some (.fsqrt r.h r.km (← Rnd.ofCode r.modLow) r.d r.a)
  | 0x89, .w64 => some (.frcp r.h r.km r.d r.a)
  | 0x8A, .w64 => some (.frsq r.h r.km r.d r.a)
  | 0x8B, .w64 => some (.fexp2 r.h r.km r.d r.a)
  | 0x8C, .w64 => some (.flog2 r.h r.km r.d r.a)
  | 0x8D, .w64 =>
    do some (.fcvt r.h r.km (r.mod.getLsbD 3) (← Rnd.ofCode r.modLow) (← Conv.ofByte r.b) (← Conv.ofByte r.c) r.d r.a)
  | 0x8E, .w64 => some (.fclass r.h r.km r.d r.a)
  | 0x8F, .w64 => do some (.frnd r.h r.km (← Rnd.ofCode r.modLow) r.d r.a)
  | _, _ => none

/-- Cross-lane instructions (15 R265). -/
def decodeCrossLane (r : Raw) : Option Instr :=
  match r.op.toNat, r.len with
  | 0xA0, .w64 => do some (.vshuf r.h r.km (r.mod.getLsbD 5) (← LaneSel.ofCode (r.mod.extractLsb' 3 2)) r.d r.a r.b)
  | 0xA1, .w64 => do some (.vrot r.h r.km (r.mod.getLsbD 5) r.d r.a (← SReg.ofByte r.b))
  | 0xA2, .w64 => do some (.vbcast r.h r.km (r.mod.getLsbD 5) r.d r.a (← SReg.ofByte r.b))
  | 0xA3, .w64 =>
    do some (.vscan r.h r.km (← RedType.ofCode (r.mod.extractLsb' 5 3)) (← RedOp.ofCode r.sub) (← Rnd.ofCode r.modLow) r.d r.a)
  | 0xA4, .w64 =>
    do some (.vred r.h r.km (← RedType.ofCode (r.mod.extractLsb' 5 3)) (← RedOp.ofCode r.sub) (← Rnd.ofCode r.modLow) (← SReg.ofByte r.d) r.a)
  | 0xA5, .w64 =>
    do some (.vsegred r.h r.km (← RedType.ofCode (r.mod.extractLsb' 5 3)) (← RedOp.ofCode r.sub) (← Rnd.ofCode r.modLow) r.d r.a (nibble r.b))
  | 0xA6, .w64 => some (.vcomp r.h r.km (r.mod.getLsbD 5) r.d r.a)
  | 0xA7, .w128 =>
    do some (.reorder r.h r.km (r.mod.getLsbD 5) r.a (← SReg.ofByte r.b) (regsOf (min r.c.toNat 8) r.imm))
  | _, _ => none

/-- Loads, stores and atomics (16 R275). -/
def decodeMemory (r : Raw) : Option Instr :=
  match r.op.toNat, r.len with
  | 0xB0, .w64 =>
    do some (.vld r.h r.km (← MemType.ofCode false r.modHi) (← Order.ofCode r.modOrder) (← Scope.ofCode r.modLow) r.d (← SReg.ofByte r.a) (← Index.ofControl r.c r.b) (scaleOf r.c))
  | 0xB0, .w96 =>
    do some (.vld96 r.h r.km (← MemType.ofCode false r.modHi) (← Order.ofCode r.modOrder) (← Scope.ofCode r.modLow) r.d (← SReg.ofByte r.a) (← Index.ofControl r.c r.b) (scaleOf r.c) r.imm32)
  | 0xB0, .w128 =>
    do some (.vld128 r.h r.km (← MemType.ofCode false r.modHi) (← Order.ofCode r.modOrder) (← Scope.ofCode r.modLow) r.d (← SReg.ofByte r.a) (← Index.ofControl r.c r.b) r.imm32 r.immHi)
  | 0xB1, .w64 =>
    do some (.vst r.h r.km (← MemType.ofCode false r.modHi) (← Order.ofCode r.modOrder) (← Scope.ofCode r.modLow) r.d (← SReg.ofByte r.a) (← Index.ofControl r.c r.b) (scaleOf r.c))
  | 0xB1, .w96 =>
    do some (.vst96 r.h r.km (← MemType.ofCode false r.modHi) (← Order.ofCode r.modOrder) (← Scope.ofCode r.modLow) r.d (← SReg.ofByte r.a) (← Index.ofControl r.c r.b) (scaleOf r.c) r.imm32)
  | 0xB1, .w128 =>
    do some (.vst128 r.h r.km (← MemType.ofCode false r.modHi) (← Order.ofCode r.modOrder) (← Scope.ofCode r.modLow) r.d (← SReg.ofByte r.a) (← Index.ofControl r.c r.b) r.imm32 r.immHi)
  | 0xB2, .w128 =>
    do some (.vldl r.h r.km (← Order.ofCode r.modOrder) (← Scope.ofCode r.modLow) r.d (← SReg.ofByte r.a) r.b r.c (r.imm.extractLsb' 0 8) (r.imm.extractLsb' 8 8))
  | 0xB3, .w64 =>
    do some (.vcst r.h r.km (← MemType.ofCode false r.modHi) (← Order.ofCode r.modOrder) (← Scope.ofCode r.modLow) r.d (← SReg.ofByte r.a))
  | 0xB3, .w96 =>
    do some (.vcst96 r.h r.km (← MemType.ofCode false r.modHi) (← Order.ofCode r.modOrder) (← Scope.ofCode r.modLow) r.d (← SReg.ofByte r.a) r.imm32)
  | 0xB3, .w128 =>
    do some (.vcst128 r.h r.km (← MemType.ofCode false r.modHi) (← Order.ofCode r.modOrder) (← Scope.ofCode r.modLow) r.d (← SReg.ofByte r.a) r.imm32 r.immHi)
  | 0xB4, .w64 =>
    do some (.sld r.h (← MemType.ofCode true r.modHi) (← Order.ofCode r.modOrder) (← Scope.ofCode r.modLow) (← SReg.ofByte r.d) (← SReg.ofByte r.a))
  | 0xB4, .w96 =>
    do some (.sld96 r.h (← MemType.ofCode true r.modHi) (← Order.ofCode r.modOrder) (← Scope.ofCode r.modLow) (← SReg.ofByte r.d) (← SReg.ofByte r.a) r.imm32)
  | 0xB5, .w64 =>
    do some (.sst r.h (← MemType.ofCode true r.modHi) (← Order.ofCode r.modOrder) (← Scope.ofCode r.modLow) (← SReg.ofByte r.d) (← SReg.ofByte r.a))
  | 0xB5, .w96 =>
    do some (.sst96 r.h (← MemType.ofCode true r.modHi) (← Order.ofCode r.modOrder) (← Scope.ofCode r.modLow) (← SReg.ofByte r.d) (← SReg.ofByte r.a) r.imm32)
  | 0xB6, .w64 =>
    do some (.atom r.h r.km (← MemType.ofCode false r.modHi) (← AtomOp.ofCode r.sub) (← Order.ofCode r.modOrder) (← Scope.ofCode r.modLow) r.d (← SReg.ofByte r.a) r.b r.c)
  | 0xB6, .w96 =>
    do some (.atom96 r.h r.km (← MemType.ofCode false r.modHi) (← AtomOp.ofCode r.sub) (← Order.ofCode r.modOrder) (← Scope.ofCode r.modLow) r.d (← SReg.ofByte r.a) r.b r.c r.imm32)
  | 0xB6, .w128 =>
    do some (.atom128 r.h r.km (← MemType.ofCode false r.modHi) (← AtomOp.ofCode r.sub) (← Order.ofCode r.modOrder) (← Scope.ofCode r.modLow) r.d (← SReg.ofByte r.a) (← Index.ofControl (r.imm.extractLsb' 32 8) r.b) r.c r.imm32 (r.imm.extractLsb' 40 24))
  | 0xB7, .w64 =>
    do some (.satom r.h (← MemType.ofCode true r.modHi) (← AtomOp.ofCode r.sub) (← Order.ofCode r.modOrder) (← Scope.ofCode r.modLow) (← SReg.ofByte r.d) (← SReg.ofByte r.a) (← SReg.ofByte r.b) (← (if r.sub = 2 then (SReg.ofByte r.c).map some else some none)))
  | 0xB7, .w96 =>
    do some (.satom96 r.h (← MemType.ofCode true r.modHi) (← AtomOp.ofCode r.sub) (← Order.ofCode r.modOrder) (← Scope.ofCode r.modLow) (← SReg.ofByte r.d) (← SReg.ofByte r.a) (← SReg.ofByte r.b) (← (if r.sub = 2 then (SReg.ofByte r.c).map some else some none)) r.imm32)
  | _, _ => none

/-- Fences, synchronisation, spawn and tile instructions (16 R275). -/
def decodeSync (r : Raw) : Option Instr :=
  match r.op.toNat, r.len with
  | 0xB8, .w64 => do some (.fence r.h (← Order.ofCode r.modOrder) (← Scope.ofCode r.modLow))
  | 0xB9, .w64 => some (.ifence r.h)
  | 0xBA, .w64 => do some (.lodfence r.h (← SReg.ofByte r.a))
  | 0xBA, .w96 => some (.lodfence96 r.h r.imm32)
  | 0xBB, .w64 => do some (.publish r.h (← SReg.ofByte r.d) (← SReg.ofByte r.a))
  | 0xBB, .w96 => do some (.publish96 r.h (← SReg.ofByte r.d) r.imm32)
  | 0xBC, .w96 =>
    some (.wait r.h (r.imm32.extractLsb' 0 8) (r.imm32.extractLsb' 8 8) (r.imm32.extractLsb' 16 8) (r.imm32.extractLsb' 24 8))
  | 0xBD, .w64 => do some (.semacq r.h (r.a.extractLsb' 0 6) (← SReg.ofByte r.b))
  | 0xBD, .w96 => some (.semacq96 r.h (r.a.extractLsb' 0 6) r.imm32)
  | 0xBE, .w64 => do some (.semrel r.h (r.a.extractLsb' 0 6) (← SReg.ofByte r.b) (← SReg.ofByte r.c))
  | 0xBE, .w96 => do some (.semrel96 r.h (r.a.extractLsb' 0 6) (← SReg.ofByte r.c) r.imm32)
  | 0xBF, .w64 => do some (.binit r.h (← SReg.ofByte r.a) (← SReg.ofByte r.b))
  | 0xC0, .w64 => do some (.barrive r.h (← SReg.ofByte r.d) (← SReg.ofByte r.a))
  | 0xC1, .w64 => do some (.bwait r.h (← SReg.ofByte r.d) (← SReg.ofByte r.a) (← SReg.ofByte r.b))
  | 0xC2, .w64 => do some (.binval r.h (← SReg.ofByte r.a))
  | 0xC3, .w128 => do some (.msend r.h (← SReg.ofByte r.d) r.a (← SReg.ofByte r.b) r.imm)
  | 0xC4, .w64 => do some (.mrecv r.h r.d (← SReg.ofByte r.a))
  | 0xC5, .w64 =>
    do some (.tqpush r.h (← SReg.ofByte r.d) (← SReg.ofByte r.a) (← SReg.ofByte r.b) (← SReg.ofByte r.c))
  | 0xC6, .w64 => do some (.tqpop r.h (← SReg.ofByte r.d) (← SReg.ofByte r.a) (r.b.extractLsb' 0 7))
  | 0xC7, .w64 => do some (.spawn r.h r.km (nibble r.d) (← SReg.ofByte r.a) r.b)
  | 0xC7, .w128 => some (.spawn128 r.h r.km (nibble r.d) r.b r.imm)
  | 0xC8, .w64 => do some (.launch r.h (← SReg.ofByte r.d) (← SReg.ofByte r.a) (← SReg.ofByte r.b))
  | 0xC9, .w64 => do some (.talloc r.h (← SReg.ofByte r.d) (← SReg.ofByte r.a) (← SReg.ofByte r.b))
  | 0xC9, .w96 => do some (.talloc96 r.h (← SReg.ofByte r.d) (← SReg.ofByte r.a) r.imm32)
  | 0xCA, .w64 => do some (.tfree r.h (← SReg.ofByte r.a))
  | 0xCB, .w128 =>
    do some (.tld r.h (← Order.ofCode r.modOrder) (← Scope.ofCode r.modLow) (← SReg.ofByte r.a) (← SReg.ofByte r.b) (← SReg.ofByte r.c) r.imm32 (← semOfByte (r.imm.extractLsb' 32 8)))
  | 0xCC, .w128 =>
    do some (.tst r.h (← Order.ofCode r.modOrder) (← Scope.ofCode r.modLow) (← SReg.ofByte r.a) (← SReg.ofByte r.b) (← SReg.ofByte r.c) r.imm32 (← semOfByte (r.imm.extractLsb' 32 8)))
  | _, _ => none

/-- Engine instructions (20 R300). -/
def decodeEngine (r : Raw) : Option Instr :=
  match r.op.toNat, r.len with
  | 0xD0, .w128 => do some (.mkshape r.h (← SReg.ofByte r.d) (← SReg.ofByte r.a) r.b r.imm32)
  | 0xD1, .w128 =>
    do some (.xcopy r.h (r.mod.getLsbD 4) (r.mod.getLsbD 5) (← Order.ofCode r.modOrder) (← Scope.ofCode r.modLow) (← semOfByte r.d) (← SReg.ofByte r.a) (← SReg.ofByte r.b) (← SReg.ofByte r.c) (r.imm.extractLsb' 0 16) (r.imm.extractLsb' 16 16) (optTile (r.imm.getLsbD 48) (r.imm.extractLsb' 32 8)) (optTile (r.imm.getLsbD 49) (r.imm.extractLsb' 40 8)))
  | 0xD2, .w128 =>
    do some (.xgather r.h (← Order.ofCode r.modOrder) (← Scope.ofCode r.modLow) (← semOfByte r.d) (← SReg.ofByte r.a) r.b (← SReg.ofByte r.c) (r.imm.extractLsb' 0 16) (r.imm.extractLsb' 16 2) (r.imm.getLsbD 18) (r.imm.extractLsb' 24 8) r.immHi)
  | 0xD3, .w64 => do some (.mgang r.h (← SReg.ofByte r.a))
  | 0xD4, .w128 =>
    do some (.mwload r.h (← SReg.ofByte r.a) (← SReg.ofByte r.b) (← SReg.ofByte r.c) (Fmt.ofByte (r.imm.extractLsb' 0 8)) (← ScaleFmt.ofCode (r.imm.extractLsb' 6 2)) (r.imm.extractLsb' 8 4) (r.imm.getLsbD 12) (r.imm.extractLsb' 16 8))
  | 0xD5, .w128 =>
    do some (.mmul r.h (← Bank.ofCode r.d) (← SReg.ofByte r.a) (← SReg.ofByte r.b) (← SReg.ofByte r.c) (Fmt.ofByte (r.imm.extractLsb' 0 8)) (← ScaleFmt.ofCode (r.imm.extractLsb' 6 2)) (r.imm.extractLsb' 8 8) (r.imm.extractLsb' 16 4) (r.imm.getLsbD 20) (r.imm.getLsbD 21) (r.imm.extractLsb' 24 8))
  | 0xD6, .w128 =>
    do some (.mdrain r.h (r.mod.getLsbD 4) (← Order.ofCode r.modOrder) (← Scope.ofCode r.modLow) (← Bank.ofCode r.d) (← SReg.ofByte r.a) (← SReg.ofByte r.b) (← semOfByte r.c) (← ElemFmt.ofCode (r.imm.extractLsb' 0 4)) (r.imm.extractLsb' 8 8) (r.imm.getLsbD 16) (r.imm.extractLsb' 24 8))
  | 0xD7, .w64 => do some (.mstat r.h (← SReg.ofByte r.d) (r.a.extractLsb' 0 2) (r.b.extractLsb' 0 5))
  | _, _ => none

/-- Plane instructions (22 R320). -/
def decodePlane (r : Raw) : Option Instr :=
  match r.op.toNat, r.len with
  | 0xE0, .w96 => some (.pcfg r.h r.km (r.imm32.extractLsb' 0 6) (r.imm32.extractLsb' 8 6))
  | 0xE1, .w128 =>
    do some (.peval r.h r.km (← PForm.ofCode r.modLow) (r.imm.getLsbD 32) (nibble r.d) (← SReg.ofByte r.a) (← SReg.ofByte r.b) (← SReg.ofByte r.c) (r.imm.extractLsb' 0 16) (r.imm.extractLsb' 16 16))
  | 0xE2, .w128 =>
    do some (.pld r.h r.km (nibble r.d) (← SReg.ofByte r.a) (← SReg.ofByte r.b) (r.imm.extractLsb' 0 8) (← ElemFmt.ofCode (r.imm.extractLsb' 8 4)))
  | 0xE3, .w128 =>
    do some (.pst r.h r.km (nibble r.d) (← SReg.ofByte r.a) (← SReg.ofByte r.b) (r.imm.extractLsb' 0 8) (← ElemFmt.ofCode (r.imm.extractLsb' 8 4)))
  | 0xE4, .w64 => some (.padd r.h r.km (nibble r.d) (nibble r.a) (nibble r.b))
  | 0xE5, .w64 => some (.pmul r.h r.km (nibble r.d) (nibble r.a) (nibble r.b))
  | 0xE6, .w64 => some (.pfma r.h r.km (nibble r.d) (nibble r.a) (nibble r.b) (nibble r.c))
  | 0xE7, .w64 => some (.pmin r.h r.km (nibble r.d) (nibble r.a) (nibble r.b))
  | 0xE8, .w64 => some (.pmax r.h r.km (nibble r.d) (nibble r.a) (nibble r.b))
  | 0xE9, .w64 => some (.pexp2 r.h r.km (nibble r.d) (nibble r.a))
  | 0xEA, .w64 => some (.prcp r.h r.km (nibble r.d) (nibble r.a))
  | 0xEB, .w64 =>
    match r.sub.toNat with
    | 0 => do some (.pif r.h r.km (← FloatPred.ofCode (r.c.extractLsb' 0 3)) (nibble r.a) (nibble r.b))
    | 1 => some (.pelse r.h r.km)
    | 2 => some (.pend r.h r.km)
    | _ => none
  | 0xEC, .w64 => some (.pblend r.h r.km (nibble r.d) (nibble r.a) (nibble r.b))
  | 0xED, .w64 => do some (.pred r.h r.km (← PlaneRed.ofCode r.sub) (← SReg.ofByte r.d) (nibble r.a))
  | 0xEE, .w64 => do some (.prow r.h r.km (← PlaneRed.ofCode r.sub) r.d (nibble r.a))
  | 0xEF, .w128 => do some (.binapp r.h r.km (nibble r.d) r.a r.b (← SReg.ofByte r.c) (r.imm.extractLsb' 0 2))
  | _, _ => none

/-- Traversal and system instructions (24 R335, R342). -/
def decodeSystem (r : Raw) : Option Instr :=
  match r.op.toNat, r.len with
  | 0xF0, .w64 => some (.rstart r.h r.km r.d)
  | 0xF1, .w64 => some (.rbox r.h r.km r.d r.a r.b)
  | 0xF2, .w64 => some (.rtri r.h r.km r.d r.a r.b)
  | 0xF3, .w64 => some (.rpush r.h r.km r.d r.a (nibble r.c))
  | 0xF4, .w64 => some (.rpop r.h r.km r.d r.a)
  | 0xF5, .w64 => some (.rstop r.h r.km r.d)
  | 0xF8, .w64 => do some (.csrr r.h (← CsrDst.ofByte (r.a == 0) r.d) (← Csr.ofCode r.a))
  | 0xF9, .w64 => do some (.csrw r.h (← Csr.ofCode r.d) (← SReg.ofByte r.a))
  | 0xFA, .w64 => do some (.feat r.h (← SReg.ofByte r.d) (← SReg.ofByte r.a))
  | 0xFA, .w96 => do some (.feat96 r.h (← SReg.ofByte r.d) r.imm32)
  | 0xFB, .w64 => some (.tret r.h)
  | 0xFC, .w64 => some (.halt r.h)
  | _, _ => none

/-- The instruction a word's opcode, length and named fields give, before the word is checked whole (13 R223). -/
def decodeLoose (r : Raw) : Option Instr :=
  if r.op.toNat < 0x20 then decodeControl r
  else if r.op.toNat < 0x40 then decodeScalar r
  else if r.op.toNat < 0x50 then decodeMask r
  else if r.op.toNat < 0x80 then decodeVectorInt r
  else if r.op.toNat < 0xA0 then decodeVectorFloat r
  else if r.op.toNat < 0xB0 then decodeCrossLane r
  else if r.op.toNat < 0xB8 then decodeMemory r
  else if r.op.toNat < 0xD0 then decodeSync r
  else if r.op.toNat < 0xE0 then decodeEngine r
  else if r.op.toNat < 0xF0 then decodePlane r
  else decodeSystem r

/-- The instruction a word stands for; none where the word raises ILLEGAL. -/
def decodeRaw (r : Raw) : Option Instr :=
  match decodeLoose r with
  | some i => if i.wf && encodeRaw i == some r then some i else none
  | none => none

/-- The length that a first parcel's LEN gives; none for 0b11 (12 R200). -/
def lenOf (p0 : Word) : Option Len :=
  match (p0.extractLsb' 0 2).toNat with
  | 0 => some .w64
  | 1 => some .w96
  | 2 => some .w128
  | _ => none

/-- The FILL parcel (12 R200). -/
def fillParcel : Word := 0x3

/-- Decodes the parcels at a place of code: the instruction and its length in bytes. Too few parcels, or a word that
raises ILLEGAL, give none. -/
def decodeParcels (ps : List Word) : Option (Instr × Nat) :=
  match ps with
  | [] => none
  | p0 :: rest =>
    match lenOf p0 with
    | none => if p0 = fillParcel then some (.fill, 4) else none
    | some len =>
      match len, rest with
      | .w64, p1 :: _ => (decodeRaw (Raw.ofParcels .w64 p0 p1 0 0)).map fun i => (i, 8)
      | .w96, p1 :: p2 :: _ => (decodeRaw (Raw.ofParcels .w96 p0 p1 p2 0)).map fun i => (i, 12)
      | .w128, p1 :: p2 :: p3 :: _ => (decodeRaw (Raw.ofParcels .w128 p0 p1 p2 p3)).map fun i => (i, 16)
      | _, _ => none

/-- The parcel that four bytes hold, the lowest address first (00 R5). -/
def parcelOfBytes (b0 b1 b2 b3 : Byte) : Word := b3 ++ b2 ++ b1 ++ b0

/-- The whole parcels of a run of bytes. -/
def parcelsOfBytes : List Byte → List Word
  | b0 :: b1 :: b2 :: b3 :: rest => parcelOfBytes b0 b1 b2 b3 :: parcelsOfBytes rest
  | _ => []

/-- Decodes bytes, lowest address first. -/
def decodeBytes (bs : List Byte) : Option (Instr × Nat) := decodeParcels (parcelsOfBytes bs)

/-- The words of an encoded instruction, the first lowest in memory; empty for a step without an encoding (DEDUCED, log 70). -/
def encode (i : Instr) : List Word :=
  match i with
  | .fill => [fillParcel]
  | i =>
    match encodeRaw i with
    | some r => r.parcels
    | none => []

/-- The four bytes of a parcel, lowest address first. -/
def bytesOfParcel (p : Word) : List Byte :=
  [p.extractLsb' 0 8, p.extractLsb' 8 8, p.extractLsb' 16 8, p.extractLsb' 24 8]

/-- The length in bytes of an instruction in code; zero for a step without an encoding. -/
def Instr.byteLen (i : Instr) : Nat := 4 * (encode i).length

/-- The hints of an encoded instruction; FILL carries none. -/
def Instr.hints (i : Instr) : Hints :=
  match encodeRaw i with
  | some r => r.h
  | none => { s := 0, y := false, e := 0 }

/-- The low bytes of a number, lowest first. -/
def natBytes : Nat → Nat → List Byte
  | 0, _ => []
  | n + 1, w => BitVec.ofNat 8 w :: natBytes n (w >>> 8)

/-- The longest instruction in bytes (12 R200). -/
def maxInstrBytes : Nat := 16

/-- What the decoder reads from an instruction whose bits are w, bit 0 being bit 0 of the first parcel; the bits above
nbits are zero (DEDUCED, log 71). -/
def decodeTableWord (nbits w : Nat) : Option Instr :=
  (decodeBytes (natBytes maxInstrBytes (w % 2 ^ nbits))).map Prod.fst

end Sys2Proof
end

