-- ==== Sys2Proof/Config.lean ====
section
/-!
DEFINITION. What an implementation fixes and the values the spec leaves open. An opaque constant has no body, so no proof
can know its value: a statement about it holds for every value.
-/
namespace Sys2Proof.Config

/-- Which of the 16 entries of an aligned group translates an access when they differ (02 R32); by page number. -/
opaque s64Choice : Nat → Nat

/-- FRCP: whether the result is the adjacent binary32 value above the exact one in magnitude (15 R260). -/
opaque frcpUp : Word → Bool

/-- FRSQ: whether the result is the adjacent binary32 value above the exact one (15 R260). -/
opaque frsqUp : Word → Bool

/-- FEXP2: the device's result, used where it lies within the bound of 15 R260. -/
opaque fexp2Value : Word → Word

/-- FLOG2: the device's result, used where it lies within the bound of 15 R260. -/
opaque flog2Value : Word → Word

/-- A value the spec leaves open, a new one for each value of State.fresh: sensor readings and signatures of Towpath
(25 R357). -/
opaque freeValue : Nat → Nat

/-- The partition layout digest of Towpath (25 R357). -/
opaque layoutDigest : List (List Nat) → Nat

/-- Leaf 0x00 to 0x07 of the GZD-1280 (11 R198). -/
def deviceView : List DWord :=
  [0x00010000#64, 128#64, 256#64, 0x08104040#64, 0x0000001801000120#64, 0x1FFE#64, 0x01000000#64, 0x3F#64]

/-- ACLK in MHz, leaf 0x102 (11 R198). -/
def clockMHz : Nat := 2700

/-- The governor's window in ACLK and in units (00 R3, 10 R182). -/
def windowAclk : Nat := 256
def windowUnits : Nat := 2 ^ 24

end Sys2Proof.Config
end

