-- ==== Sys2Proof/Machine/State.lean ====
section
/-!
DEFINITION. The state of the machine: everything the spec gives it (INVENTORY.md lists each piece with its rule), as
plain data. Sparse tables are sorted lists of key and value; a key that is absent holds the value its docstring names.
-/
namespace Sys2Proof.Machine

/-- Why a run stops. -/
inductive Fault where
  /-- A wave's instruction was run with no wave in the lease row that State.cur names. Raised by every wave meaning.
  Safe: on the part an instruction always belongs to a wave, so no behaviour of the part is lost. -/
  | noWave
  deriving DecidableEq, Repr

/-- Why a step has no meaning. -/
inductive Refusal where
  /-- The instruction's meaning is not written. Raised only by an arm of exec that stands for such an instruction.
  Safe: the machine stops. -/
  | notModelled (mnemonic : String)
  deriving DecidableEq, Repr

/-- A table sorted by key with no key twice. -/
abbrev SMap (α : Type) := List (Nat × α)

/-- Which thing a device step acts on, chosen by the turn that runs it. -/
structure Subject where
  a : Nat := 0
  b : Nat := 0
  c : Nat := 0
  deriving DecidableEq, Repr

/-- What a turn does: a sector issues, a step of the device happens, or clock cycles pass. -/
inductive Act where
  | issue (cl sector : Nat)
  | event (i : Instr)
  | tick (n : Nat)
  deriving DecidableEq, Repr

/-- One turn of the agenda. old says of accesses of this turn which copies that caches keep serve them instead of the tables
and memory as they stand (02 R39, R44): which access (a lane of a vector access by its number; 128 a fetch; 129 the
destination of an engine element; 130 + n lane n's read of a LOD map; else 0), its virtual address and a set of bits: bit 0
the whole translation, bits 1 to 4 walk entries of levels 0 to 3, bit 5 the wave's fetch buffer, bit 6 the cluster's
instruction cache, bit 8 + i range entry i (DESIGN CHOICE, log 79). -/
structure Turn where
  old : List (Nat × Nat × Nat) := []
  subj : Subject := {}
  act : Act
  deriving DecidableEq, Repr

/-- Names one wave for good (02 R37: context, cluster, backing index and wave number), with the lease row and
workgroup slot it holds and the launch it belongs to. -/
structure WTag where
  ctx : Nat
  cl : Nat
  wgslot : Nat
  wgx : Nat
  row : Nat
  wnum : Nat
  stage : Nat
  launch : Nat
  deriving DecidableEq, Repr

/-- A trap as it is delivered (11 R187, R188). -/
structure TrapRec where
  cause : Nat
  iaddr : Nat
  resume : Nat
  vaddr : Nat := 0
  lanes : Mask := 0
  progress : Nat := 0
  access : Nat := 0
  flags : BitVec 5 := 0
  info : Nat := 0
  seq : Nat := 0
  /-- the delivered 64-byte record of ASYNC -/
  job : List Byte := []
  /-- the cell map of PLANE_ARITH -/
  cells : CellMask := 0
  deriving DecidableEq, Repr

/-- An asynchronous fault record before it is laid out (02 R37). -/
structure JobRec where
  vaddr : Nat
  progress : Nat
  ctx : Nat
  wave : Nat
  cluster : Nat
  sem : Nat
  access : Nat
  job : Nat
  cause : Nat
  iaddr : Nat
  wgx : Nat
  seq : Nat
  /-- the counters the job counted on: bit 0 LD, bit 2 CP, bit 3 TL (16 R282) -/
  counters : Nat := 0
  deriving DecidableEq, Repr

/-- A fence or point the wave's later accesses wait for (06 R105 to R108): accesses still to perform; writesOnly for
fence.rel. -/
structure FenceWait where
  ids : List Nat
  writesOnly : Bool
  deriving DecidableEq, Repr

/-- A wave waiting at a barrier (16 R286). -/
structure BarrierWait where
  line : Nat
  gen : Nat
  outcome : Option (Nat × Nat)
  deriving DecidableEq, Repr

/-- Why a wave did not issue in the cycle of its last attempt (10 R185). -/
inductive Why where
  | none | dep | sync | budget | outranked
  deriving DecidableEq, Repr

/-- A wave: one lease row LEASED or DRAINING (10 R161, R168; 11 R195, R197). -/
structure Wave where
  ctx : Nat
  wgslot : Nat
  wgx : Nat
  wnum : Nat
  stage : Nat
  launch : Nat
  spawned : Bool
  draining : Bool
  prio : Nat
  base : Nat
  bound : Nat
  pc : Nat
  /-- s0 to s127; absent is 0 -/
  s : SMap DWord
  /-- k1 to k15; absent is 0 -/
  k : SMap Mask
  /-- v registers below the bound, key 128·register + lane; absent is 0 -/
  v : SMap Word
  /-- sticky flags of each lane (09 R158); absent is 0 -/
  lflags : SMap (BitVec 5)
  fflagsEn : BitVec 5
  gang : BitVec 16
  phase : BitVec 4
  rows : BitVec 32
  tvec : DWord
  tepc : DWord
  cause : Byte
  intrap : Bool
  dlvSeq : Nat
  lostFlt : Bool
  drainFlags : BitVec 5
  /-- pending fault record of a host-serviced fault, or the trap an escalated workgroup must take again -/
  pending : Option TrapRec
  /-- RETRY delivers the pending trap again, since its area could not be written (11 R188) -/
  redeliver : Bool
  /-- job-fault records held for WAIT, RSTOP or EXIT (02 R38) -/
  held : List JobRec
  age : Nat
  starve : Nat
  /-- one more than the last ACLK in which it was ready and another wave of its sector, or none, issued (10 R171) -/
  starveAt : Nat
  lastIssue : Nat
  lastS : Nat
  issuedOnce : Bool
  /-- %phase before the last instruction that issued, and why the last attempt did not issue (10 R185) -/
  phaseAt : BitVec 4
  why : Why
  /-- units already paid for the instruction being attempted (10 R183) -/
  paid : Nat
  /-- the instruction with which the wave has arrived at the latch or the lane crossbar -/
  arrived : Option Instr
  bwait : Option BarrierWait
  /-- the wave waits for OnKick, and its result when it has returned (16 R291) -/
  kicking : Bool
  kickResult : Option Nat
  /-- answers, by physical address, to the reads of host or peer windows the instruction at issue waits for; none where
  the read failed -/
  linkReads : SMap (Option (List Byte))
  /-- spilled registers whose lines have moved for the instruction at issue (05 R98, 10 R175) -/
  backed : List Nat
  /-- the link request the wave waits for at its fetch or its entry read -/
  waiting : Option Nat
  fences : List FenceWait
  /-- the accesses the instruction at issue waits for: its point, taken at its first attempt -/
  point : Option (List Nat)
  /-- the first identifier not given out when the instruction at issue began to wait for its turn at a home -/
  mark : Option Nat
  /-- the address and the entry that a CALLT or JMPT with .acq has read while it waits for the code at its target (14 R236) -/
  entry : Option (Nat × Nat)
  /-- the wave has acquired at workgroup scope or wider: what its jobs and traversals read must not miss what its cluster
  has sent before them (06 R110) -/
  acquired : Bool
  /-- the fetch buffer: blocks fetched, by address (02 R42) -/
  fetched : SMap (List Byte)
  sends : Nat
  halted : Bool
  /-- where the wave stands ended by HACT: an EXIT in place of the instruction there (14 R237, 24 R345) -/
  endAt : Option Nat
  /-- the wave's next instruction must be ENTRY: at its start and at its handler (14 R235) -/
  needEntry : Bool
  /-- the instruction at %tepc must be ENTRY: the trap under way left that check open (11 R188) -/
  recheck : Bool
  /-- SPAWNTMO and the register bound of the waves that its records start (10 R178, R179) -/
  spTmo : Nat
  spBound : Nat
  deriving DecidableEq, Repr

/-- A queue register's queue (03 R62, 10 R162). -/
structure WaveQueue where
  depth : Nat
  entries : List DWord
  deriving DecidableEq, Repr

/-- A workgroup resident on a cluster (10 R161). -/
structure Wg where
  ctx : Nat
  launch : Nat
  prio : Nat
  x : Nat
  y : Nat
  z : Nat
  wgx : Nat
  /-- the row of each wave, by wave number -/
  rows : List Nat
  exited : List Nat
  vaultLo : Nat
  vaultN : Nat
  qLo : Nat
  queues : List WaveQueue
  plane : Bool
  startStamp : Nat
  /-- stopped by a fault and waiting to be parked (11 R191) -/
  stopped : Bool
  escalated : Bool
  deriving DecidableEq, Repr

/-- A semaphore (03 R62). The waiters are the rows that have executed SEMACQ, oldest first. -/
structure Sem where
  count : Nat := 0
  error : Bool := false
  held : Option JobRec := none
  waiters : List Nat := []
  deriving DecidableEq, Repr

/-- A context slot of a cluster (01 R21): the semaphore file and the budget. -/
structure CtxSlot where
  ctx : Nat
  sems : SMap Sem
  units : Nat
  deriving DecidableEq, Repr

/-- STATE of a tile (03 R51). -/
inductive TileState where
  | empty | filling | ready | draining
  deriving DecidableEq, Repr

/-- A tile-table entry that is not EMPTY (03 R51). -/
structure Tile where
  size : Nat
  base : Nat
  owner : Nat
  ctx : Nat
  cslot : Nat
  pend : Nat
  state : TileState
  deriving DecidableEq, Repr

/-- A spawn bin in use (10 R178). Each record carries its four words. -/
structure Bin where
  ctx : Nat
  entryPc : Nat
  recs : List (List Word)
  prio : Nat
  tmo : Nat
  launch : Nat
  /-- register bound of its waves (10 R162, R179) -/
  bound : Nat
  /-- ACLK at which the timer expires -/
  timer : Nat
  deriving DecidableEq, Repr

/-- The plane of a cluster (10 R172, 22 R318 to R325). -/
structure Plane where
  ctx : Nat
  wgslot : Nat
  /-- p0 to p15, key 4096·register + 64·y + x; absent is +0 -/
  cells : SMap Word
  enable : CellMask
  /-- the enable stack, top first: O and T of every cell -/
  stack : List (CellMask × CellMask)
  flags : SMap (BitVec 5)
  wm1 : BitVec 6
  hm1 : BitVec 6
  en : BitVec 5
  deriving DecidableEq, Repr

/-- The Millrace of a cluster (20 R308). Weights keep the element codes they were loaded with: their alignment is a
function of code and format (20 R311). fixed holds those that a save area has given other aligned values than their codes
have (11 R196). -/
structure Mill where
  ctx : Nat
  wgslot : Nat
  /-- weight codes, key 256·k + n; absent is 0 -/
  weights : SMap Nat
  fixed : SMap Int := []
  /-- scale codes, key 256·b + n -/
  scales : SMap Nat
  fmtByte : Byte
  kbm1 : Nat
  /-- banks, key 65536·bank + 256·m + n; absent is +0 -/
  banks : SMap Word
  flags0 : BitVec 5
  flags1 : BitVec 5
  deriving DecidableEq, Repr

/-- A traversal stack in use: its holder and its chip entries, top first (24 R339). -/
structure RayStack where
  ctx : Nat
  wgslot : Nat
  chip : List DWord
  deriving DecidableEq, Repr

/-- STATE of a diversion entry (08 R130). -/
inductive DivState where
  | evicting | active | merging
  deriving DecidableEq, Repr

/-- KIND of a diversion entry (08 R129). -/
inductive DivKind where
  | vault | sems | tiles | regs | trav | plane
  deriving DecidableEq, Repr

/-- A diversion entry that is not FREE (08 R130). -/
structure DivEntry where
  state : DivState
  kind : DivKind
  ctx : Nat
  wgslot : Nat
  lo : Nat
  n : Nat
  shadow : Nat
  /-- of a VAULT entry EVICTING: granules whose write-out has been issued, and those among them not yet performed (08
  R137); of a REGS entry EVICTING: 1 once the resources that precede the vault are written -/
  issued : Nat := 0
  out : List Nat := []
  /-- a write of the workgroup's resources to their shadows failed (08 R134) -/
  failed : Bool := false
  deriving DecidableEq, Repr

/-- A workgroup waiting to start: its launch and linear index (10 R165). -/
structure StartEntry where
  launch : Nat
  index : Nat
  deriving DecidableEq, Repr

/-- Why a workgroup is away. -/
inductive AwayMode where
  | evicted
  | parked
  | escalated
  | answered
  | killed
  | lost
  deriving DecidableEq, Repr

/-- A workgroup evicted or parked (08 R132, 11 R191). The registers, masks, CSRs, tiles, stacks and vault bytes lie in
its Backwater image; what the image has no layout for is kept here. -/
structure Away where
  mode : AwayMode
  wg : Wg
  waves : SMap Wave
  plane : Option Plane
  tileNums : List Nat
  /-- stacks held, with the entries each had on chip -/
  rayStacks : SMap Nat
  /-- wake outcomes by row: generation and code (08 R131) -/
  wake : SMap (Nat × Nat)
  order : Nat
  /-- the shadow write or redirect that failed: the workgroup is lost when it would resume (08 R134) -/
  broken : Bool
  merging : Bool
  deriving DecidableEq, Repr

/-- What an ingress holds beside packets, lateral accesses and traversal requests (08 R135): a piece of a job, landed or read;
the read of a job's element; the next addend of a drain tile; a request at its home, for an access it makes to a vault; or the
read of a queue's placement map. -/
inductive HeldWhat where
  | piece (job p : Nat) (read : Bool)
  | element (job n : Nat)
  | addend (tile : Nat)
  | request (packet : Nat)
  | map (part queue : Nat)
  deriving DecidableEq, Repr

structure HeldThing where
  ctx : Nat
  what : HeldWhat
  deriving DecidableEq, Repr

/-- Profile counters of one launch on one cluster (10 R185). -/
structure Profile where
  idle : Nat := 0
  outranked : Nat := 0
  busy : SMap Nat := []
  dep : SMap Nat := []
  sync : SMap Nat := []
  budget : SMap Nat := []
  deriving DecidableEq, Repr

/-- A cached translation: the covering page or range and what it maps to (02 R39). -/
structure Cached where
  ctx : Nat
  lo : Nat
  hi : Nat
  pa : Nat
  attr : Nat
  range : Bool
  deriving DecidableEq, Repr

/-- A cluster's copy of a table entry (02 R39): a range entry, level 4 with its index and its four words; or a walk entry,
its level, the address bits that select it, its word and the base of the table it was read from. -/
structure TableCopy where
  ctx : Nat
  level : Nat
  index : Nat
  words : List Nat
  deriving DecidableEq, Repr

/-- A 32-byte block of a context's code in the cluster's instruction cache (02 R42). -/
structure CodeBlock where
  ctx : Nat
  va : Nat
  bytes : List Byte
  deriving DecidableEq, Repr

/-- The last issue of a sector: when, of which launch's wave and in which phase (10 R170, R185). -/
structure SectorIssue where
  time : Nat
  launch : Nat
  phase : Nat
  deriving DecidableEq, Repr

/-- The last plane instruction to complete its issue, when and from which sector, and the row of one whose steps have begun
(10 R173). -/
structure PlaneTurn where
  time : Nat
  sector : Nat
  begun : Option Nat
  deriving DecidableEq, Repr

/-- A cluster. -/
structure Cluster where
  retired : Bool := false
  /-- lease rows LEASED or DRAINING; an absent row is FREE (10 R168) -/
  waves : SMap Wave := []
  wgs : SMap Wg := []
  /-- workgroups that have ended and whose vault range is not yet released (03 R49) -/
  ended : SMap Wg := []
  slots : SMap CtxSlot := []
  startQ : List StartEntry := []
  tiles : SMap Tile := []
  bins : SMap Bin := []
  plane : Option Plane := none
  mill : Option Mill := none
  rayStacks : SMap RayStack := []
  div : SMap DivEntry := []
  /-- rows in order of arrival at the rendezvous latch (10 R176) -/
  latch : List Nat := []
  /-- the last issue of each sector, and of the plane -/
  sectors : SMap SectorIssue := []
  planeTurn : Option PlaneTurn := none
  tcache : List Cached := []
  /-- copies of table entries, none with V = 0 (02 R39) -/
  tables : List TableCopy := []
  /-- the instruction cache, oldest block first: 64 KiB (00 R1) -/
  icache : List CodeBlock := []
  ageCtr : Nat := 0
  hsel : Nat := 0
  /-- which context last held each vault granule, for the zeroing of 03 R49 -/
  vaultOwner : SMap Nat := []
  /-- workgroups evicted or parked, key 64·context + workgroup slot (08 R140) -/
  away : SMap Away := []
  profiles : SMap Profile := []
  /-- arrivals held at the ingress, in arrival order: hold buffer first, then hold log (08 R135) -/
  held : List Nat := []
  /-- those among them that have no identifier of their own, by the one they are held under -/
  heldThings : SMap HeldThing := []
  /-- records the cluster could not post to the fault queue, retried when CONS advances (25 R354) -/
  unposted : List (List Byte) := []
  deriving DecidableEq, Repr

/-- A mailbox (03 R62, 05 R93): packets of 256 bytes, oldest first. -/
structure Mailbox where
  ctx : Nat
  packets : List (List Byte)
  deriving DecidableEq, Repr

/-- A barrier waiter registered at a home slice (16 R286). -/
structure Waiter where
  line : Nat
  gen : Nat
  tag : WTag
  deriving DecidableEq, Repr

/-- A write held in a publication buffer (07 R125). -/
structure PubWrite where
  win : Nat
  addr : Nat
  bytes : List Byte
  deriving DecidableEq, Repr

/-- A key of the LOD feedback filter (04 R73), oldest first in its slice. -/
structure LodKey where
  ctx : Nat
  resource : Nat
  level : Nat
  px : Nat
  py : Nat
  /-- physical address of the map word that holds the page's bit -/
  word : Nat
  deriving DecidableEq, Repr

/-- A line of 64 bytes that a slice's cache holds (03 R57). -/
structure CacheLine where
  dirty : Bool
  /-- it was brought in by a mapping with CA = 2: it is evicted first -/
  stream : Bool := false
  deriving DecidableEq, Repr

/-- A slice. -/
structure Slice where
  failed : Bool := false
  /-- cached lines, by line number: 2 MiB at most (03 R45, R57) -/
  lines : SMap CacheLine := []
  mboxes : SMap Mailbox := []
  waiters : List Waiter := []
  /-- addresses of the lines a barrier instruction has left VALID, broken since or not: the barrier engine's lines (03
  R62, R64) -/
  barriers : List Nat := []
  /-- on-chip task-queue entries by header line address: free-running index and two words (16 R289) -/
  tq : SMap (SMap (DWord × DWord)) := []
  lod : List LodKey := []
  pub : List PubWrite := []
  /-- line tokens left in this window (05 R98); as many as at full allotment before the first opens (DESIGN CHOICE, log 94) -/
  tokens : Nat := 304
  /-- lines it has moved that no token has covered yet, and whether it has drawn since its window opened (DESIGN CHOICE, log
  27) -/
  owed : Nat := 0
  drawn : Bool := false
  deriving DecidableEq, Repr

/-- A register or mask an outstanding operation still owes (24 R334, 12 R210). -/
inductive Owed where
  | v (r : Nat) | s (r : Nat) | k (r : Nat) | q (r : Nat)
  deriving DecidableEq, Repr

/-- A counted operation of a wave that is not complete (16 R274). -/
structure Op where
  tag : WTag
  ld : Bool := false
  st : Bool := false
  cp : Bool := false
  tl : Bool := false
  left : Nat
  owed : List Owed := []
  /-- an acquire: later accesses of the wave wait (06 R104) -/
  acq : Bool := false
  /-- the LOD resource a VLDL reads (04 R79) -/
  lod : Option Nat := none
  deriving DecidableEq, Repr

/-- What an access does at its home. -/
inductive AccKind where
  | load
  | store
  | atomic (op : AtomOp) (ty : MemType)
  | barrive
  | binapp
  | semRel
  deriving DecidableEq, Repr

/-- Where a returned value goes, and how it is extended. -/
inductive Dest where
  | none
  | lane (r lane : Nat) (wide : Bool)
  | scalar (r : SReg)
  | mask (r : Nat)
  deriving DecidableEq, Repr

/-- One access in flight (06 R101). -/
structure Access where
  op : Nat
  tag : WTag
  kind : AccKind
  va : Nat
  pa : Nat
  size : Nat
  data : Nat := 0
  data2 : Nat := 0
  signed : Bool := false
  dest : Dest := .none
  /-- the atomic place: 0 slice, 1 vault, 2 port, 3 system -/
  ap : Nat := 0
  pw : Bool := false
  /-- the caching class of its page (03 R57) -/
  ca : Nat := 1
  /-- accesses that must perform first -/
  after : List Nat := []
  performed : Bool := false
  failed : Bool := false
  result : Nat := 0
  /-- extra operands of BINAPP: lanes and words -/
  lanes : List (Nat × Nat × Nat × Nat) := []
  /-- other bytes that it works on: virtual and physical address, and how many (16 R287) -/
  spans : List (Nat × Nat × Nat) := []
  /-- the instruction that made it, where a record may name it (02 R37) -/
  iaddr : Nat := 0
  deriving DecidableEq, Repr

/-- Engine data on its way to its home (20 R304): the bytes to write as offsets from an address, and the flags their
conversion raised. With add the bytes are FP32 addends of a drain tile (07 R122). -/
structure CopyWrite where
  job : Nat
  piece : Nat
  va : Nat
  pa : Nat
  parts : List (Nat × List Byte)
  /-- elements of the job that it carries -/
  count : Nat := 1
  add : Bool := false
  /-- packets of its drain tile -/
  tile : Nat := 0
  flags : BitVec 5 := 0
  /-- its page has PW = 1, and the caching class of the page -/
  pw : Bool := false
  ca : Nat := 1
  /-- it lands in a cell of the plane: 4096·register + cell (22 R328) -/
  cell : Option Nat := none
  /-- the first identifier not given out when its oldest element was translated (02 R40) -/
  born : Nat := 0
  deriving DecidableEq, Repr

/-- LOD feedback on its way (04 R73 to R76). -/
structure LodReport where
  op : Nat
  tag : WTag
  ring : Nat
  resource : Nat
  level : Nat
  px : Nat
  py : Nat
  /-- the level whose map bit the lane found set, or 0xFF (04 R75) -/
  delivered : Nat
  word : Nat
  status : Dest
  /-- the LOD-mode copy and source page it belongs to, if it is not a lane's -/
  job : Option (Nat × Nat) := none
  /-- the filter has passed it on to its ring (04 R73) -/
  filtered : Bool := false
  /-- the site its answer goes to -/
  origin : Nat := 0
  /-- the answer, once there is one: whether the report was dropped -/
  dropped : Bool := false
  deriving DecidableEq, Repr

/-- What a packet carries (05 R85). -/
inductive Body where
  | access (a : Access)
  | mail (op : Nat) (tag : WTag) (dest : SReg) (mbox : Nat) (bytes : List Byte) (code : Nat)
  | copy (w : CopyWrite)
  /-- bytes at offsets from a vault offset, and the first element of the job among them -/
  | multicast (job piece first off : Nat) (parts : List (Nat × List Byte))
  | lod (r : LodReport)
  /-- the bytes of a job's element, read at a home that is not the job's own -/
  | element (job n : Nat) (bytes : List Byte)
  deriving DecidableEq, Repr

/-- Where a packet is (05 R90, R96). -/
inductive PktLoc where
  | agent
  | queue
  | buffer (site port vc time : Nat)
  | arrived (time : Nat)
  deriving DecidableEq, Repr

/-- A packet. Sites are numbered 16·row + column (05 R82, R84). -/
structure Packet where
  kind : Nat
  src : Nat
  dst : Nat
  part : Nat
  ctx : Nat
  flits : Nat
  /-- past the dateline (05 R88) -/
  side : Bool := false
  /-- virtual channel on the link just crossed (05 R84) -/
  vc : Nat := 0
  loc : PktLoc := .agent
  /-- destinations a multicast copy still serves, and its tree: true for column-first (05 R94) -/
  dests : List Nat := []
  colFirst : Bool := false
  /-- ROWMASK and COLMASK of a multicast (05 R84) -/
  rowMask : Nat := 0
  colMask : Nat := 0
  /-- set when the home has performed the request and the packet is the answer -/
  answer : Bool := false
  /-- a semaphore add, or its answer, that its relay slice has sent on (16 R369) -/
  relayed : Bool := false
  /-- its place in the outbound order of its source, from 1; 0 before it has entered (06 R105) -/
  stamp : Nat := 0
  body : Body
  deriving DecidableEq, Repr

/-- A router output (05 R89, R91). -/
structure OutPort where
  ptr : Nat := 0
  shared : Nat := 12
  esc2 : Nat := 4
  esc3 : Nat := 4
  busyUntil : Nat := 0
  /-- of an input: the packet of its last grant leaves it -/
  drains : Bool := false
  deriving DecidableEq, Repr

/-- A credit on its way to an output port (05 R89). -/
structure Credit where
  site : Nat
  out : Nat
  vc : Nat
  due : Nat
  flits : Nat
  deriving DecidableEq, Repr

/-- The rectangle of elements of a copy: element size, counts, and byte strides between rows and planes (20 R301). -/
structure Extent where
  esz : Nat
  n0 : Nat
  n1 : Nat
  n2 : Nat
  s1 : Int
  s2 : Int
  d1 : Int
  d2 : Int
  deriving DecidableEq, Repr

/-- What an engine job does (20 R304 to R307, R315; 16 R293; 22 R328). -/
inductive JobKind where
  | copy (src dst : Nat) (e : Extent)
  | multicast (src off : Nat) (e : Extent) (rowMask colMask : Nat)
  /-- the descriptor is the 64 bytes read at issue -/
  | lodCopy (desc : List Byte) (dst : Nat) (e : Extent) (level x0 y0 statusA : Nat)
  | gather (base dst esz limit : Nat) (idx : List Nat)
  /-- lines from src to dst; the memory side is the source of a fill -/
  | line (src dst lines : Nat) (fill : Bool)
  | drain (dst : Nat) (stride : Int) (rows : Nat) (add : Bool) (fmt : ElemFmt) (bank : SMap Word)
  /-- plane transfers: a store of values read at issue, and a load of elements into cells: the address of each, and the
  cell as 4096·register + cell -/
  | store (writes : List (Nat × List Byte))
  | planeLoad (cells : List (Nat × Nat)) (ef : ElemFmt)
  deriving DecidableEq, Repr

/-- How a source page of an LOD-mode copy was resolved (04 R81): the level delivered, whether it is not the level asked
for, and its report: none sent, awaited, or answered with DROP. -/
structure LodPage where
  level : Nat
  fallback : Bool
  awaited : Bool
  drop : Bool
  deriving DecidableEq, Repr

/-- An element that a job has reached and not yet sent on (07 R114): where it is read, unless its data is known, and where
it is written. -/
structure Flight where
  n : Nat
  /-- virtual and physical address and attributes of a source that is still to be read -/
  src : Option (Nat × Nat × Nat) := none
  dst : Nat := 0
  dstPa : Nat := 0
  attr : Nat := 0
  data : List Byte := []
  flags : BitVec 5 := 0
  /-- its bytes have been read and are on their way to where the job's data comes from -/
  coming : Bool := false
  /-- its read is out over a link, and the answer -/
  asked : Option Nat := none
  got : Option (Bool × List Byte) := none
  /-- the first identifier not given out when it was translated (02 R40) -/
  born : Nat := 0
  deriving DecidableEq, Repr

/-- A drain tile at its home (07 R122, R123): addends still to be applied in one page. -/
structure AddTile where
  job : Nat
  piece : Nat
  ctx : Nat
  va : Nat
  pa : Nat
  ca : Nat
  /-- packets still to come -/
  packets : Nat
  parts : List (Nat × List Byte)
  count : Nat
  /-- an element has been applied: no other drain tile and no atomic may touch the page -/
  started : Bool := false
  /-- the line that its last element stood in, plus one -/
  line : Nat := 0
  born : Nat := 0
  /-- of a tile that a peer sends: its link and the tag of its request, and the old values so far (07 R120) -/
  peer : Option (Nat × Nat) := none
  olds : List Byte := []
  /-- it has gone on to a peer's memory port -/
  away : Bool := false
  deriving DecidableEq, Repr

/-- An engine job not yet complete (07 R114 to R118, 03 R52). -/
structure Job where
  kind : JobKind
  /-- 0 copy, 1 gather, 2 matrix drain, 5 plane transfer (02 R37) -/
  code : Nat
  /-- the issuing waves, its owner first (20 R370) -/
  tags : List WTag
  /-- the operations it counts as: on CP, and on TL for its fill and for its read-out (16 R274) -/
  cpOps : List Nat := []
  fillOps : List Nat := []
  readOps : List Nat := []
  iaddr : Nat
  sem : Option Nat
  /-- the tile it fills, and the tile it reads out -/
  fill : Option Nat := none
  readOut : Option Nat := none
  /-- elements reached, of how many -/
  pos : Nat := 0
  total : Nat
  /-- elements each piece has yet to land (03 R52) -/
  pieces : SMap Nat
  /-- elements each piece of a read-out has yet to read -/
  toRead : SMap Nat := []
  /-- elements reached and not sent on -/
  flight : List Flight := []
  /-- the plane steps of a load, those taken, and the units of one (22 R319) -/
  steps : Nat := 0
  stepsPaid : Nat := 0
  stepUnit : Nat := 0
  /-- where each source and destination page lay at issue: a slice, 128 for a vault, 129 where translation failed -/
  srcHome : SMap Nat := []
  dstHome : SMap Nat := []
  /-- accesses and jobs that must come first (07 R115, R116) -/
  waits : List Nat := []
  jobWaits : List Nat := []
  reads : List (Nat × Nat) := []
  writes : List (Nat × Nat) := []
  /-- source pages resolved (04 R81) -/
  resolved : SMap LodPage := []
  resource : Nat := 0
  /-- the records of its faults, and the destinations of a multicast that are among them (20 R305) -/
  faults : List JobRec := []
  refused : List Nat := []
  deriving DecidableEq, Repr

/-- A traversal request (24 R334). -/
structure Traversal where
  op : Nat
  tag : WTag
  triangle : Bool
  lane : Nat
  dst : Nat
  addr : Nat
  ray : List Word
  iaddr : Nat
  /-- accesses that must perform before its reads (06 R104, R110) -/
  after : List Nat := []
  /-- words of its node read so far, and those that a link has been asked for (24 R336) -/
  got : SMap Word := []
  asked : List Nat := []
  deriving DecidableEq, Repr

/-- Fields of a placement map's header that a launch keeps (10 R162). -/
structure MapHeader where
  gx : Nat
  gy : Nat
  gz : Nat
  waves : Nat
  spRegs : Nat
  regs : Nat
  plane : Bool
  vaultG : Nat
  tmo : Nat
  qdepth : List Nat
  profile : Nat
  deriving DecidableEq, Repr

/-- One entry of a placement map: cluster, and stage and row of each wave (10 R163). -/
structure MapEntry where
  cl : Nat
  waves : List (Nat × Nat)
  deriving DecidableEq, Repr

/-- A launch not yet complete (10 R161, 25 R349, R351). -/
structure Launch where
  part : Nat
  queue : Nat
  seq : Nat
  ctx : Nat
  prio : Nat
  kernel : Nat
  args : List DWord
  hdr : MapHeader
  entries : List MapEntry
  done : Nat
  link : Nat
  /-- workgroups not yet ended -/
  left : Nat
  /-- clusters whose profile block is still owed -/
  profiling : List Nat
  deriving DecidableEq, Repr

/-- A kick being applied (10 R167): the last packet asked for, rereads made, and the launching wave. -/
structure Kick where
  seq : Nat
  rereads : Nat
  from? : Option WTag
  /-- a read of the ring is outstanding; otherwise a reread is due, at a time -/
  reading : Bool
  due : Nat := 0
  /-- a packet read and checked whose placement map is still being read over a link -/
  packet : Option (List Byte) := none
  deriving DecidableEq, Repr

/-- A packet that waits behind a barrier packet (25 R351). -/
structure HeldPacket where
  bytes : List Byte
  from? : Option WTag
  deriving DecidableEq, Repr

/-- A command read from a command queue (25 R352). -/
structure Command where
  seq : Nat
  op : Nat
  a : Nat
  b : Nat
  c : Nat
  done : Nat
  malformed : Bool
  /-- RESULT once the command has executed, and whether its effects are complete -/
  result : Option Nat
  /-- clusters that have yet to acknowledge a SHOOTDOWN, or other work outstanding -/
  waitingFor : List Nat
  deriving DecidableEq, Repr

/-- A launch or command queue (25 R348). -/
structure RingQueue where
  ring : Nat := 0
  link : Nat := 0
  slots : Nat := 0
  next : Nat := 0
  halted : Bool := false
  status : Nat := 0
  kick : Option Kick := none
  pendingKicks : List (Nat × Option WTag) := []
  held : List HeldPacket := []
  launches : List Nat := []
  cmd : Option Command := none
  /-- of the placement map being read over a link: the request out, and what has come by physical address -/
  mapAsk : Option Nat := none
  mapGot : SMap (Option (List Byte)) := []
  deriving DecidableEq, Repr

/-- A publication window (07 R124). -/
structure PubWindow where
  base : Nat := 0
  link : Nat := 0
  en : Bool := false
  limit : Nat := 0
  vaddr : Nat := 0
  early : Nat := 0
  version : Nat := 0
  deriving DecidableEq, Repr

/-- A partition (01 R17, R18; 25 R347). -/
structure Part where
  cols : List Nat
  share : Nat
  ready : Bool
  outOfService : Bool := false
  queues : SMap RingQueue := []
  cmdQ : RingQueue := {}
  /-- fault queue registers (25 R354) -/
  fqRing : Nat := 0
  fqLink : Nat := 0
  fqLog2n : Nat := 0
  fqProd : Nat := 0
  fqCons : Nat := 0
  fqLost : Nat := 0
  windows : SMap PubWindow := []
  /-- home table: slice of each list position (03 R56) -/
  home : List Nat
  classDraw : Nat := 0
  injectDraw : Nat := 0
  classDrawPrev : Nat := 0
  injectDrawPrev : Nat := 0
  /-- a checkpoint is in progress: no launch is admitted -/
  checkpointing : Bool := false
  deriving DecidableEq, Repr

/-- STATE of a context (01 R23). -/
inductive CtxLife where
  | idle | resident | suspended | destroying
  deriving DecidableEq, Repr

/-- A context that is not FREE, with the fields of its record (11 R194). -/
structure Ctx where
  life : CtxLife
  part : Nat
  root : Nat := 0
  range : Nat := 0
  hostMask : Nat := 0
  weight : Nat := 1
  prio : Nat := 0
  tvec : DWord := 0
  bsBase : Nat := 0
  bwBase : Nat := 0
  trBase : Nat := 0
  flog : Nat := 0
  spillQ : Nat := 0
  travSp : Nat := 0
  mrBase : Nat := 0
  vaultVa : Nat := 0
  view : List DWord := []
  eddy : List DWord := []
  /-- sequence number of the last fault record (02 R37) -/
  seq : Nat := 0
  faultPending : Bool := false
  /-- Millrace states put aside for a holder: cluster, workgroup slot, state (11 R196) -/
  mills : List (Nat × Mill) := []
  deriving DecidableEq, Repr

/-- A request to host memory not yet answered (07 R121, 25 R348). -/
inductive HostAsk where
  /-- what a packet at its home asks for or writes -/
  | packet (id : Nat)
  | packetRead (part queue : Nat)
  | mapRead (part queue pa : Nat)
  | fetch (cl row block : Nat)
  | waveRead (cl row pa : Nat)
  | jobRead (job n : Nat)
  | traversalRead (id : Nat)
  /-- what a drain tile adds at a peer's memory port -/
  | tile (id : Nat)
  /-- part of a launch's profile block, written to a peer -/
  | profile (launch : Nat)
  deriving DecidableEq, Repr

structure HostReq where
  ask : HostAsk
  /-- the function whose requester ID it carries (01 R25) -/
  fn : Nat
  link : Nat
  addr : Nat
  len : Nat
  /-- operation, type and operands of an atomic -/
  atomic : Option (AtomOp × MemType × Nat × Nat) := none
  /-- a drain tile's addends, by offset: one indivisible update (07 R122) -/
  adds : List (Nat × Nat) := []
  /-- bytes of a write -/
  data : List Byte := []
  write : Bool := false
  /-- of a read: the writes over the host's bytes that publication buffers have held since it was made, in order (07 R125) -/
  heldOver : List PubWrite := []
  deriving DecidableEq, Repr

/-- What the device posts to the host, oldest first (01 R25; 07 R125; 25 R346, R353): a write of a function on a link,
an MSI-X vector of a function (16 is the physical function), an answer to a peer, an answer over MCTP, or the completion of
a register access: the value read, or an unsupported request. -/
inductive HostOut where
  | write (fn link addr : Nat) (bytes : List Byte)
  | msix (function vector : Nat)
  | peerAnswer (link tag : Nat) (ok : Bool) (bytes : List Byte)
  | mctp (what : Nat) (value : Nat)
  | completion (addr value : Nat)
  | unsupported (addr : Nat)
  deriving DecidableEq, Repr

/-- A shootdown in progress (02 R40): the command queue that asked, what it covers, and the accesses each cluster still
waits for. -/
structure Shootdown where
  queue : Nat
  ctx : Nat
  lo : Nat
  hi : Nat
  ranges : Bool
  pages : Bool
  acks : List Nat
  /-- clusters that have discarded and the accesses they wait for, and an identifier given out at that time -/
  waits : SMap (List Nat)
  marks : SMap Nat := []
  deriving DecidableEq, Repr

/-- Power state of the main side (25 R358, R359, R364). -/
inductive MainSide where
  | off | inReset | up | failed
  deriving DecidableEq, Repr

/-- State of Towpath and the device as a whole. -/
structure Device where
  main : MainSide := .off
  recovery : Bool := false
  current : Option FirmwareImage := none
  previous : Option FirmwareImage := none
  fused : Nat := 0
  configDigest : Nat := 0
  granules : List (Nat × Nat × Nat) := []
  cxlCounts : List Nat := []
  cxlDown : List Nat := []
  linkSpares : SMap Nat := []
  linkDown : List Nat := []
  /-- instructions that have had to wait for their budget (25 R357) -/
  stalls : Nat := 0
  masks : SMap Nat := []
  /-- retirements Towpath keeps across power-ups (25 R361) -/
  storedRetired : List Nat := []
  halved : Bool := false
  cmdQ : RingQueue := {}
  layout : List (List Nat) := []
  /-- partitions whose checkpoint must end before the main side is powered off (25 R364) -/
  offAfter : List Nat := []
  deriving DecidableEq, Repr

/-- What a checkpoint of one partition keeps beside the bytes of its columns' checkpoint areas (08 R143): the state of its
clusters, slices, contexts and launches for which the areas have no layout. -/
structure CheckpointImage where
  layout : List (List Nat)
  part : Nat
  clusters : SMap Cluster
  slices : SMap Slice
  ctxs : SMap Ctx
  launches : SMap Launch
  deriving DecidableEq, Repr

/-- The machine. -/
structure State where
  /-- ACLK count -/
  now : Nat
  /-- bytes of device memory that differ from 0, by physical address, addresses rising -/
  mem : List Host.Cell
  /-- poisoned 64-byte lines by line number (25 R362) -/
  poison : List Nat
  dev : Device
  parts : SMap Part
  ctxs : SMap Ctx
  clusters : SMap Cluster
  slices : SMap Slice
  ops : SMap Op
  packets : SMap Packet
  /-- accesses to vaults, near and far (03 R47) -/
  laterals : SMap Access
  ports : SMap OutPort
  credits : SMap Credit
  /-- flit tokens left by site (05 R97) -/
  flitTokens : SMap Nat
  jobs : SMap Job
  /-- drain tiles at their homes -/
  addTiles : SMap AddTile
  traversals : SMap Traversal
  launches : SMap Launch
  hostReqs : SMap HostReq
  peerReqs : SMap HostReq
  shootdowns : SMap Shootdown
  hostOut : List HostOut
  checkpoints : List CheckpointImage
  /-- next identifier of a thing in flight, from 1; 0 names nothing -/
  nextId : Nat
  /-- counter of free values -/
  fresh : Nat
  /-- governor windows begun (00 R3) -/
  windows : Nat
  cur : Nat × Nat
  subj : Subject
  /-- the choices of Turn.old for the turn under way -/
  old : List (Nat × Nat × Nat)
  /-- whether the last attempt issued -/
  issued : Bool
  agenda : List Turn
  deriving DecidableEq, Repr

/-- The machine before power-up: the main side off, nothing formed, nothing in flight (25 R359) (DESIGN CHOICE, log 1)
(DESIGN CHOICE, log 68). -/
def State.reset : State :=
  { now := 0, mem := [], poison := [], dev := {}, parts := [], ctxs := [], clusters := [], slices := []
    ops := [], packets := [], laterals := [], ports := [], credits := [], flitTokens := [], jobs := []
    addTiles := []
    traversals := [], launches := [], hostReqs := [], peerReqs := [], shootdowns := []
    hostOut := [], checkpoints := [], nextId := 1, fresh := 0, windows := 0, cur := (0, 0), subj := {}
    old := [], issued := false, agenda := [] }

end Sys2Proof.Machine
end

