-- ==== Sys2Proof/Machine/Maps.lean ====
section
/-!
DEFINITION. Sorted tables: lookup, replacement, removal. A table whose absent keys hold a default value never lists that
value, so that equal tables are equal data.
-/
namespace Sys2Proof.Machine

/-- The value at a key. -/
def mget {α : Type} : SMap α → Nat → Option α
  | [], _ => none
  | (k, a) :: t, n => if n = k then some a else mget t n

/-- The value at a key, or what an absent key holds. -/
def mgetD {α : Type} (m : SMap α) (n : Nat) (d : α) : α := (mget m n).getD d

/-- The table with a value at a key. -/
def mset {α : Type} : SMap α → Nat → α → SMap α
  | [], n, v => [(n, v)]
  | (k, a) :: t, n, v =>
    if n < k then (n, v) :: (k, a) :: t
    else if n = k then (n, v) :: t
    else (k, a) :: mset t n v

/-- The table without a key. -/
def mdel {α : Type} : SMap α → Nat → SMap α
  | [], _ => []
  | (k, a) :: t, n => if n = k then mdel t n else (k, a) :: mdel t n

/-- Stores a value where absent keys hold d: d itself is never listed. -/
def msetD {α : Type} [DecidableEq α] (m : SMap α) (n : Nat) (d v : α) : SMap α :=
  if v = d then mdel m n else mset m n v

/-- Changes the value at a key, if there is one. -/
def mupd {α : Type} (m : SMap α) (n : Nat) (f : α → α) : SMap α :=
  match mget m n with
  | some a => mset m n (f a)
  | none => m

/-- The keys of a table are strictly rising. -/
def sortedFrom {α : Type} : Nat → SMap α → Bool
  | _, [] => true
  | lo, (k, _) :: t => decide (lo ≤ k) && sortedFrom (k + 1) t

/-- The lowest natural number below n that p holds for. -/
def firstBelow (p : Nat → Bool) : Nat → Nat → Option Nat
  | 0, _ => none
  | n + 1, i => if p i then some i else firstBelow p n (i + 1)

/-- The numbers i, i + 1, …, n of them. -/
def rangeFrom : Nat → Nat → List Nat
  | _, 0 => []
  | i, n + 1 => i :: rangeFrom (i + 1) n

/-- Bit i of a number. -/
def tbit (n i : Nat) : Bool := (n >>> i) % 2 == 1

/-- Bits [hi:lo] of a number. -/
def bits (n hi lo : Nat) : Nat := (n >>> lo) % 2 ^ (hi + 1 - lo)

/-- Stable insertion of a value before the first element with a greater key. -/
def insertBy {α : Type} (key : α → Nat) (a : α) : List α → List α
  | [] => [a]
  | b :: t => if key a < key b then a :: b :: t else b :: insertBy key a t

/-- Stable sort by a key, ascending. -/
def sortBy {α : Type} (key : α → Nat) (l : List α) : List α := l.foldl (fun acc a => insertBy key a acc) []

/-- The least element by a key, the earliest among equals. -/
def leastBy {α : Type} (key : α → Nat) (l : List α) : Option α := (sortBy key l).head?

/-- Removes every element equal to a. -/
def without {α : Type} [DecidableEq α] (a : α) (l : List α) : List α := l.filter (fun b => decide (b ≠ a))

end Sys2Proof.Machine
end

