-- ==== Sys2Proof/Machine/Mem.lean ====
section
/-!
DEFINITION. Device memory as bytes by physical address, little-endian (00 R5). A byte that nothing has written reads as
zero: for vaults the spec says so (25 R359); elsewhere the spec leaves the value open (06 R101) and zero is the model's
choice (DESIGN CHOICE, unsafe: log 2).
-/
namespace Sys2Proof.Machine

/-- What an address that memory does not list reads as (DESIGN CHOICE, log 2). -/
def unlistedByte : Byte := 0

/-- The canonical form of memory: addresses strictly rising, none listed with the byte an unlisted address reads as. -/
def Memory.wf (m : List Host.Cell) : Bool :=
  sortedFrom 0 m && m.all (fun c => decide (c.2 ≠ unlistedByte))

/-- One byte of memory. -/
def memByte (m : List Host.Cell) (a : Nat) : Byte := mgetD (α := Byte) m a unlistedByte

/-- Memory with one byte written. -/
def memSetByte (m : List Host.Cell) (a : Nat) (b : Byte) : List Host.Cell := msetD (α := Byte) m a unlistedByte b

/-- n bytes from address a up. -/
def memRead (m : List Host.Cell) (a : Nat) : Nat → List Byte
  | 0 => []
  | n + 1 => memByte m a :: memRead m (a + 1) n

/-- Bytes written from address a up. -/
def memWrite (m : List Host.Cell) (a : Nat) : List Byte → List Host.Cell
  | [] => m
  | b :: t => memWrite (memSetByte m a b) (a + 1) t

/-- The number that bytes hold, lowest first. -/
def bytesToNat : List Byte → Nat
  | [] => 0
  | b :: t => b.toNat + 256 * bytesToNat t

/-- The n lowest bytes of a number, lowest first. -/
def natToBytes : Nat → Nat → List Byte
  | 0, _ => []
  | n + 1, w => BitVec.ofNat 8 w :: natToBytes n (w / 256)

/-- The number n bytes of memory hold. -/
def memNat (m : List Host.Cell) (a n : Nat) : Nat := bytesToNat (memRead m a n)

/-- Memory with the n lowest bytes of a number written. -/
def memSetNat (m : List Host.Cell) (a n w : Nat) : List Host.Cell := memWrite m a (natToBytes n w)

/-- Memory with a range cleared to the unlisted byte. -/
def memClear (m : List Host.Cell) (a n : Nat) : List Host.Cell :=
  m.filter (fun c => !(decide (a ≤ c.1) && decide (c.1 < a + n)))

end Sys2Proof.Machine
end

