-- ==== Sys2Proof/Machine/Space.lean ====
section
/-!
DEFINITION. The physical map, sites, ownership and homes (01 R13 to R18, 03 R56, 05 R82).
-/
namespace Sys2Proof.Machine

/-- A region of the physical map (01 R13). -/
inductive Region where
  | hbm (col : Nat)
  | vault (cl : Nat)
  | checkpoint
  | safe (granule : Nat)
  | cxl (granule : Nat)
  | host (link : Nat)
  | peer (link : Nat)
  | control
  | reserved
  deriving DecidableEq, Repr

def colBytes : Nat := 0x900000000
def vaultBase : Nat := 0x10000000000
def vaultBytes : Nat := 0x1000000
def granuleBytes : Nat := 0x400000000
def ckptBase : Nat := 0x20000000000
def safeBase : Nat := 0x2A000000000
def cxlBase : Nat := 0x30000000000
def hostBase0 : Nat := 0x0004000000000000
def hostBase1 : Nat := 0x0006000000000000
def peerBase : Nat := 0x0008000000000000
def peerBytes : Nat := 0x0000800000000000
def controlBase : Nat := 0x000C000000000000

/-- The region of a physical address (01 R13). -/
def region (pa : Nat) : Region :=
  if pa < 16 * colBytes then .hbm (pa / colBytes)
  else if pa < vaultBase then .reserved
  else if pa < vaultBase + 128 * vaultBytes then .vault ((pa - vaultBase) / vaultBytes)
  else if pa < ckptBase then .reserved
  else if pa < safeBase then .checkpoint
  else if pa < cxlBase then .safe ((pa - safeBase) / granuleBytes)
  else if pa < 0xA0000000000 then .cxl ((pa - cxlBase) / granuleBytes)
  else if pa < hostBase0 then .reserved
  else if pa < hostBase1 then .host 0
  else if pa < peerBase then .host 1
  else if pa < controlBase then .peer ((pa - peerBase) / peerBytes)
  else if pa < controlBase + 0x100000000 then .control
  else .reserved

/-- Row and column of cluster n (05 R82). -/
def clusterRow (n : Nat) : Nat := n / 8
def clusterCol (n : Nat) : Nat := 2 * (n % 8) + n / 8 % 2
/-- Row and column of slice n (05 R82). -/
def sliceRow (n : Nat) : Nat := n / 8
def sliceCol (n : Nat) : Nat := 2 * (n % 8) + (1 - n / 8 % 2)

/-- Sites are numbered 16·row + column. -/
def siteOf (r c : Nat) : Nat := 16 * r + c
def clusterSite (n : Nat) : Nat := siteOf (clusterRow n) (clusterCol n)
def sliceSite (n : Nat) : Nat := siteOf (sliceRow n) (sliceCol n)
def siteRow (s : Nat) : Nat := s / 16
def siteCol (s : Nat) : Nat := s % 16
/-- A site with r + c even holds a cluster. -/
def siteIsCluster (s : Nat) : Bool := (siteRow s + siteCol s) % 2 == 0
/-- The number of the cluster or slice at a site (05 R82). -/
def siteNumber (s : Nat) : Nat := 8 * siteRow s + siteCol s / 2

/-- The slice that relays an add to a cluster (16 R369). -/
def relaySlice (m : Nat) : Nat :=
  let r := if clusterRow m = 15 then 14 else clusterRow m + 1
  siteNumber (siteOf r (clusterCol m))

/-- The cluster n of the machine; one never touched is as at bring-up. -/
def State.cluster (s : State) (n : Nat) : Cluster := mgetD s.clusters n {}
def State.setCluster (s : State) (n : Nat) (c : Cluster) : State := { s with clusters := mset s.clusters n c }
def State.slice (s : State) (n : Nat) : Slice := mgetD s.slices n {}
def State.setSlice (s : State) (n : Nat) (x : Slice) : State := { s with slices := mset s.slices n x }

/-- The partition a column belongs to (01 R17). -/
def State.partOfCol (s : State) (c : Nat) : Option Nat :=
  (s.parts.find? (fun p => p.2.cols.contains c)).map Prod.fst

/-- The partition of a cluster and of a slice. -/
def State.partOfCluster (s : State) (n : Nat) : Option Nat := s.partOfCol (clusterCol n)
def State.partOfSlice (s : State) (n : Nat) : Option Nat := s.partOfCol (sliceCol n)

/-- The partition a granule is assigned to: kind 0 safe tier, 1 CXL (01 R14). -/
def State.granuleOwner (s : State) (kind g : Nat) : Option Nat :=
  match s.dev.granules.find? (fun x => x.1 == kind && x.2.1 == g) with
  | some x => some x.2.2
  | none => if kind == 0 && g < 16 then s.partOfCol g else none

/-- The CXL port whose memory a granule is, by the counts fixed at bring-up (01 R14). -/
def cxlPortOf : List Nat → Nat → Nat → Option Nat
  | [], _, _ => none
  | n :: t, k, g => if g < n then some k else cxlPortOf t (k + 1) (g - n)

/-- The partition that owns the memory at an address; none where no partition does. -/
def State.ownerOf (s : State) (pa : Nat) : Option Nat :=
  match region pa with
  | .hbm c => s.partOfCol c
  | .vault n => s.partOfCluster n
  | .safe g => s.granuleOwner 0 g
  | .cxl g => s.granuleOwner 1 g
  | .checkpoint | .host _ | .peer _ | .control | .reserved => none

/-- The address has no target (01 R15). -/
def State.noTarget (s : State) (pa : Nat) : Bool :=
  match region pa with
  | .reserved => true
  | .vault n => (s.cluster n).retired
  | .safe g => (s.granuleOwner 0 g).isNone
  | .cxl g =>
    match cxlPortOf s.dev.cxlCounts 0 g with
    | some k => s.dev.cxlDown.contains k || (s.granuleOwner 1 g).isNone || decide (448 ≤ g)
    | none => true
  | .peer j => s.dev.linkDown.contains j
  | .control =>
    -- only mapped blocks exist (25 R347)
    let o := pa - controlBase
    !(decide (o < 0x10000000 + 128 * 0x10000) || (decide (0x20000000 ≤ o) && decide (o < 0x20100000)))
  | .hbm _ | .checkpoint | .host _ => false

/-- Memory that is homed in slices (01 R16, 03 R56). -/
def sliceHomed (pa : Nat) : Bool :=
  match region pa with
  | .hbm _ | .safe _ | .cxl _ => true
  | .vault _ | .checkpoint | .host _ | .peer _ | .control | .reserved => false

/-- The hash of a physical address (03 R56). -/
def homeHash (pa : Nat) : Nat :=
  let g := pa / 4096
  Nat.xor (Nat.xor (bits g 11 0) (bits g 23 12)) (Nat.xor (bits g 35 24) (bits g 39 36))

/-- The home slice of an address over the slices of a partition (03 R56). -/
def State.homeIn (s : State) (part pa : Nat) : Nat :=
  match mget s.parts part with
  | some p => p.home.getD (homeHash pa % (8 * p.cols.length)) 0
  | none => 0

/-- The home slice of an address a context of a partition reaches: over the owner's slices, or, for a host or peer
window, over the requester's (03 R56, R59). -/
def State.homeOf (s : State) (part pa : Nat) : Nat := s.homeIn ((s.ownerOf pa).getD part) pa

/-- The clusters of a partition in ascending number (11 R187). -/
def State.clustersOf (s : State) (part : Nat) : List Nat :=
  match mget s.parts part with
  | some p => (rangeFrom 0 128).filter (fun n => p.cols.contains (clusterCol n))
  | none => []

def State.slicesOf (s : State) (part : Nat) : List Nat :=
  match mget s.parts part with
  | some p => (rangeFrom 0 128).filter (fun n => p.cols.contains (sliceCol n))
  | none => []

/-- A failed router has taken a cluster's partition out of service (25 R362). -/
def State.outOfService (s : State) (cl : Nat) : Bool := ((s.partOfCluster cl).bind (mget s.parts)).any Part.outOfService

/-- The position j of a cluster among the clusters of its partition (10 R175). -/
def State.clusterIndex (s : State) (cl : Nat) : Nat :=
  match s.partOfCluster cl with
  | some p => ((s.clustersOf p).filter (fun n => decide (n < cl))).length
  | none => 0

/-- The partition of a context. -/
def State.partOfCtx (s : State) (ctx : Nat) : Nat := ((mget s.ctxs ctx).map Ctx.part).getD 0

/-- A poisoned line is among the bytes (25 R362). -/
def State.poisoned (s : State) (pa n : Nat) : Bool :=
  s.poison.any (fun l => decide (pa < 64 * (l + 1)) && decide (64 * l < pa + n))

/-- The feedback keys of a slice whose map word lies clear of n bytes (04 R73). -/
def Slice.dropKeys (x : Slice) (pa n : Nat) : Slice :=
  { x with lod := x.lod.filter (fun k => !(decide (k.word < pa + n) && decide (pa < k.word + 8))) }

/-- The lines of 64 bytes that n bytes touch. -/
def linesOf (pa n : Nat) : List Nat := if n = 0 then [] else rangeFrom (pa / 64) ((pa + n - 1) / 64 + 1 - pa / 64)

/-- Lines that a slice's cache holds (03 R45, R57). -/
def cacheLines : Nat := 32768

/-- Makes room for one more line: a streaming line leaves first, otherwise the lowest-numbered (DESIGN CHOICE, log 27). The
count is of lines moved across a memory port. -/
def makeRoom (m : SMap CacheLine) : Nat × SMap CacheLine :=
  if m.length < cacheLines then (0, m)
  else match (m.find? (fun e => e.2.stream)).or m.head? with
    | some v => (if v.2.dirty then 1 else 0, mdel m v.1)
    | none => (0, m)

/-- The cache holds a line: one it has keeps its dirty bytes. -/
def holdLine (m : SMap CacheLine) (l : Nat) (c : CacheLine) : Nat × SMap CacheLine :=
  match mget m l with
  | some old => (0, mset m l { c with dirty := old.dirty || c.dirty })
  | none =>
    let (n, m) := makeRoom m
    (n, mset m l c)

/-- What an access does with a line of its home's cache, by the caching class of its mapping (03 R57), or as a port atomic
or add-on-store (07 R120, R122). -/
inductive LineUse where
  | read (ca : Nat)
  | write (ca : Nat) (whole : Bool)
  | port
  deriving DecidableEq, Repr

/-- The cache after a use, and the lines it moves across a memory port (05 R98): a fill, also before a write of part of a line
(DESIGN CHOICE, log 27), a write-back, and each uncached or port access. -/
def useLine (m : SMap CacheLine) (l : Nat) : LineUse → Nat × SMap CacheLine
  | .read ca =>
    if (mget m l).isSome then (0, m)
    else if ca = 0 then (1, m)
    else
      let (n, m) := holdLine m l { dirty := false, stream := ca == 2 }
      (n + 1, m)
  | .write ca whole =>
    if ca = 0 then (1, m)
    else
      let fill := if (mget m l).isNone && !whole then 1 else 0
      let (n, m) := holdLine m l { dirty := true, stream := ca == 2 }
      (n + fill, m)
  | .port => ((if (mget m l).any CacheLine.dirty then 1 else 0) + 1, mdel m l)

/-- The governor's window has ended and the next is not yet open: tokens and units left in it have lapsed (05 R97, R98; 10
R183). -/
def State.windowDue (s : State) : Bool := decide (s.windows ≠ 0) && decide (s.windows * Config.windowAclk ≤ s.now)

/-- A slice that has moved n lines: they draw its tokens, and those that none covers are owed to the windows that follow. -/
def Slice.draw (x : Slice) (n : Nat) (lapsed : Bool) : Slice :=
  let left := if lapsed then 0 else x.tokens
  if n = 0 then x else { x with tokens := left - n, owed := x.owed + (n - left), drawn := true }

/-- A use of a line at its home, which draws what it moves. -/
def State.chargeLine (s : State) (u : Nat × LineUse) : State :=
  let h := s.homeOf 0 (64 * u.1)
  let x := s.slice h
  let (n, m) := useLine x.lines u.1 u.2
  s.setSlice h ({ x with lines := m }.draw n s.windowDue)

/-- Uses of lines at their homes that a turn makes whatever tokens there are: the turn as a whole waits for them
(movesCovered). -/
def State.charge (s : State) (uses : List (Nat × LineUse)) : State := uses.foldl State.chargeLine s

/-- How many lines a use would move at its home. -/
def State.lineMoves (s : State) (u : Nat × LineUse) : Nat := (useLine (s.slice (s.homeOf 0 (64 * u.1))).lines u.1 u.2).1

/-- A use of a line is covered: it moves none, or the tokens of its home cover what it moves (05 R98). -/
def State.lineCovered (s : State) (u : Nat × LineUse) : Bool :=
  s.lineMoves u == 0 || (decide (s.lineMoves u ≤ (s.slice (s.homeOf 0 (64 * u.1))).tokens) && !s.windowDue)

/-- Uses of lines at their homes, with the tokens they draw; none where some home's tokens do not cover them (05 R98). -/
def State.moveLines (s : State) : List (Nat × LineUse) → Option State
  | [] => some s
  | u :: t => if s.lineCovered u then (s.chargeLine u).moveLines t else none

/-- The lines that a turn from s to t moves are covered: no slice owes more than it did, except a slice from which the
window has drawn nothing yet, which owes the excess to the windows that follow, since a turn's lines may be more than any
window's allotment (05 R98) (DESIGN CHOICE, log 27). -/
def State.movesCovered (s t : State) : Bool :=
  t.slices.all (fun e => decide (e.2.owed ≤ (s.slice e.1).owed) || (!(s.slice e.1).drawn && !s.windowDue))

/-- The uses of the lines of n bytes, where they are homed in slices. -/
def usesOf (pa n : Nat) (u : Bool → LineUse) : List (Nat × LineUse) :=
  if sliceHomed pa then
    (linesOf pa n).map (fun l => (l, u (decide (pa ≤ 64 * l) && decide (64 * (l + 1) ≤ pa + n))))
  else []

/-- Stores bytes in device memory; a write of a whole line clears its poison (25 R362), and a write to a map word removes
the feedback keys of its pages (04 R73). -/
def State.store (s : State) (pa : Nat) (bs : List Byte) : State :=
  { s with
    mem := memWrite s.mem pa bs
    poison := s.poison.filter (fun l => !(decide (pa ≤ 64 * l) && decide (64 * (l + 1) ≤ pa + bs.length)))
    slices := s.slices.map (fun e => (e.1, e.2.dropKeys pa bs.length)) }

/-- The lines of n bytes are read, or written, at their homes under a caching class by one of the device's own units (03 R57,
05 R98). -/
def State.chargeRead (s : State) (pa n ca : Nat) : State := s.charge (usesOf pa n (fun _ => .read ca))
def State.chargeWrite (s : State) (pa n ca : Nat) : State := s.charge (usesOf pa n (.write ca))

/-- A new identifier for a thing in flight. -/
def State.newId (s : State) : Nat × State := (s.nextId, { s with nextId := s.nextId + 1 })

/-- A value the spec leaves open, a new one at each use (DESIGN CHOICE, log 4). -/
def State.takeFree (s : State) : Nat × State := (Config.freeValue s.fresh, { s with fresh := s.fresh + 1 })

end Sys2Proof.Machine
end

