-- ==== Sys2Proof/Machine/Translate.lean ====
section
/-!
DEFINITION. Translation of a context's virtual addresses: canonical form, range table, page walk, and the region,
attribute and permission checks in their order (01 R10, R11, R15 to R18; 02 R27 to R34, R39).
-/
namespace Sys2Proof.Machine

/-- Memory causes (02 R34, R53, R67, R120). -/
def causeNonCanonical : Nat := 0x01
def causeNotPresent : Nat := 0x02
def causeMalformed : Nat := 0x03
def causePermission : Nat := 0x04
def causeNoTarget : Nat := 0x05
def causeIsolation : Nat := 0x06
def causeDataError : Nat := 0x07
def causeMisaligned : Nat := 0x08
def causeLodTail : Nat := 0x09
def causeTileState : Nat := 0x0A
def causeLodDescriptor : Nat := 0x0B
def causeAtomicPlace : Nat := 0x0C

/-- Access kinds (02 R27, R33). -/
inductive Kind where
  | fetch | read | write | atomic | hwRead | hwWrite
  deriving DecidableEq, Repr

/-- The ACCESS code of a fault record (02 R37, 11 R187). -/
def Kind.code : Kind → Nat
  | .read | .hwRead => 0
  | .write => 1
  | .atomic => 2
  | .hwWrite => 3
  | .fetch => 4

/-- Canonical form: bits [63:57] equal bit 56 (01 R10). -/
def canonical (va : Nat) : Bool := decide (va < 2 ^ 56) || decide (2 ^ 64 - 2 ^ 56 ≤ va)

/-- The upper half of a context's space (01 R10, R11). -/
def upperHalf (va : Nat) : Bool := decide (2 ^ 64 - 2 ^ 56 ≤ va) && decide (va < 2 ^ 64)

/-- Whether a table read at an address may be made for a partition; the cause if not (01 R15, R18; 02 R28, R30). -/
def State.tableReadCause (s : State) (part pa n : Nat) : Option Nat :=
  if !sliceHomed pa then some causeMalformed
  else if s.noTarget pa then some causeNoTarget
  else if s.ownerOf pa ≠ some part then some causeIsolation
  else if s.poisoned pa n then some causeDataError
  else none

/-- The form of attribute bits [11:2]: CA is not 3, and W and X are not both set (02 R32). -/
def attrFormOk (e : Nat) : Bool := !(bits e 10 9 == 3) && !(tbit e 3 && tbit e 4)

/-- The result of looking an address up: physical address and entry bits, or a cause. -/
abbrev Found := Except Nat (Nat × Nat)

/-- The copies of table entries that an access uses: by level and index as TableCopy has them (02 R39). -/
abbrev Copies := Nat → Nat → Option (List Nat)

/-- The range table from entry i: a hit, a fault of a hit, or none (02 R28, R29). -/
def State.rangeLookup (s : State) (part base va : Nat) (cp : Copies) : Nat → Nat → Option Found
  | 0, _ => none
  | n + 1, i =>
    let at' := base + 32 * i
    let words : Except Nat (List Nat) :=
      match cp 4 i with
      | some l => .ok l
      | none =>
        match s.tableReadCause part at' 32 with
        | some c => .error c
        | none => .ok ((rangeFrom 0 4).map (fun k => memNat s.mem (at' + 8 * k) 8))
    match words with
    | .error c => some (.error c)
    | .ok l =>
      let w0 := l.getD 0 0
      let w1 := l.getD 1 0
      let w2 := l.getD 2 0
      let w3 := l.getD 3 0
      let lo := w0 / 4096 * 4096
      let hi := w1 / 4096 * 4096 + 4095
      if tbit w0 0 && decide (lo ≤ va) && decide (va ≤ hi) then
        if tbit w0 1 || tbit w0 11 || w1 % 4096 != 0 || w2 % 4096 != 0 || w3 != 0 || !attrFormOk w0 then
          some (.error causeMalformed)
        else some (.ok ((va + w2) % 2 ^ 64, w0 % 4096))
      else s.rangeLookup part base va cp n (i + 1)

/-- A pointer entry: reserved bits and bits [11:2] zero (02 R31, R32). -/
def pointerOk (e : Nat) : Bool := decide (e < 2 ^ 52) && bits e 11 2 == 0

/-- The lowest address bit that selects an entry of a level. -/
def levelShift (level : Nat) : Nat := 12 + 9 * level

/-- The index of an address in a table of a level (02 R30). -/
def levelIndex (level va : Nat) : Nat :=
  if level = 3 then bits va 56 39 else bits va (levelShift level + 8) (levelShift level)

/-- Reads a page-table entry, or the cause for which it cannot be read (02 R30). -/
def State.readEntry (s : State) (part pa : Nat) : Except Nat Nat :=
  match s.tableReadCause part pa 8 with
  | some c => .error c
  | none => .ok (memNat s.mem pa 8)

/-- The entry of a level that an address selects, with the base of its table: a copy or as the table stands. -/
def State.levelEntry (s : State) (part va : Nat) (cp : Copies) (level table : Nat) : Except Nat (Nat × Nat) :=
  match cp level (va >>> levelShift level) with
  | some l => .ok (l.getD 0 0, l.getD 1 0)
  | none =>
    match s.readEntry part (table + 8 * levelIndex level va) with
    | .error c => .error c
    | .ok e => .ok (e, table)

/-- One level of the walk: reads the entry and goes on, maps, or faults (02 R30, R32). Levels count 3, 2, 1, 0
(DESIGN CHOICE, log 6). -/
def State.walkFrom (s : State) (part va : Nat) (cp : Copies) : Nat → Nat → Found
  | level, table =>
    let shift := levelShift level
    match s.levelEntry part va cp level table with
    | .error c => .error c
    | .ok (e, base) =>
      if !tbit e 0 then .error causeNotPresent
      else match level with
        | 0 =>
          if !tbit e 1 then .error causeMalformed
          else if tbit e 11 then
            -- a 64 KiB page: any entry of the group may translate (02 R32)
            match s.readEntry part (base + 8 * (levelIndex 0 va / 16 * 16 + Config.s64Choice (va / 4096) % 16)) with
            | .error c => .error c
            | .ok g =>
              if !tbit g 0 then .error causeNotPresent
              else if !tbit g 1 || !decide (g < 2 ^ 52) || !attrFormOk g then .error causeMalformed
              else if tbit g 11 then
                if bits g 15 12 != 0 then .error causeMalformed
                else .ok (bits g 51 16 * 65536 + va % 65536, g % 4096)
              else .ok (bits g 51 12 * 4096 + va % 4096, g % 4096)
          else if !decide (e < 2 ^ 52) || !attrFormOk e then .error causeMalformed
          else .ok (bits e 51 12 * 4096 + va % 4096, e % 4096)
        | l + 1 =>
          if tbit e 1 then
            if level = 3 || tbit e 11 || !decide (e < 2 ^ 52) || !attrFormOk e || bits e (shift - 1) 12 != 0 then
              .error causeMalformed
            else .ok (bits e 51 shift * 2 ^ shift + va % 2 ^ shift, e % 4096)
          else if !pointerOk e then .error causeMalformed
          else s.walkFrom part va cp l (bits e 51 12 * 4096)

/-- Where the walk of an address begins: at the lowest level whose entry a copy serves, otherwise at the root. -/
def walkStart (cp : Copies) (va root : Nat) : Nat × Nat :=
  match (rangeFrom 0 4).find? (fun l => (cp l (va >>> levelShift l)).isSome) with
  | some l => (l, 0)
  | none => (3, root)

/-- Finds the mapping of a canonical address: range table first, then the walk (02 R27). -/
def State.lookupWith (s : State) (c : Ctx) (cp : Copies) (va : Nat) : Found :=
  match s.rangeLookup c.part c.range va cp 64 0 with
  | some r => r
  | none =>
    let (level, table) := walkStart cp va c.root
    s.walkFrom c.part va cp level table

/-- The mapping that the tables give as they stand. -/
def State.lookupFresh (s : State) (c : Ctx) (va : Nat) : Found := s.lookupWith c (fun _ _ => none) va

/-! ### Cached translations (02 R39) -/

/-- The turn has access 0 at an address use a copy: bit is its place in Turn.old. -/
def State.usesOld (s : State) (va bit : Nat) : Bool := s.old.any (fun e => e.1 == 0 && e.2.1 == va && tbit e.2.2 bit)

/-- The state as access k of the turn sees it: its choices stand as those of access 0. -/
def State.accessOf (s : State) (k : Nat) : State :=
  { s with old := s.old.filterMap (fun e => if e.1 = k then some (0, e.2) else none) }

/-- Which access of a turn fetches, which is an engine element's destination, and which reads a LOD map for a lane. -/
def fetchAccess : Nat := 128
def dstAccess : Nat := 129
def mapAccess (lane : Nat) : Nat := 130 + lane

/-- The copies of table entries that an access at an address uses. -/
def State.copiesFor (s : State) (cl ctx va : Nat) : Copies := fun level index =>
  if s.usesOld va (if level = 4 then 8 + index else 1 + level) then
    ((s.cluster cl).tables.find? (fun e => e.ctx == ctx && e.level == level && e.index == index)).map TableCopy.words
  else none

/-- A cached translation of the cluster that covers an address. -/
def State.cachedHit (s : State) (cl ctx va : Nat) : Option Cached :=
  (s.cluster cl).tcache.find? (fun e => e.ctx == ctx && decide (e.lo ≤ va) && decide (va ≤ e.hi))

/-- The mapping that an access uses: what caches keep where its turn says so, otherwise the tables as they stand. A cached
page serves only where no range entry hits: an added range entry takes effect at once (DEDUCED, log 80). -/
def State.lookup (s : State) (cl ctx : Nat) (c : Ctx) (va : Nat) : Found :=
  let cp := s.copiesFor cl ctx va
  match if s.usesOld va 0 then s.cachedHit cl ctx va else none with
  | some e =>
    let old : Found := .ok ((e.pa + (va - e.lo)) % 2 ^ 64, e.attr)
    if e.range then old else (s.rangeLookup c.part c.range va cp 64 0).getD old
  | none => s.lookupWith c cp va

/-- A partition is admitted to the peer window of a link: the peer admission table pairs it with some partition there
(01 R13, R18; 25 R355) (DEDUCED, log 81). -/
def State.peerAdmits (s : State) (link part : Nat) : Bool := decide (mgetD s.dev.masks (16 * link + part) 0 ≠ 0)

/-- The region check: NO_TARGET, then ISOLATION (01 R15, R16, R18, R24). Firmware reaches everything. -/
def State.regionCause (s : State) (ctx : Nat) (c : Ctx) (pa : Nat) : Option Nat :=
  if s.noTarget pa then some causeNoTarget
  else if ctx = 0 then none
  else match region pa with
    | .hbm _ | .vault _ | .safe _ | .cxl _ => if s.ownerOf pa = some c.part then none else some causeIsolation
    | .host _ => none
    | .peer j => if s.peerAdmits j c.part then none else some causeIsolation
    | .checkpoint | .control | .reserved => some causeIsolation

/-- AP of an entry (02 R31). -/
def attrAp (e : Nat) : Nat := bits e 6 5
/-- PW of an entry. -/
def attrPw (e : Nat) : Bool := tbit e 8
/-- CA of an entry. -/
def attrCa (e : Nat) : Nat := bits e 10 9

/-- AP and PW fit the target region (02 R32). -/
def attrFits (e pa : Nat) : Bool :=
  match region pa with
  | .hbm _ | .safe _ | .cxl _ => (attrAp e == 0 || attrAp e == 2) && !attrPw e
  | .vault _ => attrAp e == 1 && !attrPw e
  | .host _ => attrAp e == 3
  | .peer _ => attrAp e == 2 && !attrPw e
  | .checkpoint | .control | .reserved => true

/-- The permission an access kind needs (02 R33). -/
def permits (e : Nat) : Kind → Bool
  | .fetch => tbit e 4
  | .read => tbit e 2
  | .write => tbit e 3
  | .atomic => tbit e 2 && tbit e 3
  | .hwRead | .hwWrite => true

/-- Translate, with every check of 02 R27 in its order. Hardware accesses of 01 R11 stay in the upper half (11 R365). -/
def State.translate (s : State) (cl ctx va : Nat) (kind : Kind) : Found :=
  match mget s.ctxs ctx with
  | none => .error causeNotPresent
  | some c =>
    if !canonical va then .error causeNonCanonical
    else match s.lookup cl ctx c va with
      | .error e => .error e
      | .ok (pa, attr) =>
        match s.regionCause ctx c pa with
        | some e => .error e
        | none =>
          if !attrFits attr pa then .error causeMalformed
          else if !permits attr kind then .error causePermission
          else .ok (pa, attr)

/-- Translate a hardware access of the per-context areas: outside the upper half it fails with PERMISSION, last in the
order of 02 R34 (01 R11, 11 R365). An area in a host or peer window fails too (01 R24); that its cause is MALFORMED is the
model's choice (DESIGN CHOICE, log 82). -/
def State.translateHw (s : State) (cl ctx va : Nat) (kind : Kind) : Found :=
  match s.translate cl ctx va kind with
  | .error c => .error c
  | .ok (pa, attr) =>
    match region pa with
    | .host _ | .peer _ => .error causeMalformed
    | .hbm _ | .vault _ | .checkpoint | .safe _ | .cxl _ | .control | .reserved =>
      if upperHalf va then .ok (pa, attr) else .error causePermission

/-- The physical byte spans that n bytes from va translate to, page by page, each with the caching class of its page, or the
cause and address that fail. -/
def State.hwSpans (s : State) (cl ctx : Nat) (kind : Kind) : Nat → Nat → Nat → Except (Nat × Nat) (List (Nat × Nat × Nat))
  | 0, _, _ => .ok []
  | fuel + 1, va, n =>
    if n = 0 then .ok []
    else
      let here := min n (4096 - va % 4096)
      match s.translateHw cl ctx va kind with
      | .error c => .error (c, va)
      | .ok (pa, attr) =>
        match s.hwSpans cl ctx kind fuel (va + here) (n - here) with
        | .error e => .error e
        | .ok t => .ok ((pa, here, attrCa attr) :: t)

/-- Pages that n bytes can touch. -/
def pagesOf (n : Nat) : Nat := n / 4096 + 2

/-- What a hardware read of a per-context area finds (01 R11): the bytes, or the cause and the address that fails. -/
def State.hwRead (s : State) (cl ctx va n : Nat) : Except (Nat × Nat) (List Byte) :=
  match s.hwSpans cl ctx .hwRead (pagesOf n) va n with
  | .error e => .error e
  | .ok spans =>
    if spans.any (fun x => s.poisoned x.1 x.2.1) then .error (causeDataError, va)
    else .ok (spans.flatMap (fun x => memRead s.mem x.1 x.2.1))

/-- The walk's entries with V = 1 for an address, as a cluster may keep them. -/
def State.walkCopies (s : State) (ctx part va : Nat) : Nat → Nat → List TableCopy
  | level, table =>
    match s.readEntry part (table + 8 * levelIndex level va) with
    | .error _ => []
    | .ok e =>
      if !tbit e 0 then []
      else
        { ctx := ctx, level := level, index := va >>> levelShift level, words := [e, table] } ::
          (match level with
           | 0 => []
           | l + 1 => if tbit e 1 || !pointerOk e then [] else s.walkCopies ctx part va l (bits e 51 12 * 4096))

/-- The spans of table entries that a lookup reads: the range table up to its hit, and the walk. -/
def State.tableSpans (s : State) (ctx : Nat) (c : Ctx) (va : Nat) : List (Nat × Nat) :=
  let hit (i : Nat) : Bool := (s.rangeLookup c.part c.range va (fun _ _ => none) 1 i).isSome
  match (rangeFrom 0 64).find? hit with
  | some i => [(c.range, 32 * (i + 1))]
  | none =>
    (c.range, 32 * 64) ::
      (s.walkCopies ctx c.part va 3 c.root).map (fun e => (e.words.getD 1 0 + 8 * levelIndex e.level va, 8))

/-- The line uses of looking up the page of an address that the cluster's caches do not cover. -/
def State.walkUses (s : State) (cl ctx va : Nat) : List (Nat × LineUse) :=
  match mget s.ctxs ctx with
  | none => []
  | some c =>
    let page := va / 4096 * 4096
    if (s.cachedHit cl ctx page).isSome then []
    else (s.tableSpans ctx c page).flatMap (fun x => usesOf x.1 x.2 (fun _ => .read 1))

/-- The line uses of looking up the pages that n bytes lie in. -/
def State.areaWalks (s : State) (cl ctx va n : Nat) : List (Nat × LineUse) :=
  if n = 0 then []
  else (rangeFrom (va / 4096) ((va + n - 1) / 4096 + 1 - va / 4096)).flatMap (fun p => s.walkUses cl ctx (4096 * p))

/-- The line uses of an area's bytes, and of the tables that map them, as the device's own units read them. -/
def State.areaUses (s : State) (cl ctx va n : Nat) : List (Nat × LineUse) :=
  match s.hwSpans cl ctx .hwRead (pagesOf n) va n with
  | .error _ => []
  | .ok spans => s.areaWalks cl ctx va n ++ spans.flatMap (fun x => usesOf x.1 x.2.1 (fun _ => .read x.2.2))

/-- A hardware read of a per-context area, with the lines it moves (05 R98). -/
def State.readArea (s : State) (cl ctx va n : Nat) : Except (Nat × Nat) (List Byte × State) :=
  (s.hwRead cl ctx va n).map (fun b => (b, s.charge (s.areaUses cl ctx va n)))

/-- Writes bytes over spans in turn, with the lines this moves. -/
def State.storeSpans (s : State) : List (Nat × Nat × Nat) → List Byte → State
  | [], _ => s
  | (pa, n, ca) :: t, bs => ((s.chargeWrite pa n ca).store pa (bs.take n)).storeSpans t (bs.drop n)

/-- A hardware write of a per-context area (01 R11): nothing is written if any page fails. -/
def State.hwWrite (s : State) (cl ctx va : Nat) (bs : List Byte) : Except (Nat × Nat) State :=
  match s.hwSpans cl ctx .hwWrite (pagesOf bs.length) va bs.length with
  | .error e => .error e
  | .ok spans => .ok ((s.charge (s.areaWalks cl ctx va bs.length)).storeSpans spans bs)

/-- The valid entries of a context's range table. -/
def State.rangeCopies (s : State) (ctx : Nat) (c : Ctx) : List TableCopy :=
  (rangeFrom 0 64).filterMap (fun i =>
    let a := c.range + 32 * i
    if (s.tableReadCause c.part a 32).isSome || !tbit (memNat s.mem a 8) 0 then none
    else some { ctx := ctx, level := 4, index := i, words := (rangeFrom 0 4).map (fun k => memNat s.mem (a + 8 * k) 8) })

/-- Copies added to those a cluster keeps; one it has stays as it is. -/
def addCopies (old new : List TableCopy) : List TableCopy :=
  old ++ new.filter (fun e => !old.any (fun f => f.ctx == e.ctx && f.level == e.level && f.index == e.index))

/-- Adds a used translation and the table entries it came from to the cluster's caches (02 R39). The translation covers the
page. The lines of the entries read move at their homes (05 R98). -/
def State.cacheUse (s : State) (cl ctx va : Nat) : State :=
  match mget s.ctxs ctx with
  | none => s
  | some c =>
    let page := va / 4096 * 4096
    if (s.cachedHit cl ctx page).isSome then s
    else
      let range := s.rangeLookup c.part c.range page (fun _ _ => none) 64 0
      match range.getD (s.walkFrom c.part page (fun _ _ => none) 3 c.root) with
      | .ok (pa, attr) =>
        let k := s.cluster cl
        let e : Cached := { ctx := ctx, lo := page, hi := page + 4095, pa := pa, attr := attr, range := range.isSome }
        let walk := if range.isSome then [] else s.walkCopies ctx c.part page 3 c.root
        let s := s.charge (s.walkUses cl ctx page)
        s.setCluster cl
          { k with tcache := k.tcache ++ [e], tables := addCopies k.tables (s.rangeCopies ctx c ++ walk) }
      | .error _ => s

end Sys2Proof.Machine
end

