-- ==== Sys2Proof/Machine/Faults.lean ====
section
/-!
DEFINITION. Posting to the host, the fault queue, asynchronous fault records and the fault log (02 R37, R38; 08 R141; 25
R346, R354).
-/
namespace Sys2Proof.Machine

/-- The physical function among the functions that HostOut names (DESIGN CHOICE, log 73). -/
def physicalFn : Nat := 16

def State.post (s : State) (o : HostOut) : State := { s with hostOut := s.hostOut ++ [o] }

/-- Bus addresses the device reaches on a link end here (01 R25). -/
def busLimit : Nat := 2 ^ 49

/-- Posts a write of a function on a link. Bytes at bus addresses that the device does not reach go nowhere (DEDUCED, log
87). -/
def State.postWrite (s : State) (fn link addr : Nat) (bs : List Byte) : State :=
  if addr + bs.length ≤ busLimit then s.post (.write fn link addr bs) else s

/-- Raises an MSI-X vector of a partition's function; the physical function's vectors report for every partition (25
R346). -/
def State.postMsix (s : State) (p vec : Nat) : State := (s.post (.msix p vec)).post (.msix physicalFn vec)

/-- Base of a link's host window in the physical map (01 R13). -/
def linkBase (link : Nat) : Nat := if link = 0 then hostBase0 else hostBase1

/-- A fault-queue entry (25 R354). -/
def fqEntry (kind ctx cluster slot cause vaddr iaddr seq : Nat) : List Byte :=
  natToBytes 2 kind ++ natToBytes 2 ctx ++ natToBytes 1 cluster ++ natToBytes 1 slot ++ natToBytes 1 cause ++
    natToBytes 1 0 ++ natToBytes 8 vaddr ++ natToBytes 8 iaddr ++ natToBytes 8 seq ++ natToBytes 32 0

/-- The fault queue of a partition has room for an entry. -/
def Part.fqRoom (p : Part) : Bool :=
  decide (4 ≤ p.fqLog2n) && decide (p.fqLog2n ≤ 16) &&
    decide ((p.fqProd + 2 ^ 32 - p.fqCons) % 2 ^ 32 < 2 ^ p.fqLog2n)

/-- Writes an entry where there is room. -/
def State.fqWrite (s : State) (part : Nat) (p : Part) (e : List Byte) : State :=
  let addr := p.fqRing + p.fqProd % 2 ^ p.fqLog2n * 64
  let s := s.postWrite part p.fqLink addr e
  let s := { s with parts := mset s.parts part { p with fqProd := (p.fqProd + 1) % 2 ^ 32 } }
  s.postMsix part 0

/-- Posts an entry of kind 3, 4 or 5: dropped and counted when the ring is full (25 R354). -/
def State.postFault (s : State) (part : Nat) (e : List Byte) : State :=
  match mget s.parts part with
  | none => s
  | some p =>
    if p.fqRoom then s.fqWrite part p e
    else { s with parts := mset s.parts part { p with fqLost := min (p.fqLost + 1) (2 ^ 32 - 1) } }

/-- Posts an entry of kind 1 or 2: never dropped; the cluster retries it when CONS advances (25 R354). -/
def State.postFaultKept (s : State) (part cl : Nat) (e : List Byte) : State :=
  match mget s.parts part with
  | none => s
  | some p =>
    if p.fqRoom then s.fqWrite part p e
    else
      let k := s.cluster cl
      s.setCluster cl { k with unposted := k.unposted ++ [e] }

/-- The 64 bytes of an asynchronous fault record (02 R37). -/
def JobRec.bytes (r : JobRec) (dlv : Bool) : List Byte :=
  let w2 := r.ctx * 2 ^ 48 + r.wave * 2 ^ 32 + r.cluster * 2 ^ 24 + r.sem * 2 ^ 16 + r.access * 2 ^ 12 +
    r.job * 2 ^ 8 + r.cause
  natToBytes 8 r.vaddr ++ natToBytes 8 r.progress ++ natToBytes 8 w2 ++ natToBytes 8 r.iaddr ++
    natToBytes 8 r.seq ++ natToBytes 8 ((if dlv then 2 ^ 63 else 0) + r.wgx) ++ natToBytes 16 0

/-- Takes the next fault sequence number of a context, from 1 (02 R37). -/
def State.nextSeq (s : State) (ctx : Nat) : Nat × State :=
  match mget s.ctxs ctx with
  | some c => (c.seq + 1, { s with ctxs := mset s.ctxs ctx { c with seq := c.seq + 1 } })
  | none => (1, s)

/-- Marks a context fault-pending (08 R141). -/
def State.markPending (s : State) (ctx : Nat) : State :=
  { s with ctxs := mupd s.ctxs ctx (fun c => { c with faultPending := true }) }

/-- The entry of kind 3 for a record, and the interrupt (08 R141, 25 R354). -/
def State.notifyRecord (s : State) (r : JobRec) (cause : Nat) : State :=
  let s := s.markPending r.ctx
  s.postFault (s.partOfCtx r.ctx) (fqEntry 3 r.ctx r.cluster 0 cause r.vaddr r.iaddr r.seq)

/-- The wave a record names, if it is resident: its row (02 R37). -/
def State.rowOfRecord (s : State) (r : JobRec) : Option Nat :=
  ((s.cluster r.cluster).waves.find? (fun x =>
    x.2.ctx == r.ctx && x.2.wgx == r.wgx && x.2.wnum == r.wave % 16)).map Prod.fst

/-- Where LOSTFLT of a wave slot lies in a context's image (08 R131, 11 R195). -/
def State.lostAddr (s : State) (cl ctx row : Nat) : Nat :=
  ((mget s.ctxs ctx).map Ctx.bwBase).getD 0 + s.clusterIndex cl * 0x2800000 + 0x1100000 + 2048 * row + 0x54C

/-- Sets LOSTFLT in the state of the wave a record names, resident or away (08 R141). -/
def State.setLost (s : State) (r : JobRec) : State :=
  let k := s.cluster r.cluster
  let f (w : Wave) : Wave := { w with lostFlt := true }
  let hit (w : Wave) : Bool := w.ctx == r.ctx && w.wgx == r.wgx && w.wnum == r.wave % 16
  let waves := k.waves.map (fun x => (x.1, if hit x.2 then f x.2 else x.2))
  let away := k.away.map (fun x =>
    (x.1, { x.2 with waves := x.2.waves.map (fun y => (y.1, if hit y.2 then f y.2 else y.2)) }))
  let rows := k.away.flatMap (fun x => (x.2.waves.filter (fun y => hit y.2)).map Prod.fst)
  rows.foldl (fun s row =>
    match s.hwWrite r.cluster r.ctx (s.lostAddr r.cluster r.ctx row) [1] with
    | .ok s' => s'
    | .error _ => s) (s.setCluster r.cluster { k with waves := waves, away := away })

/-- The workgroup a record names still lives, resident or away (08 R141). -/
def State.recordAlive (s : State) (r : JobRec) : Bool :=
  let k := s.cluster r.cluster
  k.wgs.any (fun x => x.2.ctx == r.ctx && x.2.wgx == r.wgx) ||
    k.away.any (fun x => x.2.wg.ctx == r.ctx && x.2.wg.wgx == r.wgx)

/-- A fault-log header (08 R141). -/
structure LogHeader where
  records : Nat
  log2n : Nat
  write : Nat
  free : Nat
  lost : Nat
  deriving DecidableEq, Repr

/-- Reads a fault-log header: the header, or a cause. -/
def State.readLog (s : State) (cl ctx : Nat) : Except Nat LogHeader :=
  match mget s.ctxs ctx with
  | none => .error causeNotPresent
  | some c =>
    match s.hwRead cl ctx c.flog 64 with
    | .error e => .error e.1
    | .ok b =>
      let w0 := bytesToNat (b.take 8)
      let w1 := bytesToNat ((b.drop 8).take 8)
      let w2 := bytesToNat ((b.drop 16).take 8)
      let w3 := bytesToNat ((b.drop 24).take 8)
      let rest := bytesToNat (b.drop 32)
      if tbit w0 5 || decide (2 ^ 32 ≤ w1) || decide (2 ^ 32 ≤ w2) || decide (2 ^ 32 ≤ w3) || rest != 0 ||
          decide (w0 % 32 < 4) || decide (16 < w0 % 32) then .error causeMalformed
      else .ok { records := w0 / 64 * 64, log2n := w0 % 32, write := w1, free := w2, lost := w3 }

/-- Where record n of a log lies. -/
def LogHeader.recordAddr (h : LogHeader) (n : Nat) : Nat := h.records + n % 2 ^ h.log2n * 64

/-- A lost record: LOSTFLT, fault-pending, interrupt with the cause (08 R141). -/
def State.loseRecord (s : State) (r : JobRec) (cause : Nat) : State :=
  (if r.job = 6 then s else s.setLost r).notifyRecord r cause

/-- Appends a record to its context's fault log (08 R141). JOB 6 names no wave, so its DLV is set at once. -/
def State.appendRecord (s : State) (r : JobRec) : State :=
  match mget s.ctxs r.ctx with
  | none => s
  | some c =>
    match s.readLog r.cluster r.ctx with
    | .error cause => s.loseRecord r cause
    | .ok h =>
      let s := s.charge (s.areaUses r.cluster r.ctx c.flog 64)
      if 2 ^ h.log2n ≤ (h.write + 2 ^ 32 - h.free) % 2 ^ 32 then
        match s.hwWrite r.cluster r.ctx (c.flog + 24) (natToBytes 4 (min (h.lost + 1) (2 ^ 32 - 1))) with
        | .ok s' => s'.loseRecord r r.cause
        | .error e => s.loseRecord r e.1
      else
        let dlv := r.job == 6 || !s.recordAlive r
        match s.hwWrite r.cluster r.ctx (h.recordAddr h.write) (r.bytes dlv) with
        | .error e => s.loseRecord r e.1
        | .ok s1 =>
          match s1.hwWrite r.cluster r.ctx (c.flog + 8) (natToBytes 4 ((h.write + 1) % 2 ^ 32)) with
          | .error e => s.loseRecord r e.1
          | .ok s2 => s2.notifyRecord r r.cause

/-- A JOB 6 record of a failing per-context hardware access (02 R37, R38). The access code is 0 for a read and 3 for a
write. -/
def State.hwFault (s : State) (cl ctx cause vaddr access progress iaddr : Nat) : State :=
  let (q, s) := s.nextSeq ctx
  s.appendRecord { vaddr := vaddr, progress := progress, ctx := ctx, wave := 0, cluster := cl, sem := 0xFF,
                   access := access, job := 6, cause := cause, iaddr := iaddr, wgx := 0, seq := q }

/-- The record of the wave a log entry names: CTX, CLUSTER, WGX and WAVE (08 R142). -/
def recordNames (b : List Byte) (ctx cl wgx wnum : Nat) : Bool :=
  let w2 := bytesToNat ((b.drop 16).take 8)
  let w5 := bytesToNat ((b.drop 40).take 8)
  bits w2 59 48 == ctx && bits w2 31 24 == cl && bits w2 35 32 == wnum && bits w5 5 0 == wgx &&
    bits w2 11 8 != 6

/-- The undelivered record of a wave with the least SEQ (08 R142) from index i of the log, n records on: its address, SEQ
and bytes. -/
def State.findRecord (s : State) (cl ctx : Nat) (h : LogHeader) (wgx wnum dlvSeq : Nat) :
    Nat → Nat → Option (Nat × Nat × List Byte)
  | 0, _ => none
  | n + 1, i =>
    let later := s.findRecord cl ctx h wgx wnum dlvSeq n (i + 1)
    let a := h.recordAddr i
    match s.hwRead cl ctx a 64 with
    | .error _ => later
    | .ok b =>
      let seq := bytesToNat ((b.drop 32).take 8)
      if recordNames b ctx cl wgx wnum && decide (dlvSeq < seq) then
        match later with
        | some l => if l.2.1 < seq then some l else some (a, seq, b)
        | none => some (a, seq, b)
      else later

/-- Sets DLV of the log records of a workgroup that ends before delivery (08 R141): records from index i, n of them. -/
def State.settleRecords (s : State) (cl ctx wgx : Nat) (h : LogHeader) : Nat → Nat → State
  | 0, _ => s
  | n + 1, i =>
    let a := h.recordAddr i
    match s.readArea cl ctx a 64 with
    | .error _ => s.settleRecords cl ctx wgx h n (i + 1)
    | .ok (b, s) =>
      let w2 := bytesToNat ((b.drop 16).take 8)
      let w5 := bytesToNat ((b.drop 40).take 8)
      let hit := bits w2 59 48 == ctx && bits w2 31 24 == cl && bits w5 5 0 == wgx && !tbit w5 63
      let s := if hit then
          match s.hwWrite cl ctx (a + 40) (natToBytes 8 (w5 + 2 ^ 63)) with
          | .ok s' => s'
          | .error _ => s
        else s
      s.settleRecords cl ctx wgx h n (i + 1)

end Sys2Proof.Machine
end

