-- ==== Sys2Proof/Machine/Divert.lean ====
section
/-!
DEFINITION. The ingress of a cluster: diversion entries, the places of a context's Backwater image, where an access of a
context to a vault performs, and what a shadow access that fails leaves (08 R129 to R137).
-/
namespace Sys2Proof.Machine

/-- The context record of a context. -/
def State.ctxOf (s : State) (ctx : Nat) : Ctx := mgetD s.ctxs ctx { life := .idle, part := 0 }

/-! ### Places of the Backwater image (08 R131) -/

/-- The area of a context's Backwater image for a cluster. -/
def State.areaOf (s : State) (cl ctx : Nat) : Nat := (s.ctxOf ctx).bwBase + s.clusterIndex cl * 0x2800000

/-- Where the parts of a save area lie, from its base (08 R131; DEDUCED, log 15). -/
def vaultAreaOff : Nat := 0
def stateAreaOff : Nat := 0x1100000
def queueAreaOff : Nat := 0x1120000
def planeAreaOff : Nat := 0x1130000
def travAreaOff : Nat := 0x1180000
def tilesAreaOff : Nat := 0x1200000
def semsAreaOff : Nat := 0x1200800
def wakeAreaOff : Nat := 0x1200C00
def holdAreaOff : Nat := 0x1400000

/-- The saved state of a wave slot. -/
def State.saveArea (s : State) (cl ctx row : Nat) : Nat := s.areaOf cl ctx + stateAreaOff + 2048 * row

/-- Where entry i of queue n of a workgroup lies in the queue memory image. -/
def Wg.queueOff (g : Wg) (n i : Nat) : Nat :=
  8 * (g.qLo + ((g.queues.take n).map WaveQueue.depth).foldl (· + ·) 0 + i)

/-! ### Diversion entries (08 R129, R130, R133) -/

/-- The diversion entry of a cluster that p holds for (08 R133). -/
def State.divEntry (s : State) (cl : Nat) (p : DivEntry → Bool) : Option DivEntry :=
  ((s.cluster cl).div.find? (fun e => p e.2)).map Prod.snd

/-- The entry of a context's semaphore file. -/
def State.semsEntry (s : State) (cl ctx : Nat) : Option DivEntry :=
  s.divEntry cl (fun e => e.kind == .sems && e.ctx == ctx)

/-- The entry of a kind that a workgroup of a context holds. -/
def State.wgEntry (s : State) (cl ctx wgslot : Nat) (kind : DivKind) : Option DivEntry :=
  s.divEntry cl (fun e => e.kind == kind && e.ctx == ctx && e.wgslot == wgslot)

/-- The VAULT entry of a cluster that catches bytes at an offset of its vault for a context. -/
def State.vaultEntry (s : State) (cl ctx off : Nat) : Option DivEntry :=
  s.divEntry cl (fun e => e.kind == .vault && e.ctx == ctx && decide (e.lo ≤ off / 4096) && decide (off / 4096 ≤ e.lo + e.n))

/-- The code of a diversion entry's STATE and KIND (08 R129, R130). -/
def DivState.code : DivState → Nat
  | .evicting => 1
  | .active => 2
  | .merging => 3
def DivKind.code : DivKind → Nat
  | .vault => 0
  | .sems => 1
  | .tiles => 2
  | .regs => 3
  | .trav => 4
  | .plane => 5

/-- The 128 bits of a diversion entry (08 R130). -/
def DivEntry.word (e : DivEntry) : Nat :=
  e.shadow / 64 % 2 ^ 58 * 2 ^ 70 + e.state.code * 2 ^ 62 + e.kind.code * 2 ^ 59 + e.ctx % 4096 * 2 ^ 47 +
    (if e.kind = .sems then 0 else e.wgslot % 64) * 2 ^ 41 + e.lo % 4096 * 2 ^ 29 + e.n % 4096 * 2 ^ 17

/-- The entry that 128 bits hold; none where it is FREE. -/
def divOfWord (w : Nat) : Option DivEntry :=
  let state : Option DivState :=
    match bits w 63 62 with
    | 1 => some .evicting
    | 2 => some .active
    | 3 => some .merging
    | _ => none
  let kind : DivKind :=
    match bits w 61 59 with
    | 0 => .vault
    | 1 => .sems
    | 2 => .tiles
    | 3 => .regs
    | 4 => .trav
    | _ => .plane
  state.map (fun st =>
    { state := st, kind := kind, ctx := bits w 58 47, wgslot := bits w 46 41, lo := bits w 40 29, n := bits w 28 17
      shadow := bits w 127 70 * 64 })

/-- The key of a workgroup that is away (08 R140: context and slot name at most one on a cluster). -/
def awayKey (ctx slot : Nat) : Nat := 64 * ctx + slot

/-- The workgroup of a context with a backing index that is away from its cluster. -/
def State.awayOf (s : State) (cl ctx wgx : Nat) : Option (Nat × Away) :=
  (s.cluster cl).away.find? (fun a => a.2.wg.ctx == ctx && a.2.wg.wgx == wgx)

def State.updAway (s : State) (cl id : Nat) (f : Away → Away) : State :=
  let k := s.cluster cl
  s.setCluster cl { k with away := mupd k.away id f }

/-- Changes the entries of a diversion table that p holds for. -/
def State.updDiv (s : State) (cl : Nat) (p : DivEntry → Bool) (f : DivEntry → DivEntry) : State :=
  let k := s.cluster cl
  s.setCluster cl { k with div := k.div.map (fun e => (e.1, if p e.2 then f e.2 else e.2)) }

/-- An access to a shadow failed: a JOB 6 record, and the workgroup is lost when it would resume (08 R134). -/
def State.shadowFail (s : State) (cl ctx wgx : Nat) (e : Nat × Nat) (access : Nat) : State :=
  let s := match s.awayOf cl ctx wgx with
    | some a => s.updAway cl a.1 (fun a => { a with broken := true })
    | none => s
  s.hwFault cl ctx e.1 e.2 access 0 0

/-- An access to the shadow of a diversion entry failed: its workgroup, away or on its way, is lost (08 R134). -/
def State.entryFail (s : State) (cl : Nat) (e : DivEntry) (f : Nat × Nat) (access : Nat) : State :=
  let s := s.updDiv cl (fun x => x.kind == .regs && x.ctx == e.ctx && x.wgslot == e.wgslot) (fun x => { x with failed := true })
  let wgx := ((mget (s.cluster cl).away (awayKey e.ctx e.wgslot)).map (fun a => a.wg.wgx)).getD 64
  s.shadowFail cl e.ctx wgx f access

/-! ### Accesses to a vault (08 R133, R134, R137) -/

/-- Where a granule of a VAULT entry's range stands: in the vault, on its way out, or on the shadow (08 R137). -/
inductive GranuleAt where
  | chip | moving | shadow
  deriving DecidableEq, Repr

def DivEntry.granule (e : DivEntry) (g : Nat) : GranuleAt :=
  match e.state with
  | .active => .shadow
  | .merging => .moving
  | .evicting => if e.lo + e.issued ≤ g then .chip else if e.out.contains g then .moving else .shadow

/-- The shadow of a vault offset under an entry: its virtual address. -/
def DivEntry.vaultShadow (e : DivEntry) (off : Nat) : Nat := e.shadow + (off - 4096 * e.lo)

/-- Where an access of a context to physical bytes performs: in device memory; nowhere yet, since the ingress holds it; or
nowhere at all, since its shadow failed. -/
inductive Landing where
  | at (pa : Nat)
  | held (cl : Nat)
  | lost (cl : Nat) (e : DivEntry) (cause va : Nat)
  deriving DecidableEq, Repr

/-- Finds that place for n bytes of one granule. reads says that their old value matters, so that a data error of the
shadow counts; write, that they are written (DESIGN CHOICE, log 83). -/
def State.landing (s : State) (ctx pa n : Nat) (reads write : Bool) : Landing :=
  match region pa with
  | .vault cl =>
    let off := (pa - vaultBase) % vaultBytes
    match s.vaultEntry cl ctx off with
    | none => .at pa
    | some e =>
      match e.granule (off / 4096) with
      | .chip => .at pa
      | .moving => .held cl
      | .shadow =>
        match s.translateHw cl ctx (e.vaultShadow off) (if write then .hwWrite else .hwRead) with
        | .error c => .lost cl e c (e.vaultShadow off)
        | .ok (spa, _) => if reads && s.poisoned spa n then .lost cl e causeDataError (e.vaultShadow off) else .at spa
  | _ => .at pa

/-- What reading device memory for a context finds: bytes, a data error, or that the ingress holds the read. -/
inductive Read where
  | bytes (bs : List Byte) (s : State)
  | poison
  | held (cl : Nat) (s : State)

/-- Reads n bytes of one granule for a context at their place. A read whose shadow fails gives zeros (08 R134). -/
def State.readFor (s : State) (ctx pa n : Nat) : Read :=
  match s.landing ctx pa n true false with
  | .at a => if s.poisoned a n then .poison else .bytes (memRead s.mem a n) s
  | .held cl => .held cl s
  | .lost cl e c va => .bytes (natToBytes n 0) (s.entryFail cl e (c, va) 0)

/-! ### Arrivals held at the ingress (08 R135) -/

/-- Bytes of an arrival: its flits (05 R84), or 64 for one that comes over the lateral network or as a piece (DESIGN
CHOICE, log 84). -/
def State.arrivalBytes (s : State) (id : Nat) : Nat :=
  match mget s.packets id with
  | some p => 64 * p.flits
  | none => 64

/-- The context whose entry catches an arrival on a cluster. -/
def State.arrivalCtx (s : State) (id : Nat) : Nat :=
  match mget s.packets id with
  | some p => p.ctx
  | none =>
    match mget s.laterals id with
    | some a => a.tag.ctx
    | none =>
      match mget s.traversals id with
      | some t => t.tag.ctx
      | none => (s.clusters.findSome? (fun k => mget k.2.heldThings id)).elim 0 HeldThing.ctx

/-- Notes an arrival that past 64 KiB of held ones goes to the hold log of the area: its bytes there have no layout and are
free values (DESIGN CHOICE, log 84). -/
def State.logHeld (s : State) (cl ctx id : Nat) : State :=
  let before := ((s.cluster cl).held.map s.arrivalBytes).foldl (· + ·) 0
  let n := s.arrivalBytes id
  if before + n ≤ 0x10000 then s
  else
    let (x, s) := s.takeFree
    match s.hwWrite cl ctx (s.areaOf cl ctx + holdAreaOff + (before - min before 0x10000)) (natToBytes n x) with
    | .ok s' => s'
    | .error e => s.hwFault cl ctx e.1 e.2 3 0 0

/-- The ingress of a cluster holds an arrival, in order of arrival (08 R135). -/
def State.holdArrival (s : State) (cl id : Nat) : State :=
  if (s.cluster cl).held.contains id then s
  else
    let s := s.logHeld cl (s.arrivalCtx id) id
    let k := s.cluster cl
    s.setCluster cl { k with held := k.held ++ [id] }

/-- Some cluster's ingress holds a thing that has no identifier of its own. -/
def State.thingHeld (s : State) (x : HeldWhat) : Bool := s.clusters.any (fun k => k.2.heldThings.any (fun h => h.2.what == x))

/-- The ingress of a cluster holds such a thing for a context. -/
def State.holdThing (s : State) (cl ctx : Nat) (x : HeldWhat) : State :=
  if s.thingHeld x then s
  else
    let (id, s) := s.newId
    let k := s.cluster cl
    (s.setCluster cl { k with heldThings := mset k.heldThings id { ctx := ctx, what := x } }).holdArrival cl id

/-- Some cluster holds an arrival. -/
def State.isHeld (s : State) (id : Nat) : Bool := s.clusters.any (fun k => k.2.held.contains id)

end Sys2Proof.Machine
end

