-- ==== Sys2Proof/Machine/Float.lean ====
section
/-!
DEFINITION. Number formats and floating-point arithmetic (09 R144 to R158, 15 R257 to R262, 20 R122, 22 R322, R323).
A finite value is held exactly, as a signed integer times a power of two; an operation computes exactly and rounds once.
-/
namespace Sys2Proof.Machine

/-- Exception flags (09 R158): bit 4 NV, 3 DZ, 2 OF, 1 UF, 0 NX. -/
abbrev FFlags := BitVec 5
def flNV : FFlags := 16
def flDZ : FFlags := 8
def flOF : FFlags := 4
def flUF : FFlags := 2
def flNX : FFlags := 1

/-- A decoded value: fin neg m e is (−1)^neg · m · 2^e. -/
inductive FVal where
  | nan (signalling : Bool)
  | inf (neg : Bool)
  | fin (neg : Bool) (m : Nat) (e : Int)
  deriving DecidableEq, Repr

/-- A floating-point format: trailing bits, exponent bits, least normal exponent, and which special codes it has. -/
structure FFormat where
  t : Nat
  w : Nat
  emin : Int
  hasInf : Bool
  unsigned : Bool
  small : Bool
  deriving DecidableEq, Repr

def fmtF32 : FFormat := { t := 23, w := 8, emin := -126, hasInf := true, unsigned := false, small := false }
def fmtF64 : FFormat := { t := 52, w := 11, emin := -1022, hasInf := true, unsigned := false, small := false }
def fmtF16 : FFormat := { t := 10, w := 5, emin := -14, hasInf := true, unsigned := false, small := false }
def fmtBF16 : FFormat := { t := 7, w := 8, emin := -126, hasInf := true, unsigned := false, small := false }

/-- A binary8 format of precision p (09 R148). -/
def fmtB8 (p : Nat) (unsigned inf : Bool) : FFormat :=
  let w := if unsigned then 9 - p else 8 - p
  { t := p - 1, w := w, emin := 1 - (2 : Int) ^ (w - 1), hasInf := inf, unsigned := unsigned, small := true }

/-- Decode8 (09 R148). -/
def decode8 (f : FFormat) (code : Nat) : FVal :=
  let neg := !f.unsigned && tbit code 7
  let body := if f.unsigned then code else code % 128
  if f.unsigned && code == 0xFF then .nan false
  else if f.unsigned && f.hasInf && code == 0xFE then .inf false
  else if !f.unsigned && code == 0x80 then .nan false
  else if !f.unsigned && f.hasInf && body == 0x7F then .inf neg
  else
    let e := body >>> f.t
    let m := body % 2 ^ f.t
    if e = 0 then .fin neg m (f.emin - f.t) else .fin neg (2 ^ f.t + m) ((e : Int) - 1 + f.emin - f.t)

/-- The value of a code of an IEEE-like format (09 R145, R146). -/
def decodeIeee (f : FFormat) (code : Nat) : FVal :=
  let m := code % 2 ^ f.t
  let e := code / 2 ^ f.t % 2 ^ f.w
  let neg := tbit code (f.t + f.w)
  if e = 2 ^ f.w - 1 then (if m = 0 then .inf neg else .nan (!tbit m (f.t - 1)))
  else if e = 0 then .fin neg m (f.emin - f.t)
  else .fin neg (2 ^ f.t + m) ((e : Int) - 1 + f.emin - f.t)

/-- The value of a code. -/
def fdecode (f : FFormat) (code : Nat) : FVal := if f.small then decode8 f code else decodeIeee f code

/-- The canonical NaN of a format (09 R147). -/
def canonNaN (f : FFormat) : Nat :=
  if f.small then (if f.unsigned then 0xFF else 0x80)
  else (2 ^ f.w - 1) * 2 ^ f.t + 2 ^ (f.t - 1)

/-- The code of a signed zero; a binary8 zero has one code. -/
def zeroCode (f : FFormat) (neg : Bool) : Nat := if f.small then 0 else if neg then 2 ^ (f.t + f.w) else 0

/-- The code of a signed infinity of a format that has them. -/
def infCode (f : FFormat) (neg : Bool) : Nat :=
  if f.small then (if f.unsigned then 0xFE else if neg then 0xFF else 0x7F)
  else (if neg then 2 ^ (f.t + f.w) else 0) + (2 ^ f.w - 1) * 2 ^ f.t

/-- The code of the largest finite value with a sign. -/
def maxCode (f : FFormat) (neg : Bool) : Nat :=
  if f.small then
    (if f.unsigned then (if f.hasInf then 0xFD else 0xFE)
     else (if f.hasInf then 0x7E else 0x7F) + (if neg then 0x80 else 0))
  else (if neg then 2 ^ (f.t + f.w) else 0) + (2 ^ f.w - 1) * 2 ^ f.t - 1

/-- m · 2^e as an integer at a lower exponent. -/
def scaleTo (m : Nat) (e lo : Int) : Nat := m <<< (e - lo).toNat

/-- Compares m1 · 2^e1 < m2 · 2^e2. -/
def magLt (m1 : Nat) (e1 : Int) (m2 : Nat) (e2 : Int) : Bool :=
  decide (scaleTo m1 e1 (min e1 e2) < scaleTo m2 e2 (min e1 e2))

/-- RoundInt of m / 2^d with a sign (09 R155): the rounded magnitude, and whether it differs. -/
def roundShift (neg : Bool) (rm : Rnd) (m d : Nat) : Nat × Bool :=
  let q := m >>> d
  let r := m % 2 ^ d
  if r = 0 then (q, false)
  else
    let up := match rm with
      | .rne => decide (2 ^ d < 2 * r) || (2 * r == 2 ^ d && q % 2 == 1)
      | .rz => false
      | .ru => !neg
      | .rd => neg
    (if up then q + 1 else q, true)

/-- RoundInt of m · 2^e to a multiple of 2^q: the multiple, and whether it differs. -/
def roundAt (neg : Bool) (rm : Rnd) (m : Nat) (e q : Int) : Nat × Bool :=
  if q ≤ e then (m <<< (e - q).toNat, false) else roundShift neg rm m (q - e).toNat

/-- Encodes y · 2^q, already a value of the format (09 R155). -/
def encodeFin (f : FFormat) (neg : Bool) (y : Nat) (q : Int) : Nat :=
  let sign := if neg then 2 ^ (f.t + f.w) else 0
  if y < 2 ^ f.t then sign + y
  else
    let y' := if y = 2 ^ (f.t + 1) then 2 ^ f.t else y
    let q' := if y = 2 ^ (f.t + 1) then q + 1 else q
    sign + (q' + f.t - f.emin + 1).toNat * 2 ^ f.t + (y' - 2 ^ f.t)

/-- Convert of a finite nonzero value (09 R155). -/
def convertFin (f : FFormat) (rm : Rnd) (sat : Bool) (neg : Bool) (m : Nat) (e : Int) : Nat × FFlags :=
  let k : Int := (Nat.log2 m : Int) + e
  let yu := (roundAt neg rm m e (k - f.t)).1
  let q : Int := max k f.emin - f.t
  let (y, nx) := roundAt neg rm m e q
  let uf := nx && magLt yu (k - f.t) 1 f.emin
  let fl : FFlags := (if nx then flNX else 0) ||| (if uf then flUF else 0)
  let top := match fdecode f (maxCode f false) with
    | .fin _ mm me => (mm, me)
    | _ => (0, 0)
  if f.unsigned && neg then
    (if y = 0 then (0, fl) else if sat then (0, fl) else (canonNaN f, fl ||| flNV))
  else if magLt top.1 top.2 yu (k - f.t) then
    let toInf := match rm with
      | .rne => true
      | .rz => false
      | .ru => !neg
      | .rd => neg
    let fl := flOF ||| flNX
    if sat || !toInf then (maxCode f neg, fl)
    else if f.hasInf then (infCode f neg, fl)
    else (canonNaN f, fl)
  else if y = 0 then (zeroCode f neg, fl)
  else (encodeFin f neg y q, fl)

/-- Convert (09 R155). -/
def fconvert (f : FFormat) (rm : Rnd) (sat : Bool) : FVal → Nat × FFlags
  | .nan sg => (canonNaN f, if sg then flNV else 0)
  | .inf neg =>
    if f.unsigned && neg then (if sat then (0, 0) else (canonNaN f, flNV))
    else if f.hasInf then (infCode f neg, 0)
    else if sat then (maxCode f neg, 0)
    else (canonNaN f, flNV)
  | .fin neg m e => if m = 0 then (zeroCode f neg, 0) else convertFin f rm sat neg m e

/-- Rounds a value to a format and reads it back. -/
def fround (f : FFormat) (rm : Rnd) (x : FVal) : FVal × FFlags :=
  let (c, fl) := fconvert f rm false x
  (fdecode f c, fl)

def FVal.neg? : FVal → Bool
  | .nan _ => false
  | .inf n => n
  | .fin n _ _ => n

def FVal.isNaN : FVal → Bool
  | .nan _ => true
  | _ => false

def FVal.isSNaN : FVal → Bool
  | .nan sg => sg
  | _ => false

def FVal.isZero : FVal → Bool
  | .fin _ m _ => m == 0
  | _ => false

def FVal.negate : FVal → FVal
  | .nan sg => .nan sg
  | .inf n => .inf (!n)
  | .fin n m e => .fin (!n) m e

/-- A quiet NaN that an invalid operation gives. -/
def qNaN : FVal := .nan false

/-- The signed integer a finite value is at an exponent not above its own. -/
def finInt (neg : Bool) (m : Nat) (e lo : Int) : Int :=
  if neg then -(scaleTo m e lo : Int) else (scaleTo m e lo : Int)

/-- The exact sum of two values, with the zero-sign rule of 15 R257. -/
def exactAdd (rm : Rnd) : FVal → FVal → FVal × FFlags
  | .nan a, .nan b => (qNaN, if a || b then flNV else 0)
  | .nan a, _ => (qNaN, if a then flNV else 0)
  | _, .nan b => (qNaN, if b then flNV else 0)
  | .inf a, .inf b => if a = b then (.inf a, 0) else (qNaN, flNV)
  | .inf a, .fin _ _ _ => (.inf a, 0)
  | .fin _ _ _, .inf b => (.inf b, 0)
  | .fin n1 m1 e1, .fin n2 m2 e2 =>
    let lo := min e1 e2
    let z := finInt n1 m1 e1 lo + finInt n2 m2 e2 lo
    if z = 0 then
      (if m1 = 0 ∧ m2 = 0 ∧ n1 = n2 then (.fin n1 0 lo, 0) else (.fin (rm == .rd) 0 lo, 0))
    else (.fin (decide (z < 0)) z.natAbs lo, 0)

/-- The exact product. -/
def exactMul : FVal → FVal → FVal × FFlags
  | .nan a, .nan b => (qNaN, if a || b then flNV else 0)
  | .nan a, _ => (qNaN, if a then flNV else 0)
  | _, .nan b => (qNaN, if b then flNV else 0)
  | .inf a, .inf b => (.inf (a != b), 0)
  | .inf a, .fin n m _ => if m = 0 then (qNaN, flNV) else (.inf (a != n), 0)
  | .fin n m _, .inf b => if m = 0 then (qNaN, flNV) else (.inf (n != b), 0)
  | .fin n1 m1 e1, .fin n2 m2 e2 => (.fin (n1 != n2) (m1 * m2) (e1 + e2), 0)

/-- a × b + c before rounding; ∞ × 0 is invalid whatever c is (15 R257). -/
def exactFma (rm : Rnd) (a b c : FVal) : FVal × FFlags :=
  let (p, f1) := exactMul a b
  if p.isNaN then (qNaN, f1 ||| (if c.isSNaN then flNV else 0))
  else exactAdd rm p c

/-- A quotient with enough bits and a sticky bit that any rounding here is correct. -/
def exactDiv : FVal → FVal → FVal × FFlags
  | .nan a, .nan b => (qNaN, if a || b then flNV else 0)
  | .nan a, _ => (qNaN, if a then flNV else 0)
  | _, .nan b => (qNaN, if b then flNV else 0)
  | .inf _, .inf _ => (qNaN, flNV)
  | .inf a, .fin n _ _ => (.inf (a != n), 0)
  | .fin n _ _, .inf b => (.fin (n != b) 0 0, 0)
  | .fin n1 m1 e1, .fin n2 m2 e2 =>
    if m2 = 0 then (if m1 = 0 then (qNaN, flNV) else (.inf (n1 != n2), flDZ))
    else
      let num := m1 <<< 160
      let q := num / m2
      (.fin (n1 != n2) (2 * q + (if num % m2 = 0 then 0 else 1)) (e1 - e2 - 161), 0)

/-- Integer square root, bit by bit from bit n down. -/
def isqrtFrom (x : Nat) : Nat → Nat → Nat
  | 0, r => r
  | n + 1, r =>
    let r' := r + 2 ^ n
    isqrtFrom x n (if r' * r' ≤ x then r' else r)

def isqrt (x : Nat) : Nat := isqrtFrom x (Nat.log2 x / 2 + 1) 0

/-- A square root with a sticky bit (15 R257). -/
def exactSqrt : FVal → FVal × FFlags
  | .nan a => (qNaN, if a then flNV else 0)
  | .inf n => if n then (qNaN, flNV) else (.inf false, 0)
  | .fin n m e =>
    if m = 0 then (.fin n 0 e, 0)
    else if n then (qNaN, flNV)
    else
      let odd := e % 2 ≠ 0
      let x := (if odd then 2 * m else m) <<< 120
      let e' := if odd then e - 1 else e
      let r := isqrt x
      (.fin false (2 * r + (if r * r = x then 0 else 1)) (e' / 2 - 61), 0)

/-- 1/√a with a sticky bit, for a positive finite value. -/
def exactRsqrt (m : Nat) (e : Int) : FVal :=
  let odd := e % 2 ≠ 0
  let m' := if odd then 2 * m else m
  let e' := if odd then e - 1 else e
  let x := 2 ^ 240 / m'
  let r := isqrt x
  .fin false (2 * r + (if r * r * m' = 2 ^ 240 then 0 else 1)) (-(e' / 2) - 121)

/-- A value and flags rounded to binary32. -/
def f32of (rm : Rnd) (x : FVal × FFlags) : Word × FFlags :=
  let (c, fl) := fconvert fmtF32 rm false x.1
  (BitVec.ofNat 32 c, x.2 ||| fl)

/-- The value of a binary32 word. -/
def f32val (w : Word) : FVal := fdecode fmtF32 w.toNat

def nanF32 : Word := 0x7FC00000
def infF32 : Word := 0x7F800000

/-- FADD to FSQRT (15 R257). -/
def f32add (rm : Rnd) (a b : Word) : Word × FFlags := f32of rm (exactAdd rm (f32val a) (f32val b))
def f32sub (rm : Rnd) (a b : Word) : Word × FFlags := f32of rm (exactAdd rm (f32val a) (f32val b).negate)
def f32mul (rm : Rnd) (a b : Word) : Word × FFlags := f32of rm (exactMul (f32val a) (f32val b))
def f32fma (rm : Rnd) (a b c : Word) : Word × FFlags :=
  f32of rm (exactFma rm (f32val a) (f32val b) (f32val c))
def f32div (rm : Rnd) (a b : Word) : Word × FFlags := f32of rm (exactDiv (f32val a) (f32val b))
def f32sqrt (rm : Rnd) (a : Word) : Word × FFlags := f32of rm (exactSqrt (f32val a))

/-- a < b for values neither of which is a NaN, −0 and +0 equal. -/
def fvalLt : FVal → FVal → Bool
  | .nan _, _ => false
  | _, .nan _ => false
  | .inf a, .inf b => a && !b
  | .inf a, .fin _ _ _ => a
  | .fin _ _ _, .inf b => !b
  | .fin n1 m1 e1, .fin n2 m2 e2 =>
    let lo := min e1 e2
    decide (finInt n1 m1 e1 lo < finInt n2 m2 e2 lo)

/-- Equality of values, −0 and +0 equal. -/
def fvalEq : FVal → FVal → Bool
  | .nan _, _ => false
  | _, .nan _ => false
  | a, b => !fvalLt a b && !fvalLt b a

/-- FMIN and FMAX: minimumNumber and maximumNumber with −0 below +0 (15 R258). -/
def f32minmax (wantMax : Bool) (a b : Word) : Word × FFlags :=
  let x := f32val a
  let y := f32val b
  let fl : FFlags := if x.isSNaN || y.isSNaN then flNV else 0
  if x.isNaN && y.isNaN then (nanF32, fl)
  else if x.isNaN then (b, fl)
  else if y.isNaN then (a, fl)
  else
    let less := fvalLt x y || (x.isZero && y.isZero && x.neg? && !y.neg?)
    (if less != wantMax then a else b, fl)

/-- FCMP (15 R259): the result and NV. -/
def f32cmp (p : FloatPred) (a b : Word) : Bool × FFlags :=
  let x := f32val a
  let y := f32val b
  let un := x.isNaN || y.isNaN
  let sn : FFlags := if x.isSNaN || y.isSNaN then flNV else 0
  let an : FFlags := if un then flNV else 0
  match p with
  | .eq => (fvalEq x y, sn)
  | .ne => (!fvalEq x y, sn)
  | .lt => (fvalLt x y, an)
  | .le => (!un && !fvalLt y x, an)
  | .gt => (fvalLt y x, an)
  | .ge => (!un && !fvalLt x y, an)
  | .uo => (un, sn)
  | .ord => (!un, sn)

/-- FCLASS (15 R262). -/
def f32class (a : Word) : Word :=
  match f32val a with
  | .nan sg => if sg then 1 <<< 8 else 1 <<< 9
  | .inf n => if n then 1 else 1 <<< 7
  | .fin n m _ =>
    if m = 0 then (if n then 1 <<< 3 else 1 <<< 4)
    else if m < 2 ^ 23 then (if n then 1 <<< 2 else 1 <<< 5)
    else if n then 1 <<< 1 else 1 <<< 6

/-- FRND (15 R262): to an integral value, keeping the sign, never NX. -/
def f32rnd (rm : Rnd) (a : Word) : Word × FFlags :=
  match f32val a with
  | .nan sg => (nanF32, if sg then flNV else 0)
  | .inf _ => (a, 0)
  | .fin n m e =>
    if m = 0 || decide (0 ≤ e) then (a, 0)
    else
      let y := (roundAt n rm m e 0).1
      if y = 0 then (if n then 0x80000000 else 0, 0)
      else (BitVec.ofNat 32 (fconvert fmtF32 .rz false (.fin n y 0)).1, 0)

/-- FTZ after rounding to binary32 (09 R157). -/
def ftz (x : Word × FFlags) : Word × FFlags :=
  let m := x.1.toNat % 2 ^ 31
  if m ≠ 0 && decide (m < 2 ^ 23) then (x.1 &&& 0x80000000, x.2 ||| flUF ||| flNX) else x

/-- R(…) of 22 R322: an exact result rounded RNE and flushed. -/
def rFlush (x : FVal × FFlags) : Word × FFlags := ftz (f32of .rne x)

def planeAdd (a b : Word) : Word × FFlags := rFlush (exactAdd .rne (f32val a) (f32val b))
def planeSub (a b : Word) : Word × FFlags := rFlush (exactAdd .rne (f32val a) (f32val b).negate)
def planeMul (a b : Word) : Word × FFlags := rFlush (exactMul (f32val a) (f32val b))
def planeFma (a b c : Word) : Word × FFlags := rFlush (exactFma .rne (f32val a) (f32val b) (f32val c))
def planeRcp (a : Word) : Word × FFlags := rFlush (exactDiv (.fin false 1 0) (f32val a))

/-- Fixed-point bits of the exponential. -/
def expBits : Nat := 220

/-- ln 2 in fixed point: the sum of 1 / (k · 2^k). -/
def ln2From : Nat → Nat → Nat
  | 0, _ => 0
  | n + 1, k => 2 ^ expBits / (k * 2 ^ k) + ln2From n (k + 1)

def ln2Fixed : Nat := ln2From 224 1

/-- The sum of y^k / k! from a term on, in fixed point. -/
def expSeries (y : Nat) : Nat → Nat → Nat → Nat
  | 0, _, _ => 0
  | n + 1, k, term => term + expSeries y n (k + 1) (term * y / (2 ^ expBits * k))

/-- 2^f for f = F / 2^expBits in [0, 1), in fixed point. -/
def exp2Fixed (f : Nat) : Nat := expSeries (f * ln2Fixed / 2 ^ expBits) 64 1 (2 ^ expBits)

/-- 2^x of a finite value that is not an integer and lies within ±512, as a value with a sticky bit. -/
def exp2Fin (neg : Bool) (m : Nat) (e : Int) : FVal :=
  -- x = z / 2^expBits exactly, since a binary32 value has no bit below 2^−149
  let z : Int := if neg then -(scaleTo m e (-(expBits : Int)) : Int) else scaleTo m e (-(expBits : Int))
  let n : Int := z / (2 ^ expBits : Nat)
  let f : Nat := (z % (2 ^ expBits : Nat)).toNat
  if f = 0 then .fin false 1 n else .fin false (2 * exp2Fixed f + 1) (n - expBits - 1)

/-- 2^x exactly enough for any rounding (22 R322). -/
def exactExp2 : FVal → FVal × FFlags
  | .nan sg => (qNaN, if sg then flNV else 0)
  | .inf n => (if n then .fin false 0 0 else .inf false, 0)
  | .fin neg m e =>
    if m = 0 then (.fin false 1 0, 0)
    else if magLt m e 512 0 then (exp2Fin neg m e, 0)
    else if neg then (.fin false 1 (-4000), 0) else (.fin false 1 4000, 0)

/-- PEXP2 and the last step of PEVAL .expq: correctly rounded, flushed; OF and NX from 128 up (22 R322). -/
def planeExp2 (a : Word) : Word × FFlags := rFlush (exactExp2 (f32val a))

/-- The value a result is, rounded away from zero or toward it: the two neighbours of 15 R260. -/
def adjacent (up : Bool) (x : FVal) : Word × FFlags :=
  f32of (if up then (if x.neg? then .rd else .ru) else .rz) (x, 0)

/-- UF of 15 R260: a result that is not exact raises it where it is subnormal or zero, and only there. -/
def tinyFlag (r : Word × FFlags) : Word × FFlags :=
  (r.1, if r.2 &&& flNX ≠ 0 && decide (r.1.toNat % 2 ^ 31 < 2 ^ 23) then r.2 ||| flUF else r.2 &&& ~~~flUF)

/-- FRCP (15 R260): one of the two neighbours of 1/a. -/
def f32rcp (a : Word) : Word × FFlags :=
  match f32val a with
  | .nan sg => (nanF32, if sg then flNV else 0)
  | .inf n => (if n then 0x80000000 else 0, 0)
  | .fin n m e =>
    if m = 0 then (if n then 0xFF800000 else infF32, flDZ)
    else
      let q := (exactDiv (.fin false 1 0) (.fin n m e)).1
      match q with
      | .fin _ qm qe =>
        if !magLt qm qe 1 128 then (if n then 0xFF800000 else infF32, flOF ||| flNX)
        else tinyFlag (adjacent (Config.frcpUp a) q)
      | _ => (nanF32, 0)

/-- FRSQ (15 R260). -/
def f32rsq (a : Word) : Word × FFlags :=
  match f32val a with
  | .nan sg => (nanF32, if sg then flNV else 0)
  | .inf n => if n then (nanF32, flNV) else (0, 0)
  | .fin n m e =>
    if m = 0 then (if n then 0xFF800000 else infF32, flDZ)
    else if n then (nanF32, flNV)
    else tinyFlag (adjacent (Config.frsqUp a) (exactRsqrt m e))

/-- Whether a binary32 word is a finite value within a distance d · 2^q of a value. -/
def within (c : Word) (x : FVal) (d : Nat) (q : Int) : Bool :=
  match f32val c, x with
  | .fin n1 m1 e1, .fin n2 m2 e2 =>
    let lo := min (min e1 e2) q
    decide ((finInt n1 m1 e1 lo - finInt n2 m2 e2 lo).natAbs ≤ scaleTo d q lo)
  | _, _ => false

/-- The exponent of one unit in the last place of binary32 at a value. -/
def ulpExp : FVal → Int
  | .fin _ m e => if m = 0 then -149 else max ((Nat.log2 m : Int) + e) (-126) - 23
  | _ => 0

/-- A result within a bound of the exact one: the device's own where it lies within the bound, else the nearest; NX, and
UF when subnormal or zero (15 R260) (DESIGN CHOICE, log 5). -/
def bounded (c : Word) (x : FVal) (d : Nat) (q : Int) : Word × FFlags :=
  let r := if within c x d q then c else (f32of .rne (x, 0)).1
  (r, flNX ||| (if r.toNat % 2 ^ 31 < 2 ^ 23 then flUF else 0))

/-- FEXP2 (15 R260). -/
def f32exp2 (a : Word) : Word × FFlags :=
  match f32val a with
  | .nan sg => (nanF32, if sg then flNV else 0)
  | .inf n => (if n then 0 else infF32, 0)
  | .fin n m e =>
    if m = 0 then (0x3F800000, 0)
    else if !n && !magLt m e 128 0 then (infF32, flOF ||| flNX)
    else if n && !magLt m e 151 0 then (0, flUF ||| flNX)
    else match exp2Fin n m e with
      | .fin _ 1 k => if decide (-149 ≤ k) then (f32of .rne (.fin false 1 k, 0))
                      else bounded (Config.fexp2Value a) (.fin false 1 k) 2 (ulpExp (.fin false 1 k))
      | x => bounded (Config.fexp2Value a) x 2 (ulpExp x)

/-- n bits of log2 of x / 2^128 in [1, 2), most significant first. -/
def log2Bits : Nat → Nat → Nat → Nat
  | 0, _, acc => acc
  | n + 1, x, acc =>
    let y := x * x / 2 ^ 128
    if 2 ^ 129 ≤ y then log2Bits n (y / 2) (2 * acc + 1) else log2Bits n y (2 * acc)

/-- log2 of a positive finite value with 64 fraction bits and a sticky bit. -/
def log2Fin (m : Nat) (e : Int) : FVal :=
  let k := Nat.log2 m
  let frac := log2Bits 64 (m <<< (128 - k)) 0
  let z : Int := ((k : Int) + e) * 2 ^ 64 + frac
  if m = 2 ^ k then .fin (decide (z < 0)) z.natAbs (-64)
  else .fin (decide (z < 0)) (2 * z + 1).natAbs (-65)

/-- FLOG2 (15 R260). -/
def f32log2 (a : Word) : Word × FFlags :=
  match f32val a with
  | .nan sg => (nanF32, if sg then flNV else 0)
  | .inf n => if n then (nanF32, flNV) else (infF32, 0)
  | .fin n m e =>
    if m = 0 then (0xFF800000, flDZ)
    else if n then (nanF32, flNV)
    else
      let x := log2Fin m e
      if m = 2 ^ Nat.log2 m then f32of .rne (x, 0)
      else
        let u := ulpExp x + 1
        bounded (Config.flog2Value a) x 1 (max u (-22))

/-- The format of an element code (09 R144). -/
def fmtFormat (f : Fmt) : FFormat :=
  match f.code.toNat with
  | 0 => fmtF32
  | 1 => fmtF16
  | 2 => fmtBF16
  | n => fmtB8 (n - 2) f.u f.x

/-- The integer formats of a conversion: width and whether signed (09 R151). -/
def convInt : Conv → Option (Nat × Bool)
  | .i32 => some (32, true)
  | .n32 => some (32, false)
  | .i16 => some (16, true)
  | .n16 => some (16, false)
  | .fmt f =>
    match f.code.toNat with
    | 10 => some (8, true)
    | 11 => some (8, false)
    | 12 => some (4, true)
    | _ => none

/-- The signed value of the low w bits of a number. -/
def signedOf (w n : Nat) : Int :=
  let x := n % 2 ^ w
  if tbit x (w - 1) then (x : Int) - 2 ^ w else x

/-- An integer as an exact value. -/
def fvalOfInt (z : Int) : FVal := .fin (decide (z < 0)) z.natAbs 0

/-- A value to an integer format (09 R156): the integer and flags. -/
def toInt (rm : Rnd) (w : Nat) (signed : Bool) : FVal → Int × FFlags
  | .nan _ => (0, flNV)
  | .inf n => (if n then (if signed then -(2 ^ (w - 1)) else 0) else (if signed then 2 ^ (w - 1) - 1 else 2 ^ w - 1),
      flNV)
  | .fin n m e =>
    let (y, nx) := roundAt n rm m e 0
    let z : Int := if n then -(y : Int) else y
    let lo : Int := if signed then -(2 ^ (w - 1)) else 0
    let hi : Int := if signed then 2 ^ (w - 1) - 1 else 2 ^ w - 1
    if z < lo then (lo, flNV) else if hi < z then (hi, flNV) else (z, if nx then flNX else 0)

/-- The bits of an element format's codes (09 R144). -/
def fmtWidth (f : Fmt) : Nat :=
  match f.code.toNat with
  | 0 => 32
  | 1 => 16
  | 2 => 16
  | 12 => 4
  | _ => 8

/-- The value an element code stands for: integer or float (09 R144, R151). -/
def elemValue (f : Fmt) (code : Nat) : FVal :=
  match convInt (.fmt f) with
  | some (w, signed) => fvalOfInt (if signed then signedOf w code else (code % 2 ^ w : Nat))
  | none => fdecode (fmtFormat f) (code % 2 ^ fmtWidth f)

/-- The exact value of a conversion's source (15 R261). -/
def convSource (c : Conv) (x : Word) : FVal :=
  match convInt c with
  | some (w, signed) => fvalOfInt (if signed then signedOf w x.toNat else (x.toNat % 2 ^ w : Nat))
  | none =>
    match c with
    | .fmt f => elemValue f x.toNat
    | _ => qNaN

/-- FCVT (15 R261). -/
def f32cvt (dt st : Conv) (rm : Rnd) (sat : Bool) (x : Word) : Word × FFlags :=
  let v := convSource st x
  match convInt dt with
  | some (w, signed) =>
    let (z, fl) := toInt rm w signed v
    (BitVec.ofInt 32 z, fl)
  | none =>
    match dt with
    | .fmt f =>
      let (c, fl) := fconvert (fmtFormat f) rm sat v
      (BitVec.ofNat 32 c, fl)
    | _ => (0, 0)

/-- The value of a block scale (09 R152); none for a NaN. -/
def scaleValue (scf : ScaleFmt) (code : Nat) : Option (Nat × Int) :=
  match scf with
  | .nosc => some (1, 0)
  | .e8 => if code = 0xFF then none else some (1, (code : Int) - 127)
  | .s8 =>
    match fdecode (fmtB8 3 true false) code with
    | .fin _ m e => some (m, e)
    | _ => none

/-- The element formats of PLD, PST and MDRAIN. -/
def efFormat : ElemFmt → FFormat
  | .f32 => fmtF32
  | .f16 => fmtF16
  | .bf16 => fmtBF16

/-- Their sizes in bytes. -/
def efSize : ElemFmt → Nat
  | .f32 => 4
  | .f16 => 2
  | .bf16 => 2

end Sys2Proof.Machine
end

