-- ==== Sys2Proof/Machine/Ops.lean ====
section
/-!
DEFINITION. The shared operations of a wave: finding it, its registers and interlocks, traps and the return from one, the
points its accesses reach, energy charges, instruction fetch, and the frame in which every wave instruction runs.
-/
namespace Sys2Proof.Machine

/-- A wave with every field zero or empty (DESIGN CHOICE, log 8). -/
def Wave.zero : Wave :=
  { ctx := 0, wgslot := 0, wgx := 0, wnum := 0, stage := 0, launch := 0, spawned := false, draining := false
    prio := 0, base := 0, bound := 8, pc := 0, s := [], k := [], v := [], lflags := [], fflagsEn := 0b11100
    gang := 0, phase := 0, rows := 0, tvec := 0, tepc := 0, cause := 0, intrap := false, dlvSeq := 0
    lostFlt := false, drainFlags := 0, pending := none, redeliver := false, held := [], age := 0, starve := 0, starveAt := 0, lastIssue := 0
    lastS := 0, issuedOnce := false, phaseAt := 0, why := .none, paid := 0, arrived := none, bwait := none, kicking := false
    kickResult := none, linkReads := [], backed := [], waiting := none, fences := [], point := none, mark := none, entry := none, acquired := false, fetched := []
    sends := 0, halted := false, endAt := none, needEntry := false, recheck := false, spTmo := 0, spBound := 8 }

/-- A workgroup with every field zero or empty. -/
def Wg.zero : Wg :=
  { ctx := 0, launch := 0, prio := 0, x := 0, y := 0, z := 0, wgx := 0, rows := [], exited := [], vaultLo := 0
    vaultN := 0, qLo := 0, queues := [], plane := false, startStamp := 0, stopped := false, escalated := false }

/-- The wave in a lease row. -/
def State.waveAt? (s : State) (cl row : Nat) : Option Wave := mget (s.cluster cl).waves row

/-- The wave whose instruction runs, if its row holds one. -/
def State.curWave? (s : State) : Option Wave := s.waveAt? s.cur.1 s.cur.2

/-- The wave whose instruction runs. -/
def State.w (s : State) : Wave := s.curWave?.getD Wave.zero

/-- Changes the wave in a row; a FREE row stays FREE. -/
def State.updWave (s : State) (cl row : Nat) (f : Wave → Wave) : State :=
  let k := s.cluster cl
  s.setCluster cl { k with waves := mupd k.waves row f }

/-- Replaces the wave whose instruction runs. -/
def State.setW (s : State) (w : Wave) : State := s.updWave s.cur.1 s.cur.2 (fun _ => w)

/-- Changes the wave whose instruction runs. -/
def State.updW (s : State) (f : Wave → Wave) : State := s.updWave s.cur.1 s.cur.2 f

/-- The name of a wave. -/
def Wave.tag (w : Wave) (cl row : Nat) : WTag :=
  { ctx := w.ctx, cl := cl, wgslot := w.wgslot, wgx := w.wgx, row := row, wnum := w.wnum, stage := w.stage
    launch := w.launch }

/-- The name of the wave whose instruction runs. -/
def State.tag (s : State) : WTag := s.w.tag s.cur.1 s.cur.2

/-- The workgroup of the wave whose instruction runs. -/
def State.wg (s : State) : Wg := mgetD (s.cluster s.cur.1).wgs s.w.wgslot Wg.zero

def State.updWg (s : State) (cl slot : Nat) (f : Wg → Wg) : State :=
  let k := s.cluster cl
  s.setCluster cl { k with wgs := mupd k.wgs slot f }

/-- Why an attempt does not complete. It is held, with what held it, or it traps; each with what becomes of the state the
attempt began in, since an attempt that does not complete has done nothing else. -/
inductive Stop where
  | held (why : Why) (note : State → State)
  | trap (note : State → State) (r : TrapRec)

/-- An attempt. -/
abbrev Attempt (α : Type) := Except Stop α

/-- The wave waits at issue; nothing changes. -/
def hold {α : Type} (why : Why) : Attempt α := .error (.held why id)

/-- The wave waits at issue, and the attempt leaves a note in the state. -/
def holdWith {α : Type} (why : Why) (note : State → State) : Attempt α := .error (.held why note)

/-- An exact trap at the instruction, nothing changed. -/
def trapWith {α : Type} (r : TrapRec) : Attempt α := .error (.trap id r)

/-- ILLEGAL raised by an instruction that decodes (11 R186): INFO is its first parcel. -/
def illegal {α : Type} (s : State) (i : Instr) : Attempt α :=
  trapWith { cause := 0x10, iaddr := s.w.pc, resume := s.w.pc, info := ((encode i).headD 0).toNat }

/-- An exact trap that carries no operands. -/
def plainTrap {α : Type} (s : State) (cause : Nat) : Attempt α :=
  trapWith { cause := cause, iaddr := s.w.pc, resume := s.w.pc }

/-- An exact memory fault (02 R35). -/
def memTrap {α : Type} (s : State) (cause : Nat) (kind : Kind) (va : Nat) (lanes : Mask) : Attempt α :=
  trapWith { cause := cause, iaddr := s.w.pc, resume := s.w.pc, vaddr := va, lanes := lanes, access := kind.code }

/-- An exact memory fault where the instruction names no virtual address: a unit outside the partition or absent, a tile,
an offset within one. 11 R187 states no VADDR and no ACCESS there: both are free values, ACCESS within its codes
(DEDUCED, log 14). -/
def unitTrap {α : Type} (s : State) (cause : Nat) : Attempt α :=
  .error (.trap (fun s => { s with fresh := s.fresh + 2 })
    { cause := cause, iaddr := s.w.pc, resume := s.w.pc, vaddr := Config.freeValue s.fresh % 2 ^ 64
      access := Config.freeValue (s.fresh + 1) % 5 })

/-- A fault of an operand that is a virtual address, or an offset or a size that is none. -/
def operandTrap {α : Type} (s : State) (offset : Bool) (cause : Nat) (kind : Kind) (x : Nat) : Attempt α :=
  if offset then unitTrap s cause else memTrap s cause kind x 0

/-- A fault of an access to the backing store or to a traversal stack's area for some lanes (10 R175, 24 R340; 02 R35): exact,
and a JOB 6 record is appended. -/
def backingTrap {α : Type} (s : State) (e : Nat × Nat) (access : Nat) (lanes : Mask) : Attempt α :=
  let pc := s.w.pc
  .error (.trap (fun s => s.hwFault s.cur.1 s.w.ctx e.1 e.2 access 0 pc)
    { cause := e.1, iaddr := pc, resume := pc, vaddr := e.2, lanes := lanes, access := access })

/-- An attempt at an instruction that restarts from %row_progress: a trap of it records the rows or elements done before (11
R187). -/
def atProgress {α : Type} (n : Nat) : Attempt α → Attempt α
  | .error (.trap note r) => .error (.trap note { r with progress := n })
  | .error (.held why note) => .error (.held why note)
  | .ok x => .ok x

/-! ### Interlocks -/

/-- The operations outstanding for a wave. -/
def State.opsOf (s : State) (t : WTag) : List (Nat × Op) := s.ops.filter (fun o => o.2.tag == t)

/-- The registers owed to the wave whose instruction runs (24 R334, 12 R210). -/
def State.owed (s : State) : List Owed := (s.opsOf s.tag).flatMap (fun o => o.2.owed)

/-- Holds the wave while a register is owed. -/
def ready (s : State) (o : Owed) : Attempt Unit := if s.owed.contains o then hold .dep else .ok ()

/-! ### Accesses in flight and points -/

/-- Every access in flight by its identifier. -/
def State.accesses (s : State) : List (Nat × Access) :=
  s.packets.filterMap (fun p => match p.2.body with
    | .access a => some (p.1, a)
    | _ => none) ++ s.laterals

/-- The accesses not yet performed, of one wave. -/
def State.pendingOf (s : State) (t : WTag) : List (Nat × Access) :=
  s.accesses.filter (fun x => x.2.tag == t && !x.2.performed && x.2.kind != .semRel)

/-- An identifier names an access not yet performed, or an answer a wave still waits for. -/
def State.isPending (s : State) (id : Nat) : Bool :=
  match mget s.packets id with
  | some p => match p.body with
    | .access a => !a.performed
    | _ => true
  | none => match mget s.laterals id with
    | some a => !a.performed
    | none => false

/-- The access reads memory for the wave. -/
def AccessKind.isLoad : AccKind → Bool
  | .load | .atomic _ _ | .barrive | .binapp => true
  | .store | .semRel => false

def AccessKind.isWrite : AccKind → Bool
  | .load => false
  | _ => true

/-- An access to slice-homed memory that has entered the cluster's outbound order (06 R105). -/
def State.inOutbound (s : State) (x : Nat × Access) : Bool :=
  sliceHomed x.2.pa &&
    match mget s.packets x.1 with
    | some p => decide (p.stamp ≠ 0)
    | none => false

/-- What must perform for an access to count as seen by the cluster: itself, or, for one bound for the outbound order, what
it still waits for before it enters. -/
def State.entryOf (s : State) (x : Nat × Access) : List Nat :=
  if !sliceHomed x.2.pa then [x.1]
  else if s.inOutbound x then []
  else x.2.after.filter s.isPending

/-- The accesses a workgroup-scope point waits for (06 R105): loads, and writes to vaults and windows, to perform; a write
to slice-homed memory only to enter the outbound order. -/
def State.pointWg (s : State) (t : WTag) : List Nat :=
  (s.pendingOf t).flatMap (fun x => if AccessKind.isLoad x.2.kind then [x.1] else s.entryOf x)

/-- The accesses a device- or system-scope point waits for (06 R106). -/
def State.pointDev (s : State) (t : WTag) : List Nat :=
  ((s.pendingOf t).map Prod.fst) ++
    ((s.accesses.filter (fun x => x.2.tag.cl == t.cl && !x.2.performed && s.inOutbound x)).map Prod.fst)

/-- The accesses a point of a scope waits for. -/
def State.pointAt (s : State) (t : WTag) : Scope → List Nat
  | .wave => []
  | .wg => s.pointWg t
  | .dev => s.pointDev t
  | .sys => s.pointDev t

/-- Holds the wave until the point it began to wait for at its first attempt is reached (06 R105, R106). -/
def waitPoint (s : State) (sc : Scope) : Attempt Unit :=
  let ids := match s.w.point with
    | some l => l
    | none => s.pointAt s.tag sc
  if ids.any s.isPending then holdWith .dep (fun s => s.updW (fun w => { w with point := some ids })) else .ok ()

/-- What a later access of the wave waits for on account of fences and acquires before it (06 R104, R108). -/
def State.orderAfter (s : State) (write : Bool) : List Nat :=
  (s.w.fences.flatMap (fun f => if f.writesOnly && !write then [] else f.ids)).filter s.isPending ++
    ((s.pendingOf s.tag).filter (fun x =>
      match mget s.ops x.2.op with
      | some o => o.acq && AccessKind.isLoad x.2.kind
      | none => false)).map Prod.fst

/-- Bytes of two spans overlap. -/
def overlaps (a n b m : Nat) : Bool := decide (a < b + m) && decide (b < a + n)

/-- The access touches physical bytes: its own, or those of the counts and entries that it works on (06 R104). -/
def Access.touches (a : Access) (pa n : Nat) : Bool :=
  overlaps a.pa a.size pa n || a.spans.any (fun x => overlaps x.2.1 x.2.2 pa n)

/-- The wave's own pending accesses that overlap physical bytes (06 R104). -/
def State.ownOverlap (s : State) (pa n : Nat) : List Nat :=
  ((s.pendingOf s.tag).filter (fun x => x.2.touches pa n)).map Prod.fst

/-- Holds the wave while an access it must follow is pending: for instructions that act on memory at issue. -/
def afterAll (s : State) (ids : List Nat) : Attempt Unit := if ids.any s.isPending then hold .dep else .ok ()

/-- The requests of a cluster that entered its outbound order for a home before an identifier was given out and have not
performed there (03 R58, 06 R105). -/
def State.sentBefore (s : State) (cl home before : Nat) : List Nat :=
  (s.packets.filter (fun p =>
    p.2.src == clusterSite cl && p.2.dst == sliceSite home && !p.2.answer && p.2.stamp ≠ 0 && decide (p.2.stamp < before) &&
      s.isPending p.1)).map Prod.fst

/-- An access that acts at its home at issue comes after what its cluster had sent there when it began to wait. -/
def homeTurn (s : State) (pa : Nat) : Attempt Unit :=
  match region pa with
  | .vault _ | .checkpoint | .control | .reserved => .ok ()
  | .hbm _ | .safe _ | .cxl _ | .host _ | .peer _ =>
    let before := s.w.mark.getD s.nextId
    if (s.sentBefore s.cur.1 (s.homeOf (s.partOfCtx s.w.ctx) pa) before).isEmpty then .ok ()
    else holdWith .dep (fun s => s.updW (fun w => { w with mark := some before }))

/-- The turn of an access that acts at issue on n bytes: after the wave's own accesses to them, after what orders it, and in
the outbound order of its cluster (06 R104, R105, R108). -/
def accessTurn (s : State) (pa n : Nat) (write : Bool) : Attempt Unit := do
  afterAll s (s.orderAfter write ++ s.ownOverlap pa n)
  homeTurn s pa

/-- The wave has acquired (06 R110). -/
def State.noteAcquire (s : State) : State := s.updW (fun w => { w with acquired := true })

/-- What the reads of a job or of a traversal must come after beside the wave's own accesses: once the wave has acquired,
what its cluster has sent and has not performed (06 R105, R110) (DESIGN CHOICE, log 85). -/
def State.acquiredAfter (s : State) : List Nat :=
  if s.w.acquired then
    (s.accesses.filter (fun x => x.2.tag.cl == s.cur.1 && !x.2.performed && s.inOutbound x)).map Prod.fst
  else []

/-- A fence after the instruction: later accesses wait for these (06 R108). -/
def State.addFence (s : State) (ids : List Nat) (writesOnly : Bool) : State :=
  s.updW (fun w =>
    { w with fences := (w.fences.filter (fun f => f.ids.any s.isPending)) ++ [{ ids := ids, writesOnly := writesOnly }] })

/-- FENCE of an order and a scope, as 06 R108 has it; R105's last sentence would hold more back at scope wg
(DESIGN CHOICE, log 107). -/
def State.fenceEffect (s : State) (o : Order) (sc : Scope) : State :=
  if sc = .wave then s
  else match o with
    | .rlx => s
    | .acq => s.noteAcquire.addFence (((s.pendingOf s.tag).filter (fun x => AccessKind.isLoad x.2.kind)).map Prod.fst) false
    | .rel => s.addFence (s.pointAt s.tag sc) true
    | .ar => s.noteAcquire.addFence (s.pointAt s.tag sc) false

/-! ### Counted operations -/

/-- A new counted operation of the wave whose instruction runs. -/
def State.newOp (s : State) (o : Op) : Nat × State :=
  let (id, s) := s.newId
  (id, { s with ops := mset s.ops id o })

/-- One part of an operation is done; the last one completes it (16 R274). -/
def State.opStep (s : State) (id : Nat) : State :=
  match mget s.ops id with
  | none => s
  | some o => if o.left ≤ 1 then { s with ops := mdel s.ops id }
              else { s with ops := mset s.ops id { o with left := o.left - 1 } }

/-- The four counters of a wave (16 R274). -/
def State.counter (s : State) (t : WTag) (which : Op → Bool) : Nat :=
  ((s.opsOf t).filter (fun o => which o.2)).length

/-- Holds the wave while a counter it would take past 65,535 is full (16 R274). -/
def counterRoom (s : State) (which : Op → Bool) : Attempt Unit :=
  if 65535 ≤ s.counter s.tag which then hold .dep else .ok ()

/-! ### Registers -/

/-- Where a spilled register lies (10 R175). -/
def State.backingAddr (s : State) (c : Ctx) (cl wgx wnum r : Nat) : Nat :=
  c.bsBase + ((s.clusterIndex cl * 64 + wgx) * 16 + wnum) * 0x20000 + r * 512

/-- Reads a scalar source: a queue register pops, zs is zero (12 R206). -/
def readS (s : State) (r : SReg) : Attempt (DWord × State) :=
  match r with
  | .zs => .ok (0, s)
  | .s n => do
    ready s (.s n.toNat)
    pure (mgetD s.w.s n.toNat 0, s)
  | .q n => do
    ready s (.q n.toNat)
    match s.wg.queues[n.toNat]? with
    | some q => match q.entries with
      | e :: t =>
        -- a pop acquires at workgroup scope (06 R112)
        pure (e, s.noteAcquire.updWg s.cur.1 s.w.wgslot
          (fun g => { g with queues := g.queues.set n.toNat { q with entries := t } }))
      | [] => hold .sync
    | none => hold .sync

/-- Writes a scalar register of the wave. -/
def State.setS (s : State) (n : Nat) (x : DWord) : State := s.updW (fun w => { w with s := msetD w.s n 0 x })

/-- Pushes that returns still owe to a queue of the workgroup. -/
def State.queueOwed (s : State) (n : Nat) : Nat :=
  (s.ops.filter (fun o =>
    o.2.tag.cl == s.cur.1 && o.2.tag.wgslot == s.w.wgslot && o.2.tag.ctx == s.w.ctx && o.2.owed.contains (.q n))).length

/-- Writes a scalar destination: a queue register pushes, as a release at workgroup scope (12 R206, 06 R112). -/
def writeS (s : State) (r : SReg) (x : DWord) : Attempt State :=
  match r with
  | .zs => .ok s
  | .s n => do
    ready s (.s n.toNat)
    pure (s.setS n.toNat x)
  | .q n => do
    waitPoint s .wg
    match s.wg.queues[n.toNat]? with
    | some q =>
      if q.entries.length + s.queueOwed n.toNat < q.depth then
        pure (s.updWg s.cur.1 s.w.wgslot
          (fun g => { g with queues := g.queues.set n.toNat { q with entries := q.entries ++ [x] } }))
      else hold .sync
    | none => hold .sync

/-- Makes sure that a scalar destination can take a value that returns later: a queue keeps room for it. -/
def scalarRoom (s : State) (r : SReg) : Attempt Unit :=
  match r with
  | .zs => .ok ()
  | .s n => ready s (.s n.toNat)
  | .q n => do
    waitPoint s .wg
    match s.wg.queues[n.toNat]? with
    | some q => if q.entries.length + s.queueOwed n.toNat < q.depth then .ok () else hold .sync
    | none => hold .sync

/-- What a scalar destination owes until its value returns. -/
def owedS : SReg → List Owed
  | .zs => []
  | .s n => [.s n.toNat]
  | .q n => [.q n.toNat]

/-- A mask register; k0 is all ones (12 R205). -/
def Wave.mask (w : Wave) (k : KReg) : Mask := if k = 0 then BitVec.allOnes 128 else mgetD w.k k.toNat 0

def readK (s : State) (k : KReg) : Attempt Mask := do
  ready s (.k k.toNat)
  pure (s.w.mask k)

/-- Writes a mask register; k0 is never written. -/
def State.setK (s : State) (k : KReg) (m : Mask) : State :=
  if k = 0 then s else s.updW (fun w => { w with k := msetD w.k k.toNat 0 m })

def writeK (s : State) (k : KReg) (m : Mask) : Attempt State := do
  ready s (.k k.toNat)
  pure (s.setK k m)

/-- The lanes of a vector register of the wave below its bound. -/
def Wave.lane (w : Wave) (r l : Nat) : Word := mgetD w.v (128 * r + l) 0

/-- A mask from a predicate on lanes. -/
def maskOf (f : Nat → Bool) : Mask :=
  BitVec.ofNat 128 ((rangeFrom 0 128).foldl (fun acc l => if f l then acc + 2 ^ l else acc) 0)

/-- The active lanes, ascending. -/
def activeList (act : Nat → Bool) : List Nat := (rangeFrom 0 gWidth).filter act

/-- The backing store of a register of the wave that State.cur names. -/
def State.spilledAt (s : State) (r : Nat) : Nat := s.backingAddr (s.ctxOf s.w.ctx) s.cur.1 s.w.wgx s.w.wnum r

/-- Lanes of a register read from the backing store: what each gives (10 R175). -/
def State.spilled (s : State) (r : Nat) (lanes : List Nat) : List (Nat × Except (Nat × Nat) Word) :=
  lanes.map (fun l =>
    (l, (s.hwRead s.cur.1 s.w.ctx (s.spilledAt r + 4 * l) 4).map (fun b => BitVec.ofNat 32 (bytesToNat b))))

/-- The lines of a spilled register's lanes as they are read. -/
def State.spilledUses (s : State) (r : Nat) (lanes : List Nat) : List (Nat × LineUse) :=
  (lanes.flatMap (fun l => s.areaUses s.cur.1 s.w.ctx (s.spilledAt r + 4 * l) 4)).eraseDups

/-- The lanes that an instruction reads of a vector register, from the file or the backing store (10 R174, R175; 15 R247).
Lines of the store that have to move do so first, and the wave waits for them (05 R98). -/
def readV (s : State) (r : Nat) (act : Nat → Bool := fun _ => true) : Attempt (Nat → Word) := do
  ready s (.v r)
  if r < s.w.bound then
    let w := s.w
    pure (fun l => w.lane r l)
  else
    let got := s.spilled r (activeList act)
    let bad := got.filterMap (fun x => match x.2 with
      | .error e => some (x.1, e)
      | .ok _ => none)
    match bad with
    | (_, e) :: _ => backingTrap s e 0 (maskOf (fun l => bad.any (fun x => x.1 == l)))
    | [] =>
      let uses := s.spilledUses r (activeList act)
      if s.w.backed.contains r || uses.all (fun u => s.lineMoves u == 0) then
        pure (fun l => match (got.find? (fun x => x.1 == l)).map Prod.snd with
          | some (.ok x) => x
          | _ => 0)
      else holdWith .dep (fun o => (o.charge uses).updW (fun w => { w with backed := r :: w.backed }))

/-- The wave's file with some lanes of a register set: lanes from l, n of them. -/
def setLanes (v : SMap Word) (r : Nat) (f : Nat → Option Word) : Nat → Nat → SMap Word
  | 0, _ => v
  | n + 1, l =>
    let v' := match f l with
      | some x => msetD v (128 * r + l) 0 x
      | none => v
    setLanes v' r f n (l + 1)

/-- The runs of neighbouring lanes that f gives a value for, of lanes from l, n of them: the first lane and the bytes. -/
def laneRuns (f : Nat → Option Word) : Nat → Nat → List (Nat × List Byte)
  | 0, _ => []
  | n + 1, l =>
    match f l, laneRuns f n (l + 1) with
    | none, rest => rest
    | some x, [] => [(l, natToBytes 4 x.toNat)]
    | some x, (m, b) :: rest =>
      if m = l + 1 then (l, natToBytes 4 x.toNat ++ b) :: rest else (l, natToBytes 4 x.toNat) :: (m, b) :: rest

/-- Writes the lanes of a vector register that f gives a value for. The lanes of a spilled one lie in one page, so its access
fails for all of them. -/
def writeV (s : State) (r : Nat) (f : Nat → Option Word) : Attempt State := do
  ready s (.v r)
  if r < s.w.bound then
    pure (s.updW (fun w => { w with v := setLanes w.v r f 128 0 }))
  else
    match (laneRuns f 128 0).foldlM (fun s x => s.hwWrite s.cur.1 s.w.ctx (s.spilledAt r + 4 * x.1) x.2) s with
    | .error e => backingTrap s e 3 (maskOf (fun l => (f l).isSome))
    | .ok s' => pure s'

/-- Lanes of a vector register that values owed will come to: an area that cannot be written stops the instruction (10
R175). -/
def targetV (s : State) (r : Nat) (act : Nat → Bool) : Attempt Unit := do
  ready s (.v r)
  match if r < s.w.bound then none else (activeList act).head? with
  | none => pure ()
  | some l =>
    match s.translateHw s.cur.1 s.w.ctx (s.spilledAt r + 4 * l) .hwWrite with
    | .ok _ => pure ()
    | .error c => backingTrap s (c, s.spilledAt r + 4 * l) 3 (maskOf act)

/-- The same for a register or a pair. -/
def targetVW (s : State) (wide : Bool) (r : Nat) (act : Nat → Bool) : Attempt Unit := do
  targetV s r act
  if wide then targetV s (r + 1) act else pure ()

/-- The active lanes of a mask register. -/
def active (s : State) (k : KReg) : Attempt (Nat → Bool) := do
  let m ← readK s k
  pure (fun l => m.getLsbD l)

/-- The value f gives at active lanes. -/
def onActive {α : Type} (act : Nat → Bool) (f : Nat → α) : Nat → Option α := fun l => if act l then some (f l) else none

/-- Reads a register or an even/odd pair as 64-bit lanes. -/
def readVW (s : State) (wide : Bool) (r : Nat) (act : Nat → Bool := fun _ => true) : Attempt (Nat → Nat) := do
  let lo ← readV s r act
  if wide then
    let hi ← readV s (r + 1) act
    pure (fun l => (lo l).toNat + 2 ^ 32 * (hi l).toNat)
  else pure (fun l => (lo l).toNat)

/-- Writes a register or a pair from lane numbers. -/
def writeVW (s : State) (wide : Bool) (r : Nat) (f : Nat → Option Nat) : Attempt State := do
  let s ← writeV s r (fun l => (f l).map (fun x => BitVec.ofNat 32 x))
  if wide then writeV s (r + 1) (fun l => (f l).map (fun x => BitVec.ofNat 32 (x / 2 ^ 32))) else pure s

/-- Raises lane flags (09 R158): lanes from l, n of them. -/
def orFlags (m : SMap FFlags) (f : Nat → FFlags) : Nat → Nat → SMap FFlags
  | 0, _ => m
  | n + 1, l => orFlags (msetD m l 0 (mgetD m l 0 ||| f l)) f n (l + 1)

def State.raiseLanes (s : State) (f : Nat → FFlags) : State :=
  s.updW (fun w => { w with lflags := orFlags w.lflags f 128 0 })

/-! ### Traps (11 R186 to R191) -/

/-- The wave's trap area (11 R187). -/
def State.trapArea (s : State) (cl : Nat) (w : Wave) : Nat :=
  (s.ctxOf w.ctx).trBase + ((s.clusterIndex cl * 64 + w.wgx) * 16 + w.wnum) * 0x400

/-- The 64 bytes of a trap record (11 R187). -/
def TrapRec.bytes (r : TrapRec) : List Byte :=
  natToBytes 8 r.iaddr ++ natToBytes 8 r.vaddr ++ natToBytes 16 r.lanes.toNat ++
    natToBytes 8 (r.progress % 2 ^ 32 * 2 ^ 32 + r.access * 2 ^ 20 + r.flags.toNat * 2 ^ 8 + r.cause) ++
    natToBytes 8 (r.info % 2 ^ 32) ++ natToBytes 8 r.seq ++ natToBytes 8 0

/-- What a delivery writes to the trap area: the record, and the job record or cell map it carries, by offset. -/
def TrapRec.areaParts (r : TrapRec) : List (Nat × List Byte) :=
  (0, r.bytes) :: ((if r.cause = 0x18 then [(0x40, r.job)] else []) ++
    (if r.cause = 0x17 then [(0x80, natToBytes 512 r.cells.toNat)] else []))

/-- Stops a workgroup so that it can be parked (11 R191). -/
def State.stopWg (s : State) (cl slot : Nat) (escalated : Bool) : State :=
  s.updWg cl slot (fun g => { g with stopped := true, escalated := g.escalated || escalated })

/-- The wave forgets what its attempt had noted. -/
def Wave.clearAttempt (w : Wave) : Wave :=
  { w with
    arrived := none, point := none, mark := none, entry := none, paid := 0, waiting := none, linkReads := [], backed := []
    fetched := w.fetched.filter (fun b => !b.2.isEmpty) }

/-- The wave stands before the instruction that trapped. -/
def Wave.backTo (w : Wave) (iaddr : Nat) : Wave :=
  { w.clearAttempt with pc := iaddr, needEntry := w.needEntry && iaddr == w.pc }

/-- Escalation (11 R189): the workgroup is stopped for parking and given to the host (DEDUCED, log 17). -/
def State.escalate (s : State) (cl row : Nat) (r : TrapRec) (redeliver : Bool) : State :=
  match s.waveAt? cl row with
  | none => s
  | some w =>
    let r' := if w.intrap then { r with cause := 0x1A } else r
    (s.updWave cl row (fun w => 
      { w.backTo r.iaddr with pending := some r', redeliver := redeliver })).stopWg
      cl w.wgslot true

/-- A delivered record is held no more, by its wave or by a semaphore (02 R38, 16 R283). -/
def State.consumeRecord (s : State) (cl row ctx seq : Nat) : State :=
  let s := s.updWave cl row (fun w => { w with held := w.held.filter (fun r => r.seq ≠ seq) })
  let k := s.cluster cl
  let clear (m : Sem) : Sem :=
    match m.held with
    | some r => if r.seq = seq then { m with error := false, held := none } else m
    | none => m
  s.setCluster cl { k with
    slots := k.slots.map (fun x =>
      (x.1, if x.2.ctx == ctx then { x.2 with sems := x.2.sems.map (fun y => (y.1, clear y.2)) } else x.2)) }

/-- The logged record a wave takes before its next instruction (08 R142): address, SEQ and bytes. -/
def State.dueRecord (s : State) (cl : Nat) (w : Wave) : Option (Nat × Nat × List Byte) :=
  match s.readLog cl w.ctx with
  | .ok h => s.findRecord cl w.ctx h w.wgx w.wnum w.dlvSeq ((h.write + 2 ^ 32 - h.free) % 2 ^ 32) h.free
  | .error _ => none

/-- A logged record that has been delivered has DLV set, and its wave's DLVSEQ stands at it; a lost-fault trap clears
LOSTFLT (08 R141, R142). -/
def State.markDelivered (s : State) (cl row : Nat) (w : Wave) (r : TrapRec) : State :=
  if r.cause = 0x19 then s.updWave cl row (fun w => { w with lostFlt := false })
  else if r.cause ≠ 0x18 then s
  else match s.dueRecord cl w with
    | some (a, seq, b) =>
      if seq ≠ r.seq then s
      else
        let w5 := bytesToNat ((b.drop 40).take 8)
        let s := match s.hwWrite cl w.ctx (a + 40) (natToBytes 8 (w5 % 2 ^ 63 + 2 ^ 63)) with
          | .ok s' => s'
          | .error _ => s
        s.updWave cl row (fun w => { w with dlvSeq := seq })
    | none => s

/-- LOST as a LOST_FAULT trap reads it (11 R187). -/
def State.lostCount (s : State) (cl ctx : Nat) : Nat :=
  match s.readLog cl ctx with
  | .ok h => h.lost
  | .error _ => 0xFFFFFFFF

/-- Delivers a trap to a wave (11 R188). A LOST_FAULT has LOST as it stands at the delivery (11 R187). -/
def State.deliver (s : State) (cl row : Nat) (r : TrapRec) : State :=
  match s.waveAt? cl row with
  | none => s
  | some w =>
    let r := if r.cause = 0x19 then { r with info := s.lostCount cl w.ctx } else r
    if w.intrap || !w.tvec.getLsbD 0 then s.escalate cl row r false
    else
      match r.areaParts.foldlM (fun s x => s.hwWrite cl w.ctx (s.trapArea cl w + x.1) x.2) s with
      | .error e => (s.hwFault cl w.ctx e.1 e.2 3 0 r.iaddr).escalate cl row r true
      | .ok s =>
        let s := (if r.cause = 0x18 then s.consumeRecord cl row w.ctx r.seq else s).markDelivered cl row w r
        s.updWave cl row (fun w =>
          { w.clearAttempt with
            recheck := w.needEntry && r.resume == w.pc
            tepc := BitVec.ofNat 64 (r.resume / 4 * 4), cause := BitVec.ofNat 8 r.cause, intrap := true
            pc := w.tvec.toNat / 4 * 4, needEntry := true })

/-- The ASYNC trap that carries a record (11 R186, R187). -/
def asyncTrap (pc : Nat) (r : JobRec) : TrapRec :=
  { cause := 0x18, iaddr := pc, resume := pc, seq := r.seq, job := r.bytes false }

/-- The memory causes that HOSTMASK covers (11 R190). -/
def isMemCause (c : Nat) : Bool := decide (1 ≤ c) && decide (c ≤ 12)

/-- A wave that stops waiting leaves the semaphore, the barrier or the latch it waits at (10 R176; 16 R283, R286). -/
def State.leaveQueues (s : State) (cl row : Nat) : State :=
  match s.waveAt? cl row with
  | none => s
  | some w =>
    let k := s.cluster cl
    let drop (m : Sem) : Sem := { m with waiters := without row m.waiters }
    let s := s.setCluster cl { k with
      slots := k.slots.map (fun x =>
        (x.1, if x.2.ctx == w.ctx then { x.2 with sems := x.2.sems.map (fun y => (y.1, drop y.2)) } else x.2))
      latch := without row k.latch }
    match w.bwait with
    | none => s
    | some _ =>
      let s := s.updWave cl row (fun w => { w with bwait := none })
      { s with slices := s.slices.map (fun e =>
          (e.1, { e.2 with waiters := e.2.waiters.filter (fun x => x.tag ≠ w.tag cl row) })) }

/-- Takes a trap: a host-serviced memory fault becomes the wave's pending record and stops the workgroup; any other is
delivered (11 R188, R190). -/
def State.takeTrap (s : State) (cl row : Nat) (r : TrapRec) : State :=
  match s.waveAt? cl row with
  | none => s
  | some w =>
    let s := s.leaveQueues cl row
    if isMemCause r.cause && tbit (s.ctxOf w.ctx).hostMask r.cause then
      (s.updWave cl row (fun w => { w.backTo r.iaddr with pending := some r })).stopWg cl w.wgslot false
    else s.deliver cl row r

/-- TRET outside a handler is refused; inside, the wave returns to %tepc (11 R188). After NO_ENTRY the instruction there must
be ENTRY, so the trap recurs unless the handler has written %tepc. A wave that HACT has ended stays so where it returns to its
pc of then (10 R169). -/
def State.trapReturn (s : State) : State :=
  s.updW (fun w =>
    { w with
      intrap := false, pc := w.tepc.toNat / 4 * 4, needEntry := w.recheck, recheck := false
      endAt := w.endAt.filter (fun a => a == w.tepc.toNat / 4 * 4) })

/-! ### Energy charges (10 R182, R183) -/

/-- Units of an energy class; class 6 depends on the array pass. -/
def classUnits (pass : Nat) : Nat → Nat
  | 0 => 0
  | 1 => 16
  | 2 => 32
  | 3 => 58
  | 4 => 116
  | 5 => 1066
  | 6 => pass
  | _ => 232

/-- What an instruction charges: its floor class, how many times it is charged, the units of one array pass, and what is
charged beside for other waves that complete with it. -/
structure Cost where
  floor : Nat := 0
  count : Nat := 1
  pass : Nat := 369
  extra : Nat := 0
  /-- it takes the plane in turn (10 R173) -/
  plane : Bool := false
  deriving DecidableEq, Repr

/-- Units of one charge under a hint (10 R182): the effective class is the greater, and a hint never lowers a charge. -/
def Cost.unit (c : Cost) (h : Hints) : Nat :=
  max (classUnits c.pass (max h.e.toNat c.floor)) (classUnits c.pass c.floor)

/-- The budget of a context on a cluster (10 R183). -/
def State.units (s : State) (cl ctx : Nat) : Nat :=
  if s.windowDue then 0
  else match (s.cluster cl).slots.find? (fun x => x.2.ctx == ctx) with
    | some x => x.2.units
    | none => 0

/-- Debits units from a context's budget and counts them in its partition's class draw (05 R97). -/
def State.debit (s : State) (cl ctx n : Nat) : State :=
  let k := s.cluster cl
  let slots := k.slots.map (fun x => (x.1, if x.2.ctx == ctx then { x.2 with units := x.2.units - n } else x.2))
  let s := s.setCluster cl { k with slots := slots }
  match s.partOfCluster cl with
  | some p => { s with parts := mupd s.parts p (fun q => { q with classDraw := q.classDraw + n }) }
  | none => s

/-- Notes that a plane instruction of the wave has issued, or that its steps have begun (10 R173). -/
def State.takePlane (s : State) (c : Cost) (issued begun : Bool) : State :=
  if c.plane && (issued || begun) then
    let k := s.cluster s.cur.1
    let old := k.planeTurn.getD { time := 0, sector := 0, begun := none }
    let turn : PlaneTurn :=
      if issued then { time := s.now, sector := s.cur.2 / 16, begun := none } else { old with begun := some s.cur.2 }
    s.setCluster s.cur.1 { k with planeTurn := some turn }
  else s

/-- The wave in a row has a plane instruction whose steps have begun (10 R173). -/
def State.planeBegun (s : State) (cl row : Nat) : Bool :=
  (s.cluster cl).planeTurn.any (fun p => p.begun == some row) && (s.waveAt? cl row).any (fun w => w.paid ≠ 0)

/-- Pays an instruction's charge: the charges the budget covers begin now; all of them paid, it may complete. -/
def State.pay (s : State) (c : Cost) (h : Hints) : Bool × State :=
  let u := c.unit h
  let want := c.count - s.w.paid
  let avail := s.units s.cur.1 s.w.ctx
  if want * u + c.extra ≤ avail then (true, (s.debit s.cur.1 s.w.ctx (want * u + c.extra)).takePlane c true false)
  else
    -- charges begin one after another; the last waits until it is covered with what goes beside it
    let now := if u = 0 then 0 else min (avail / u) (want - 1)
    (false, ((s.debit s.cur.1 s.w.ctx (now * u)).updW (fun w => { w with paid := w.paid + now })).takePlane c false
      (decide (0 < now)))

/-! ### The frame of a wave instruction -/

/-- An issue uses its sector's cycle (10 R170, R185). -/
def State.useSector (s : State) (launch : Nat) (ph : BitVec 4) : State :=
  let k := s.cluster s.cur.1
  let sectors := mset k.sectors (s.cur.2 / 16) { time := s.now, launch := launch, phase := ph.toNat }
  { s.setCluster s.cur.1 { k with sectors := sectors } with issued := true }

/-- A trap takes the place of an instruction at issue: it uses the sector's cycle, with the stall hint of that instruction, or
none where there is no instruction (DESIGN CHOICE, log 92). -/
def State.trapIssued (s : State) (w : Wave) (stall : Nat) : State :=
  (s.updW (fun x => { x with
    lastIssue := s.now, lastS := stall, issuedOnce := true, starve := 0, phaseAt := w.phase, why := .none })).useSector
    w.launch w.phase

/-- What issue leaves in the wave: the next pc, the issue time and stall hint, a new age stamp under Y (10 R170, R171). -/
def State.issueDone (s : State) (h : Hints) (ph : BitVec 4) (next : Option Nat) : State :=
  let k := s.cluster s.cur.1
  let s := if h.y then s.setCluster s.cur.1 { k with ageCtr := k.ageCtr + 1 } else s
  let age := k.ageCtr
  (s.useSector s.w.launch ph).updW (fun w =>
    { w with
      pc := next.getD w.pc, lastIssue := s.now, lastS := h.s.toNat, issuedOnce := true, starve := 0
      age := if h.y then age else w.age, paid := 0, point := none, mark := none, entry := none, arrived := none
      waiting := none
      linkReads := [], backed := [], phaseAt := ph, why := .none, needEntry := next.isNone && w.needEntry })

/-- An instruction waits for its context's budget: Towpath counts those that begin to (10 R183, 25 R357) (DESIGN CHOICE, log 12). -/
def State.waitBudget (s : State) : State :=
  let n := if s.w.why = .budget then 0 else 1
  { s.updW (fun w => { w with why := .budget }) with dev := { s.dev with stalls := s.dev.stalls + n } }

/-- Runs one instruction of the wave that State.cur names. The body says what it does; it is held or traps with the state
it leaves; an instruction whose charge is not covered waits. fallThrough says that the pc moves past the instruction
(DEDUCED, log 13) (DEDUCED, log 18). -/
def runWith (h : Hints) (cost : State → Cost) (len : Nat) (fallThrough : Bool) (s : State)
    (body : State → Attempt State) : Host.Outcome State Fault Refusal :=
  match s.curWave? with
  | none => .fault .noWave
  | some w =>
    match body s with
    | .error (.held why note) => .next ((note s).updW (fun w => { w with why := why }))
    | .error (.trap note r) =>
      .next (((note s).takeTrap s.cur.1 s.cur.2 r).trapIssued w h.s.toNat)
    | .ok s1 =>
      match s1.pay (cost s) h with
      | (true, s2) => .next (s2.issueDone h w.phase (if fallThrough then some ((w.pc + len) % 2 ^ 64) else none))
      | (false, _) => .next (s.pay (cost s) h).2.waitBudget

/-- Runs an instruction after which the wave goes on to the next. -/
def run (h : Hints) (floor len : Nat) (s : State) (body : State → Attempt State) : Host.Outcome State Fault Refusal :=
  runWith h (fun _ => { floor := floor }) len true s body

/-- Runs a control instruction, whose body sets the pc. -/
def runJump (h : Hints) (s : State) (body : State → Attempt State) : Host.Outcome State Fault Refusal :=
  runWith h (fun _ => {}) 0 false s body

/-! ### Fetch (02 R42 to R44; 12 R200 to R202) -/

/-- The writes to a link that publication buffers of a partition hold: its reads see them (07 R125) (DEDUCED, log 43). -/
def State.heldOn (s : State) (part link : Nat) : List PubWrite :=
  match mget s.parts part with
  | none => []
  | some p =>
    (s.slicesOf part).flatMap (fun n =>
      (s.slice n).pub.filter (fun v => (mget p.windows v.win).any (fun w => w.link == link)))

/-- Asks for bytes behind a host or peer window for a partition (01 R25; 07 R121, R128): the identifier of the request. -/
def State.askLink (s : State) (part pa len : Nat) (ask : HostAsk) : Nat × State :=
  let (id, s) := s.newId
  match region pa with
  | .peer j =>
    (id, { s with peerReqs := mset s.peerReqs id
                    { ask := ask, fn := part, link := j, addr := (pa - peerBase) % peerBytes, len := len } })
  | _ =>
    let link := if pa < hostBase1 then 0 else 1
    (id, { s with hostReqs := mset s.hostReqs id
                    { ask := ask, fn := part, link := link, addr := pa - linkBase link, len := len
                      heldOver := s.heldOn part link } })

/-- Bytes behind a host or peer window that the instruction at issue reads: it waits for the answer; none where the read
failed. -/
def linkRead (s : State) (pa len : Nat) : Attempt (Option (List Byte)) :=
  match mget s.w.linkReads pa with
  | some r => .ok r
  | none =>
    holdWith .dep (fun o =>
      if o.w.waiting.isSome then o
      else
        let (id, o) := o.askLink (o.partOfCtx o.w.ctx) pa len (.waveRead o.cur.1 o.cur.2 pa)
        o.updW (fun w => { w with waiting := some id }))

/-- Lines that an access acting at issue uses at their homes: it waits until line tokens cover them (05 R98, R99). -/
def moveNow (s : State) (uses : List (Nat × LineUse)) : Attempt State :=
  match s.moveLines uses with
  | some s => .ok s
  | none => hold .dep

/-- The bytes of a read that acts at issue under a caching class: from memory, a shadow or a link; none where it meets a
data error. They are read in one instant, although words of them that change meanwhile may be old or new each on its own
(DESIGN CHOICE, log 101). -/
def bytesNow (s : State) (pa n ca : Nat) : Attempt (Option (List Byte) × State) :=
  match region pa with
  | .host _ | .peer _ => do
    let b ← linkRead s pa n
    pure (b, s)
  | _ =>
    match s.readFor s.w.ctx pa n with
    | .bytes b s => do
      let s ← moveNow s (usesOf pa n (fun _ => .read ca))
      pure (some b, s)
    | .poison => pure (none, s)
    | .held _ _ => hold .dep

/-- A read of n bytes that acts at issue, in its turn. -/
def readNow (s : State) (pa n ca : Nat) : Attempt (Option (List Byte) × State) := do
  accessTurn s pa n false
  bytesNow s pa n ca

/-- What fetching a block gives. -/
inductive Fetched where
  | block (bs : List Byte) (s : State)
  | fault (cause va : Nat)
  | wait (s : State)

/-- Adds a block to a cluster's instruction cache of 2,048 blocks, the oldest leaving (00 R1). -/
def Cluster.keepBlock (k : Cluster) (b : CodeBlock) : Cluster :=
  let l := k.icache.filter (fun x => x.ctx ≠ b.ctx || x.va ≠ b.va) ++ [b]
  { k with icache := l.drop (l.length - 2048) }

/-- A block of code read for a wave stands in its fetch buffer and in its cluster's instruction cache. -/
def State.keepBlock (s : State) (cl row : Nat) (b : CodeBlock) : State :=
  let k := s.cluster cl
  s.setCluster cl
    { k.keepBlock b with waves := mupd k.waves row (fun w => { w with fetched := mset w.fetched b.va b.bytes }) }

/-- A wave or its cluster keeps a block as it stands at its home, so that fetching it moves no line there. -/
def State.keepsBlock (s : State) (cl : Nat) (w : Wave) (b : CodeBlock) : Bool :=
  mget w.fetched b.va == some b.bytes || (s.cluster cl).icache.contains b

/-- A block of code has been read at its home: its line and those of its translation have moved, and it is kept (02 R39,
R42; 05 R98). -/
def State.tookBlock (s : State) (cl row pa attr : Nat) (w : Wave) (b : CodeBlock) : State :=
  ((if s.keepsBlock cl w b then s else s.chargeRead pa 32 (attrCa attr)).keepBlock cl row b).cacheUse cl b.ctx b.va

/-- The copy of a block that a wave's fetch uses, where the turn has it use one: in its fetch buffer, or in the cluster's
instruction cache. -/
def State.oldBlock (s : State) (cl : Nat) (w : Wave) (b : Nat) : Option (List Byte) :=
  if (s.accessOf fetchAccess).usesOld b 5 && (mget w.fetched b).isSome then mget w.fetched b
  else if (s.accessOf fetchAccess).usesOld b 6 then
    ((s.cluster cl).icache.find? (fun x => x.ctx == w.ctx && x.va == b)).map CodeBlock.bytes
  else none

/-- Reads the 32-byte block of code at an address for a wave. An empty block stands for a read that failed on its link. A
copy serves where the turn says so; otherwise the block is read at its home, over the link if it lies in a window (02 R42,
R44). A block that has come over a link serves until the wave drops it, since a fetch uses one such answer. -/
def State.fetchBlock (s : State) (cl row va : Nat) : Fetched :=
  match s.waveAt? cl row with
  | none => .fault causeNotPresent va
  | some w =>
    let b := va / 32 * 32
    match s.oldBlock cl w b with
    | some bs => if bs.isEmpty then .fault causeDataError va else .block bs s
    | none =>
      match (s.accessOf fetchAccess).translate cl w.ctx b .fetch with
      | .error c => .fault c va
      | .ok (pa, attr) =>
        match region pa with
        | .host _ | .peer _ =>
          match mget w.fetched b with
          | some bs => if bs.isEmpty then .fault causeDataError va else .block bs s
          | none =>
            if w.waiting.isSome then .wait s
            else
              let (id, s) := s.askLink (s.partOfCtx w.ctx) pa 32 (.fetch cl row b)
              .wait (s.updWave cl row (fun w => { w with waiting := some id }))
        | _ =>
          match s.readFor w.ctx pa 32 with
          | .poison => .fault causeDataError va
          | .held _ s => .wait s
          | .bytes bs s => .block bs (s.tookBlock cl row pa attr w { ctx := w.ctx, va := b, bytes := bs })

/-- Fetches of a context's waves on a cluster that are out over a link bring nothing: each block is asked for again. -/
def State.cancelFetches (s : State) (cl ctx : Nat) (p : Nat → Bool) : State :=
  let k := s.cluster cl
  let out (row : Nat) (w : Wave) : Bool :=
    w.ctx == ctx && (s.hostReqs ++ s.peerReqs).any (fun r =>
      w.waiting == some r.1 && (match r.2.ask with
        | .fetch c r' b => c == cl && r' == row && p b
        | _ => false))
  s.setCluster cl { k with waves := k.waves.map (fun x => (x.1, if out x.1 x.2 then { x.2 with waiting := none } else x.2)) }

/-- The code that a cluster keeps for a context outside its waves' fetch buffers goes: each block is read at its home again
(16 R280). -/
def State.dropBlocks (s : State) (cl ctx : Nat) : State :=
  let s := s.cancelFetches cl ctx (fun _ => true)
  let k := s.cluster cl
  s.setCluster cl { k with icache := k.icache.filter (fun b => b.ctx ≠ ctx) }

/-- What stands at an address of code. -/
inductive AtPc where
  | instr (i : Instr) (len : Nat) (s : State)
  | illegal (parcel : Word) (s : State)
  | fault (cause va : Nat)
  | wait (s : State)

/-- Decodes at an address: an instruction that would cross a 32-byte boundary is illegal (12 R202). -/
def State.decodeAt (s : State) (cl row pc : Nat) : AtPc :=
  match s.fetchBlock cl row pc with
  | .fault c va => .fault c va
  | .wait s => .wait s
  | .block bs s =>
    let ps := parcelsOfBytes (bs.drop (pc % 32))
    match decodeParcels ps with
    | some (i, len) => .instr i len s
    | none => .illegal (ps.headD 0) s

/-- What the ENTRY check finds (14 R234). -/
inductive EntryCheck where
  | ok (s : State)
  | noEntry
  | fault (cause va : Nat)
  | wait (s : State)

/-- Looks for ENTRY at an address, past FILL parcels (14 R234). -/
def State.checkEntry (s : State) (cl row : Nat) : Nat → Nat → EntryCheck
  | 0, _ => .noEntry
  | fuel + 1, pc =>
    match s.decodeAt cl row pc with
    | .fault c va => .fault c va
    | .wait s => .wait s
    | .illegal _ _ => .noEntry
    | .instr i _ s =>
      match i with
      | .fill => s.checkEntry cl row fuel ((pc + 4) % 2 ^ 64)
      | .entry _ => .ok s
      | _ => .noEntry

/-- How far the ENTRY check looks through FILL parcels (DEDUCED, log 69). -/
def entryFuel : Nat := 2 ^ 62

/-- The exact fault of a fetch (14 R229). -/
def fetchTrap (pc cause va : Nat) : TrapRec :=
  { cause := cause, iaddr := pc, resume := pc, vaddr := va, access := 4 }

/-- Goes on at a target that must hold ENTRY: the wave has moved there when a check fails (14 R229, R234). -/
def jumpEntry (s : State) (t : Nat) (link : Option Nat) : Attempt State :=
  let moved (s : State) : State :=
    let s := s.updW (fun w => { w with pc := t })
    match link with
    | some x => s.setS 127 (BitVec.ofNat 64 x)
    | none => s
  let unchecked (s : State) : State := (moved s).updW (fun w => { w with needEntry := true })
  match s.checkEntry s.cur.1 s.cur.2 entryFuel t with
  | .ok s' => .ok (moved s')
  | .wait _ => holdWith .dep (fun o =>
      match o.checkEntry o.cur.1 o.cur.2 entryFuel t with
      | .wait o' => o'
      | _ => o)
  | .noEntry => .error (.trap (fun _ => unchecked s) { cause := 0x12, iaddr := s.w.pc, resume := t })
  | .fault c va => .error (.trap (fun _ => unchecked s) (fetchTrap t c va))

end Sys2Proof.Machine
end

