-- ==== Sys2Proof/Machine/Operands.lean ====
section
/-!
DEFINITION. The operand forms: immediates, second operands that are a register or an immediate, integer types, lane
addresses and the shapes that scalar, mask and vector instructions share.
-/
namespace Sys2Proof.Machine

/-- A 32-bit immediate as a 64-bit operand (14 R241). -/
def sext (imm : Word) : DWord := imm.signExtend 64

/-- The address a branch offset gives (14 R229). -/
def branchTarget (pc : Nat) (off : Word) : Nat := (((pc : Int) + 4 * off.toInt) % 2 ^ 64).toNat

/-- A second operand: a register, or the immediate of the 96-bit form. -/
inductive Second (ρ : Type) where
  | reg (r : ρ)
  | imm (x : Word)

/-- Reads a scalar second operand. -/
def readS2 (s : State) : Second SReg → Attempt (DWord × State)
  | .reg r => readS s r
  | .imm x => .ok (sext x, s)

/-- A scalar instruction of two operands (14 R240). -/
def scalarOp (h : Hints) (len : Nat) (d a : SReg) (b : Second SReg) (f : DWord → DWord → DWord) (s : State) :
    Host.Outcome State Fault Refusal :=
  run h 0 len s fun s => do
    let (x, s) ← readS s a
    let (y, s) ← readS2 s b
    writeS s d (f x y)

/-- Whether an integer predicate holds of two numbers (13 R227). -/
def intPred (p : IntPred) (x y : Int) : Bool :=
  match p with
  | .eq => decide (x = y)
  | .ne => decide (x ≠ y)
  | .lt => decide (x < y)
  | .le => decide (x ≤ y)
  | .gt => decide (y < x)
  | .ge => decide (y ≤ x)

/-- A 64-bit value under .i64 or .n64. -/
def scalarVal (n : Bool) (x : DWord) : Int := if n then (x.toNat : Int) else x.toInt

/-- Width of a vector integer type. -/
def typeWidth (ty : VType) : Nat := if ty.is64 then 64 else 32

/-- A w-bit pattern as a number of a type (15 R251). -/
def typeVal (ty : VType) (x : Nat) : Int := if ty.signed then signedOf (typeWidth ty) x else (x % 2 ^ typeWidth ty : Nat)

/-- The least and greatest number of a type. -/
def typeMin (ty : VType) : Int := if ty.signed then -(2 ^ (typeWidth ty - 1)) else 0
def typeMax (ty : VType) : Int := if ty.signed then 2 ^ (typeWidth ty - 1) - 1 else 2 ^ typeWidth ty - 1

/-- The w-bit pattern of an exact result, clamped first under .sat (15 R251). -/
def typeResult (ty : VType) (sat : Bool) (z : Int) : Nat :=
  let z := if sat then max (typeMin ty) (min (typeMax ty) z) else z
  (z % 2 ^ typeWidth ty).toNat

/-- The pattern of a 32-bit immediate at a width (15 R248). -/
def immBits (wide : Bool) (imm : Word) : Nat := if wide then (imm.signExtend 64).toNat else imm.toNat

/-- Reads a vector second operand as lane patterns. -/
def readV2 (s : State) (wide : Bool) (act : Nat → Bool) : Second VReg → Attempt (Nat → Nat)
  | .reg r => readVW s wide r.toNat act
  | .imm x => .ok (fun _ => immBits wide x)

/-- A vector instruction of two operands: every active lane gets f of its patterns (15 R247). -/
def vectorOp (h : Hints) (floor len : Nat) (k : KReg) (wide : Bool) (d a : VReg) (b : Second VReg)
    (f : Nat → Nat → Nat) (s : State) : Host.Outcome State Fault Refusal :=
  run h floor len s fun s => do
    let act ← active s k
    let x ← readVW s wide a.toNat act
    let y ← readV2 s wide act b
    writeVW s wide d.toNat (onActive act (fun l => f (x l) (y l)))

/-- A vector instruction of two operands whose result is a mask; inactive lanes get 0 (15 R254). -/
def vectorCmp (h : Hints) (floor len : Nat) (k : KReg) (wide : Bool) (d : KReg) (a : VReg) (b : Second VReg)
    (f : Nat → Nat → Bool) (s : State) : Host.Outcome State Fault Refusal :=
  run h floor len s fun s => do
    let act ← active s k
    let x ← readVW s wide a.toNat act
    let y ← readV2 s wide act b
    writeK s d (maskOf (fun l => act l && f (x l) (y l)))

/-- Bytes of an element of a memory type (16 R276). -/
def memSize : MemType → Nat
  | .b32 | .i32 | .n32 | .f32 => 4
  | .b64 | .i64 | .n64 => 8
  | .i8 | .n8 => 1
  | .i16 | .n16 => 2

/-- A memory type that extends the sign. -/
def memSigned : MemType → Bool
  | .i8 | .i16 | .i32 | .i64 => true
  | .b32 | .b64 | .n8 | .n16 | .n32 | .n64 | .f32 => false

/-- The index of each lane (16 R272). -/
def readIndex (s : State) (act : Nat → Bool) : Index → Attempt (Nat → Int)
  | .noIndex => .ok (fun _ => 0)
  | .lane => .ok (fun l => (l : Int))
  | .vec r signed => do
    let v ← readV s r.toNat act
    pure (fun l => if signed then (v l).toInt else ((v l).toNat : Int))

/-- The address of each lane (16 R272): base + index × scale + displacement modulo 2^64. -/
def laneAddr (base : DWord) (idx : Nat → Int) (scale : Nat) (disp : Int) (l : Nat) : Nat :=
  (((base.toNat : Int) + idx l * scale + disp) % 2 ^ 64).toNat

/-- A scalar address: base + displacement modulo 2^64. -/
def scalarAddr (base : DWord) (disp : Word) : Nat := (base + sext disp).toNat

end Sys2Proof.Machine
end

