-- ==== Sys2Proof/Machine/Access.lean ====
section
/-!
DEFINITION. Accesses of waves: the checks of one lane, the packets and lateral accesses they become, the outbound order,
and the landing of returned values in registers (02 R34, R35; 05 R85; 06 R101 to R108; 07 R120, R124).
-/
namespace Sys2Proof.Machine

/-- The publication window of a partition that covers a host-window address (07 R124). -/
def State.windowOf (s : State) (part pa : Nat) : Option Nat :=
  match mget s.parts part with
  | none => none
  | some p =>
    ((p.windows.find? (fun w =>
      w.2.en && decide (w.2.base ≤ pa / 4096) && decide (pa / 4096 ≤ w.2.limit))).map Prod.fst)

/-- The operations and widths that an atomic place offers (07 R120). -/
def atomOffered (ap : Nat) (op : AtomOp) (ty : MemType) : Bool :=
  match op with
  | .add => ap ≠ 3 || ty != .f32
  | .exch | .cas => true
  | .and | .or | .xor | .min | .max => ap == 0 || ap == 1

/-- A write to a page with PW = 1 that lies in no enabled window (07 R124). -/
def State.unwindowed (s : State) (cl ctx va : Nat) (kind : Kind) : Bool :=
  match mget s.ctxs ctx with
  | none => false
  | some c =>
    match s.lookup cl ctx c va with
    | .error _ => false
    | .ok (pa, attr) =>
      match region pa with
      | .host _ => kind == .write && attrPw attr && (s.windowOf c.part pa).isNone
      | _ => false

/-- Every check of one access, in the order of 02 R34 with 07 R120: the physical address and attributes, or the cause. -/
def State.checkAccess (s : State) (cl ctx va size : Nat) (kind : Kind) (atom : Option (AtomOp × MemType)) :
    Except Nat (Nat × Nat) :=
  if !canonical va then .error causeNonCanonical
  else if va % size ≠ 0 then .error causeMisaligned
  else
    match s.translate cl ctx va kind with
    | .error c =>
      if (c == causePermission || c == causeMalformed) && s.unwindowed cl ctx va kind then .error causeNoTarget
      else .error c
    | .ok (pa, attr) =>
      if s.unwindowed cl ctx va kind then .error causeNoTarget
      else
        match atom with
        | some (op, ty) =>
          if !atomOffered (attrAp attr) op ty then .error causeAtomicPlace
          else if s.poisoned pa size then .error causeDataError
          else .ok (pa, attr)
        | none => if kind == .read && s.poisoned pa size then .error causeDataError else .ok (pa, attr)

/-- The KIND of a packet that carries an access, and its length in flits (05 R85). -/
def accessKind : AccKind → Nat × Nat
  | .load => (0, 1)
  | .store => (2, 2)
  | .atomic _ _ => (3, 1)
  | .barrive => (3, 1)
  | .binapp => (3, 2)
  | .semRel => (0xA, 1)

/-- Gives a packet with nothing left to wait for its place in the outbound order. -/
def enterOne (s : State) (id : Nat) : State :=
  match mget s.packets id with
  | none => s
  | some p =>
    match p.body with
    | .access a =>
      if p.stamp = 0 && a.after.all (fun i => !s.isPending i) then
        let (n, s) := s.newId
        { s with packets := mset s.packets id { p with stamp := n } }
      else s
    | _ => s

/-- Accesses whose predecessors have all performed enter the outbound order of their cluster (06 R105). -/
def State.enterOutbound (s : State) : State := (s.packets.map Prod.fst).foldl enterOne s

/-- Sends an access on its way: to its home slice over the Braid, or over the lateral network. -/
def State.sendAccess (s : State) (a : Access) : State :=
  let (id, s) := s.newId
  match region a.pa with
  | .vault _ | .checkpoint | .control | .reserved => { s with laterals := mset s.laterals id a }
  | .hbm _ | .safe _ | .cxl _ | .host _ | .peer _ =>
    let part := s.partOfCtx a.tag.ctx
    let (kind, flits) := accessKind a.kind
    let p : Packet :=
      { kind := kind, src := clusterSite a.tag.cl, dst := sliceSite (s.homeOf part a.pa), part := part
        ctx := a.tag.ctx, flits := flits, body := .access a }
    enterOne { s with packets := mset s.packets id p } id

/-- The order and scope of an access: an acquire, and what a release waits for. -/
def isAcquire (o : Order) (sc : Scope) : Bool := (o == .acq || o == .ar) && sc != .wave
def isRelease (o : Order) (sc : Scope) : Bool := (o == .rel || o == .ar) && sc != .wave

/-- What the write part of an instruction waits for on account of its order (06 R104, R106). -/
def State.releasePoint (s : State) (o : Order) (sc : Scope) : List Nat :=
  if isRelease o sc then s.pointAt s.tag sc else []

/-- What one lane does: its lane and address, what it stores, and where its value goes. -/
structure LaneAcc where
  lane : Nat
  va : Nat
  data : Nat := 0
  data2 : Nat := 0
  dest : Dest := .none

/-- A lane access that passed its checks. -/
structure Checked where
  acc : LaneAcc
  pa : Nat
  attr : Nat

/-- Checks every lane before any performs (16 R273): the lanes checked, or the exact fault (02 R35). -/
def checkLanes (s : State) (size : Nat) (kind : Kind) (atom : Option (AtomOp × MemType)) (lanes : List LaneAcc) :
    Attempt (List Checked) :=
  let results := lanes.map (fun l => (l, (s.accessOf l.lane).checkAccess s.cur.1 s.w.ctx l.va size kind atom))
  match results.filterMap (fun r => match r.2 with
      | .error c => some (r.1, c)
      | .ok _ => none) with
  | [] =>
    .ok (results.filterMap (fun r => match r.2 with
      | .ok x => some { acc := r.1, pa := x.1, attr := x.2 }
      | .error _ => none))
  | (l, c) :: more =>
    memTrap s c kind l.va (maskOf (fun i => ((l, c) :: more).any (fun x => x.1.lane == i)))

/-- Checks a scalar access (02 R35). A fault of it leaves LANES 0 (DEDUCED, log 78). -/
def scalarCheck (s : State) (va size : Nat) (kind : Kind) (atom : Option (AtomOp × MemType)) : Attempt Checked :=
  match s.checkAccess s.cur.1 s.w.ctx va size kind atom with
  | .error c => memTrap s c kind va 0
  | .ok x => .ok { acc := { lane := 0, va := va }, pa := x.1, attr := x.2 }

/-- Notes that translations of checked accesses have been used (02 R39). -/
def useAll (s : State) (l : List Checked) : State := l.foldl (fun s c => s.cacheUse s.cur.1 s.w.ctx c.acc.va) s

/-- Sends the lanes of one operation. Each waits for the wave's own overlapping accesses, for what orders it, and for
extra points. They enter the outbound order in ascending lanes, so that their atomics at one home perform in that order
(DESIGN CHOICE, log 108). -/
def sendLanes (s0 : State) (op : Nat) (kind : AccKind) (size : Nat) (signed : Bool) (extra : List Nat)
    (lanes : List Checked) (s : State) : State :=
  let order := s0.orderAfter (AccessKind.isWrite kind)
  lanes.foldl (fun s c =>
    s.sendAccess
      { op := op, tag := s0.tag, kind := kind, va := c.acc.va, pa := c.pa, size := size, data := c.acc.data
        data2 := c.acc.data2, signed := signed, dest := c.acc.dest, ap := attrAp c.attr, pw := attrPw c.attr, ca := attrCa c.attr
        after := s0.ownOverlap c.pa size ++ order ++ extra }) s

/-- Issues one counted operation over checked lanes; with no lane the order still acts as a FENCE (06 R107)
(DESIGN CHOICE, log 72). -/
def issueLanes (s : State) (o : Order) (sc : Scope) (kind : AccKind) (size : Nat) (signed : Bool) (op : Op)
    (lanes : List Checked) : State :=
  match lanes with
  | [] => if o = .rlx then s else s.fenceEffect o sc
  | _ =>
    let (id, s1) := s.newOp { op with left := lanes.length }
    let s2 := useAll (sendLanes s id kind size signed (s.releasePoint o sc) lanes s1) lanes
    if isAcquire o sc && AccessKind.isLoad kind then s2.noteAcquire else s2

/-- Of lanes that store to the same bytes only the highest-numbered makes its write (06 R103). -/
def highestOnly : List Checked → List Checked
  | [] => []
  | c :: t => if t.any (fun d => d.pa == c.pa) then highestOnly t else c :: highestOnly t

/-! ### Returned values -/

/-- A value of size bytes extended to 64 bits. -/
def extendTo64 (size : Nat) (signed : Bool) (x : Nat) : Nat :=
  if signed then ((signedOf (8 * size) x) % 2 ^ 64).toNat else x % 2 ^ (8 * size)

/-- The wave a tag names, if its row still holds it. -/
def State.residentOf (s : State) (t : WTag) : Option Wave :=
  match s.waveAt? t.cl t.row with
  | some w => if w.ctx = t.ctx && w.wgx = t.wgx && w.wnum = t.wnum && w.launch = t.launch then some w else none
  | none => none

/-- Writes one 32-bit lane of a register of a resident wave, in the file or in its backing area. A backing write that
fails leaves a JOB 6 record (10 R175). -/
def State.landLane (s : State) (t : WTag) (w : Wave) (r lane : Nat) (x : Word) : State :=
  if r < w.bound then
    s.updWave t.cl t.row (fun w => { w with v := msetD w.v (128 * r + lane) 0 x })
  else
    let a := s.backingAddr (s.ctxOf w.ctx) t.cl w.wgx w.wnum r + 4 * lane
    match s.hwWrite t.cl w.ctx a (natToBytes 4 x.toNat) with
    | .ok s' => s'
    | .error e => s.hwFault t.cl w.ctx e.1 e.2 3 0 w.pc

/-- A returned value lands in the registers of a resident wave. -/
def State.landResident (s : State) (t : WTag) (w : Wave) (d : Dest) (x : Nat) : State :=
  match d with
  | .none => s
  | .lane r lane wide =>
    let s := s.landLane t w r lane (BitVec.ofNat 32 x)
    if wide then s.landLane t w (r + 1) lane (BitVec.ofNat 32 (x / 2 ^ 32)) else s
  | .scalar .zs => s
  | .scalar (.s n) => s.updWave t.cl t.row (fun w => { w with s := msetD w.s n.toNat 0 (BitVec.ofNat 64 x) })
  | .scalar (.q n) =>
    s.updWg t.cl t.wgslot (fun g =>
      { g with queues := g.queues.set n.toNat (let q := g.queues.getD n.toNat { depth := 0, entries := [] }
                                               { q with entries := q.entries ++ [BitVec.ofNat 64 x] }) })
  | .mask r => s.updWave t.cl t.row (fun w => { w with k := msetD w.k r 0 (BitVec.ofNat 128 x) })

end Sys2Proof.Machine
end

