-- ==== Sys2Proof/Machine/Flags.lean ====
section
/-!
DEFINITION. The sticky flags of lanes and cells, the flag registers, and what TRAPF finds (09 R158 to R160; 11 R192; 24 R343).
-/
namespace Sys2Proof.Machine

/-- The OR of the flags a table of flags holds. -/
def orAll (m : SMap FFlags) : FFlags := m.foldl (fun acc x => acc ||| x.2) 0

/-- A flag register as it reads: EN in [20:16], FLAGS in [4:0]. -/
def flagWord (en fl : FFlags) : DWord := BitVec.ofNat 64 (en.toNat * 2 ^ 16 + fl.toNat)

/-- EN as a write sets it. -/
def enOf (x : DWord) : FFlags := x.extractLsb' 16 5

/-- The flags a write clears in every lane or cell. -/
def clearFlags (m : SMap FFlags) (x : DWord) : SMap FFlags :=
  m.foldl (fun acc e => msetD acc e.1 0 (mgetD m e.1 0 &&& ~~~(x.extractLsb' 0 5))) []

/-- %fflags of a wave (09 R159). -/
def Wave.fflags (w : Wave) : DWord := flagWord w.fflagsEn (orAll w.lflags)

/-- A write of %fflags. -/
def Wave.writeFflags (w : Wave) (x : DWord) : Wave :=
  { w with fflagsEn := enOf x, lflags := clearFlags w.lflags x }

/-- The plane of the cluster, if the workgroup of a wave holds it (10 R172). -/
def State.heldPlane (s : State) (cl : Nat) (w : Wave) : Option Plane :=
  match (s.cluster cl).plane with
  | some p => if p.ctx = w.ctx && p.wgslot = w.wgslot then some p else none
  | none => none

/-- The plane held by the workgroup of the wave whose instruction runs. -/
def State.myPlane (s : State) : Option Plane := s.heldPlane s.cur.1 s.w

/-- Replaces the plane of a cluster. -/
def State.setPlane (s : State) (cl : Nat) (p : Option Plane) : State :=
  s.setCluster cl { s.cluster cl with plane := p }

/-- The wave that owns a job. -/
def Job.owner (j : Job) : WTag :=
  j.tags.headD { ctx := 0, cl := 0, wgslot := 0, wgx := 0, row := 0, wnum := 0, stage := 0, launch := 0 }

/-- Every access of a job has performed. -/
def Job.done (j : Job) : Bool := j.pos == j.total && j.flight.isEmpty && j.pieces.all (fun p => p.2 == 0)

/-- A plane load of the wave's workgroup has steps still to take, or cells to write and their flags to raise (22 R319, R328). -/
def State.planeLoading (s : State) : Bool :=
  let t := s.w
  s.myPlane.isSome && s.jobs.any (fun j =>
    match j.2.kind with
    | .planeLoad _ _ =>
      j.2.owner.cl == s.cur.1 && j.2.owner.ctx == t.ctx && j.2.owner.wgslot == t.wgslot &&
        (!j.2.done || decide (j.2.stepsPaid < j.2.steps))
    | _ => false)

/-- TRAPF and the accesses of %pflags wait until the plane instructions before them have raised their flags (09 R160; 11
R192; 24 R343). -/
def flagsRaised (s : State) : Attempt Unit := if s.planeLoading then hold .dep else .ok ()

/-- %pflags as a wave reads it (09 R160). -/
def State.pflags (s : State) : DWord :=
  match s.myPlane with
  | some p => flagWord p.en (orAll p.flags)
  | none => 0

/-- A write of %pflags; nothing where the workgroup does not hold the plane. -/
def State.writePflags (s : State) (x : DWord) : State :=
  match s.myPlane with
  | some p => s.setPlane s.cur.1 (some { p with en := enOf x, flags := clearFlags p.flags x })
  | none => s

/-- The enabled flags of a table. -/
def enabledFlags (m : SMap FFlags) (en : FFlags) : SMap FFlags :=
  (m.map (fun e => (e.1, e.2 &&& en))).filter (fun e => e.2 ≠ 0)

/-- A bit map of the keys of a table. -/
def keyMap (w : Nat) (m : SMap FFlags) : BitVec w := BitVec.ofNat w (m.foldl (fun acc e => acc + 2 ^ e.1) 0)

/-- What TRAPF raises (11 R192): ARITH first, then PLANE_ARITH. -/
def State.trapfRec (s : State) : Option TrapRec :=
  let w := s.w
  let lanes := enabledFlags w.lflags w.fflagsEn
  if lanes ≠ [] then
    some { cause := 0x16, iaddr := w.pc, resume := w.pc, lanes := keyMap 128 lanes, flags := orAll lanes }
  else match s.myPlane with
    | none => none
    | some p =>
      let cells := enabledFlags p.flags p.en
      if cells ≠ [] then
        some { cause := 0x17, iaddr := w.pc, resume := w.pc, cells := keyMap 4096 cells, flags := orAll cells }
      else none

/-- Adds flags to a lane or cell. -/
def raiseAt (m : SMap FFlags) (n : Nat) (f : FFlags) : SMap FFlags := msetD m n 0 (mgetD m n 0 ||| f)

end Sys2Proof.Machine
end

