-- ==== Sys2Proof/Machine/Control.lean ====
section
/-!
DEFINITION. The control instructions (14 R228 to R239).
-/
namespace Sys2Proof.Machine

/-- FILL takes no issue cycle: the wave goes on at the next parcel, and its issue time stays (14 R231). -/
def execFill (s : State) : Host.Outcome State Fault Refusal :=
  match s.curWave? with
  | none => .fault .noWave
  | some w => .next { s.setW { w with pc := (w.pc + 4) % 2 ^ 64 } with issued := true }

/-- NOP (14 R231). -/
def execNop (h : Hints) (s : State) : Host.Outcome State Fault Refusal := run h 0 8 s fun s => .ok s

/-- ENTRY in sequence (14 R231). -/
def execEntry (h : Hints) (s : State) : Host.Outcome State Fault Refusal := run h 0 8 s fun s => .ok s

/-- Goes to the target of a 96-bit branch, or past it. -/
def State.branch (s : State) (taken : Bool) (off : Word) : State :=
  s.updW (fun w => { w with pc := if taken then branchTarget w.pc off else (w.pc + 12) % 2 ^ 64 })

/-- BR (14 R232). -/
def execBr (h : Hints) (off : Word) (s : State) : Host.Outcome State Fault Refusal :=
  runJump h s fun s => .ok (s.branch true off)

/-- The condition of BRS. -/
def brsTaken (c : BrsCond) (x : DWord) : Bool :=
  match c with
  | .z => x == 0
  | .nz => x != 0
  | .neg => x.msb
  | .nneg => !x.msb

/-- BRS (14 R232). -/
def execBrs (h : Hints) (c : BrsCond) (a : SReg) (off : Word) (s : State) : Host.Outcome State Fault Refusal :=
  runJump h s fun s => do
    let (x, s) ← readS s a
    pure (s.branch (brsTaken c x) off)

/-- The vote of BRV over all lanes of a mask. -/
def voteTaken (v : Vote) (m : Mask) : Bool :=
  match v with
  | .any => m != 0
  | .all => m == BitVec.allOnes 128
  | .noneSet => m == 0

/-- BRV (14 R232). -/
def execBrv (h : Hints) (v : Vote) (km : KReg) (off : Word) (s : State) : Host.Outcome State Fault Refusal :=
  runJump h s fun s => do
    let m ← readK s km
    pure (s.branch (voteTaken v m) off)

/-- BRU (14 R232): a mixed mask traps. -/
def execBru (h : Hints) (km : KReg) (off : Word) (s : State) : Host.Outcome State Fault Refusal :=
  runJump h s fun s => do
    let m ← readK s km
    if m = BitVec.allOnes 128 then pure (s.branch true off)
    else if m = 0 then pure (s.branch false off)
    else plainTrap s 0x11

/-- CALL (14 R234). -/
def execCall (h : Hints) (off : Word) (s : State) : Host.Outcome State Fault Refusal :=
  runJump h s fun s => do
    ready s (.s 127)
    jumpEntry s (branchTarget s.w.pc off) (some (s.w.pc + 12))

/-- The 8-byte read of an entry (14 R236): after the wave's own stores to it and what orders it, and in the outbound order
of its cluster. Over a link it waits for the answer. -/
def entryRead (s : State) (va : Nat) : Attempt (Nat × State) :=
  match s.checkAccess s.cur.1 s.w.ctx va 8 .read none with
  | .error c => memTrap s c .read va 0
  | .ok (pa, attr) => do
    match ← readNow s pa 8 (attrCa attr) with
    | (some b, s) => pure (bytesToNat b, s)
    | (none, _) => memTrap s causeDataError .read va 0

/-- The wave forgets its fetched bytes: the effect of IFENCE on fetch (16 R280). -/
def State.dropFetched (s : State) : State :=
  (s.dropBlocks s.cur.1 s.w.ctx).updW (fun w => { w with fetched := [] })

/-- What .acq adds to a jump once its entry has come: the fetched bytes go, and the wave has acquired (14 R236, 16 R280). -/
def State.jumpAcquired (s : State) : State := s.dropFetched.noteAcquire

/-- CALLT and JMPT (14 R234, R236). Under .acq the wave's earlier accesses perform first, as for IFENCE (02 R44, 16 R280), and the
entry at an address is read once: the fetched bytes go when it has come, and the blocks that the target needs are then
waited for without reading it again. -/
def tableJump (h : Hints) (o : Order) (sc : Scope) (a : SReg) (link : Bool) (s : State) :
    Host.Outcome State Fault Refusal :=
  runJump h s fun s => do
    if link then ready s (.s 127)
    let (x, s) ← readS s a
    let go (s : State) (e : Nat) : Attempt State := jumpEntry s (e / 4 * 4) (if link then some (s.w.pc + 8) else none)
    if o = .acq && sc ≠ .wave then do
      waitPoint s .dev
      match s.w.entry.filter (fun e => e.1 == x.toNat) with
      | some e => go s e.2
      | none => do
        let (e, s) ← entryRead s x.toNat
        match go s.jumpAcquired e with
        | .error (.held why note) =>
          .error (.held why (fun o => note (o.jumpAcquired.updW (fun w => { w with entry := some (x.toNat, e) }))))
        | .error (.trap note r) => .error (.trap (fun o => note o.jumpAcquired) r)
        | r => r
    else do
      let (e, s) ← entryRead s x.toNat
      go s e

def execCallt (h : Hints) (o : Order) (sc : Scope) (a : SReg) (s : State) : Host.Outcome State Fault Refusal :=
  tableJump h o sc a true s

def execJmpt (h : Hints) (o : Order) (sc : Scope) (a : SReg) (s : State) : Host.Outcome State Fault Refusal :=
  tableJump h o sc a false s

/-- RET (14 R234). -/
def execRet (h : Hints) (s : State) : Host.Outcome State Fault Refusal :=
  runJump h s fun s => do
    ready s (.s 127)
    pure (s.updW (fun w => { w with pc := (mgetD w.s 127 0).toNat / 4 * 4 }))

/-- LOOP (14 R233). -/
def execLoop (h : Hints) (d : BitVec 7) (off : Word) (s : State) : Host.Outcome State Fault Refusal :=
  runJump h s fun s => do
    ready s (.s d.toNat)
    let x := mgetD s.w.s d.toNat 0 - 1
    pure ((s.setS d.toNat x).branch (x != 0) off)

/-- The value of a scalar operand without popping a queue. -/
def State.peekS (s : State) (w : Wave) (cl : Nat) : SReg → Option DWord
  | .zs => some 0
  | .s n => some (mgetD w.s n.toNat 0)
  | .q n =>
    match ((mgetD (s.cluster cl).wgs w.wgslot Wg.zero).queues.getD n.toNat { depth := 0, entries := [] }).entries with
    | e :: _ => some e
    | [] => none

/-- Acts as another wave of the same cluster. -/
def State.asRow (s : State) (row : Nat) : State := { s with cur := (s.cur.1, row) }

/-- Reads scalar operands of several waves of a cluster in turn, popping the queues they share: each wave's values
(DEDUCED, log 35). -/
def readScalars (s : State) : List (Nat × List SReg) → Attempt (List (Nat × List DWord) × State)
  | [] => .ok ([], s)
  | (row, regs) :: t => do
    let (vals, s1) ← regs.foldlM (fun (acc : List DWord × State) r => do
      let (x, s) ← readS acc.2 r
      pure (acc.1 ++ [x], s)) ([], s.asRow row)
    let (rest, s2) ← readScalars { s1 with cur := s.cur } t
    pure ((row, vals) :: rest, s2)

/-- The waves of a workgroup that wait at the crossbar, with the register of each one's list. -/
def State.crossing (s : State) (cl wgslot : Nat) : List (Nat × SReg) :=
  (s.cluster cl).waves.filterMap (fun x =>
    if x.2.wgslot ≠ wgslot then none
    else match x.2.arrived with
      | some (.reorder _ _ _ _ b _) => some (x.1, b)
      | _ => none)

/-- The lists of waves that wait at the crossbar, by row; some waves read theirs first, and must find them. One that waits on
an empty queue has none yet. -/
def crossLists (s : State) (first : List (Nat × SReg)) (cl wgslot : Nat) : Attempt (SMap Nat) := do
  let (l, s) ← readScalars s (first.map (fun x => (x.1, [x.2])))
  let rest := (s.crossing cl wgslot).filter (fun x => !first.any (fun y => y.1 == x.1))
  let (l, _) := rest.foldl (fun (acc : List (Nat × List DWord) × State) x =>
    match readScalars acc.2 [(x.1, [x.2])] with
    | .ok (m, s) => (acc.1 ++ m, s)
    | .error _ => acc) (l, s)
  pure (l.map (fun x => (x.1, ((x.2.headD 0).toNat) % 2 ^ 16)))

/-- The waves, by workgroup-local number, that an arrived wave waits for: the list of a REORDER or its gang. -/
def State.awaits (s : State) (cl row : Nat) (w : Wave) : Nat :=
  match w.arrived with
  | some (.reorder _ _ _ _ _ _) =>
    match crossLists { s with cur := (cl, row) } [] cl w.wgslot with
    | .ok l => (mget l row).getD 0
    | .error _ => 0
  | some _ => w.gang.toNat
  | none => 0

/-- Every wave of a workgroup that waits for wave n faults with GANG_MISMATCH (10 R177, 15 R270). -/
def State.failWaiters (s : State) (cl wgslot n : Nat) : State :=
  let hit := (s.cluster cl).waves.filter (fun x => x.2.wgslot == wgslot && tbit (s.awaits cl x.1 x.2) n)
  hit.foldl (fun s x =>
    let s := s.takeTrap cl x.1 { cause := 0x13, iaddr := x.2.pc, resume := x.2.pc }
    let k := s.cluster cl
    s.setCluster cl { k with latch := without x.1 k.latch }) s

/-- EXIT (14 R237): a held record traps first; otherwise the row drains. -/
def execExit (h : Hints) (s : State) : Host.Outcome State Fault Refusal :=
  runJump h s fun s =>
    match s.w.held with
    | r :: _ => trapWith (asyncTrap s.w.pc r)
    | [] =>
      let w := s.w
      let s := s.updW (fun w => { w with draining := true })
      let s := s.updWg s.cur.1 w.wgslot (fun g => { g with exited := without w.wnum g.exited ++ [w.wnum] })
      .ok (s.failWaiters s.cur.1 w.wgslot w.wnum)

/-- TRAP (14 R238). -/
def execTrap (h : Hints) (code : Word) (s : State) : Host.Outcome State Fault Refusal :=
  runJump h s fun s =>
    trapWith { cause := 0x15, iaddr := s.w.pc, resume := s.w.pc + 12, info := code.toNat }

/-- TRAPF (11 R192). -/
def execTrapf (h : Hints) (s : State) : Host.Outcome State Fault Refusal :=
  run h 0 8 s fun s => do
    flagsRaised s
    match s.trapfRec with
    | some r => trapWith r
    | none => .ok s

/-- PHASE (14 R239). -/
def execPhase (h : Hints) (ph : BitVec 4) (s : State) : Host.Outcome State Fault Refusal :=
  run h 0 8 s fun s => .ok (s.updW (fun w => { w with phase := ph }))

end Sys2Proof.Machine
end

