-- ==== Sys2Proof/Machine/Home.lean ====
section
/-!
DEFINITION. What a cluster's ingress and a home slice do beside reading and writing: diversion entries and shadows,
semaphores, barrier lines, and stores to lines that hold barriers and task queues (02 R38; 03 R62, R63; 07 R118; 08 R129
to R135, R141; 16 R283 to R288).
-/
namespace Sys2Proof.Machine

/-! ### Semaphores -/

/-- Changes a semaphore of a context on a cluster where the context holds a slot. -/
def State.updSem (s : State) (cl ctx sem : Nat) (f : Sem → Sem) : State :=
  let k := s.cluster cl
  s.setCluster cl { k with
    slots := k.slots.map (fun x =>
      (x.1, if x.2.ctx == ctx then { x.2 with sems := msetD x.2.sems sem {} (f (mgetD x.2.sems sem {})) } else x.2)) }

/-- A semaphore as the file holds it. -/
def State.semOf (s : State) (cl ctx sem : Nat) : Sem :=
  match (s.cluster cl).slots.find? (fun x => x.2.ctx == ctx) with
  | some x => mgetD x.2.sems sem {}
  | none => {}

def State.holdsSlot (s : State) (cl ctx : Nat) : Bool := (s.cluster cl).slots.any (fun x => x.2.ctx == ctx)

/-- An add to a semaphore waits at the ingress: its file is being written out or merged (08 R135). -/
def State.semWaits (s : State) (cl ctx : Nat) : Bool :=
  match s.semsEntry cl ctx with
  | some e => e.state ≠ .active
  | none => false

/-- Adds to a semaphore: to the count, to DELTA of a diverted file, or nowhere where the context has neither (16 R284, 08
R134). A DELTA that cannot be written loses the add and marks the context fault-pending. -/
def State.semAdd (s : State) (cl ctx sem n : Nat) : State :=
  match s.semsEntry cl ctx with
  | some e =>
    let a := e.shadow + 16 * sem + 4
    match s.readArea cl ctx a 4 with
    | .error x => (s.hwFault cl ctx x.1 x.2 2 0 0).markPending ctx
    | .ok (b, s) =>
      match s.hwWrite cl ctx a (natToBytes 4 (bytesToNat b + n)) with
      | .error x => (s.hwFault cl ctx x.1 x.2 2 0 0).markPending ctx
      | .ok s' => s'
  | none => s.updSem cl ctx sem (fun m => { m with count := (m.count + n) % 2 ^ 32 })

/-- Gives a semaphore a fault record (02 R38, 16 R283): one is held; a further one goes to the fault log. -/
def State.semFault (s : State) (cl ctx sem : Nat) (r : JobRec) : State :=
  match (s.semOf cl ctx sem).held with
  | none => s.updSem cl ctx sem (fun m => { m with error := true, held := some r })
  | some _ => s.appendRecord r

/-! ### Barriers (16 R285, R286) -/

/-- STATE of a barrier line, and its codes. -/
def barrierValid : Nat := 1
def barrierBroken : Nat := 2
def outcomeReleased : Nat := 1
def outcomeBroken : Nat := 2
def outcomeInvalid : Nat := 3

/-- The fields of a barrier line. -/
structure BarrierLine where
  gen : Nat
  arrived : Nat
  expect : Nat
  state : Nat
  deriving DecidableEq, Repr

def State.barrierLine (s : State) (pa : Nat) : BarrierLine :=
  let w0 := memNat s.mem pa 8
  { gen := bits w0 63 32, arrived := bits w0 31 16, expect := bits w0 15 0, state := bits (memNat s.mem (pa + 8) 1) 3 0 }

/-- Writes the fields of a barrier line; its other bits stay. -/
def State.setBarrierLine (s : State) (pa : Nat) (b : BarrierLine) : State :=
  let st := memNat s.mem (pa + 8) 1
  (s.store pa (natToBytes 8 (b.gen % 2 ^ 32 * 2 ^ 32 + b.arrived % 2 ^ 16 * 2 ^ 16 + b.expect % 2 ^ 16))).store (pa + 8)
    (natToBytes 1 (st / 16 * 16 + b.state))

/-- What a barrier instruction returns for a line that is not VALID. -/
def BarrierLine.code (b : BarrierLine) : Nat := if b.state = barrierBroken then outcomeBroken else outcomeInvalid

/-- The status or outcome word: GEN and the code. -/
def barrierWord (gen code : Nat) : DWord := BitVec.ofNat 64 (gen % 2 ^ 32 * 2 ^ 32 + code)

/-- Gives a waiter its outcome: in the resident wave, or in the wake table of its workgroup (08 R131, R134). -/
def State.wake (s : State) (t : WTag) (gen code : Nat) : State :=
  match (s.waveAt? t.cl t.row).filter (fun w => w.tag t.cl t.row == t) with
  | some _ =>
    s.updWave t.cl t.row (fun w => { w with bwait := w.bwait.map (fun b => { b with outcome := some (gen, code) }) })
  | none =>
    match s.awayOf t.cl t.ctx t.wgx with
    | none => s
    | some a =>
      let s := s.updAway t.cl a.1 (fun a => { a with wake := mset a.wake t.row (gen, code) })
      match s.hwWrite t.cl t.ctx (s.areaOf t.cl t.ctx + wakeAreaOff + 8 * t.row) (natToBytes 8 code) with
      | .ok s' => s'
      | .error e => s.shadowFail t.cl t.ctx t.wgx e 3

/-- The home slice of a line. -/
def State.lineHome (s : State) (pa : Nat) : Nat := s.homeOf 0 pa

/-- Releases every waiter of a line with a generation of its own choice and an outcome. -/
def State.releaseLine (s : State) (pa : Nat) (gen : Waiter → Nat) (code : Nat) : State :=
  let n := s.lineHome pa
  let x := s.slice n
  let hit := x.waiters.filter (fun w => w.line == pa)
  let s := s.setSlice n { x with waiters := x.waiters.filter (fun w => w.line ≠ pa) }
  hit.foldl (fun s w => s.wake w.tag (gen w) code) s

/-- Notes whether a line is one of the barrier engine's lines. -/
def State.noteBarrier (s : State) (pa : Nat) (valid : Bool) : State :=
  let n := s.lineHome pa
  let x := s.slice n
  s.setSlice n { x with barriers := without pa x.barriers ++ (if valid then [pa] else []) }

/-- A write that is no task-queue instruction's touches a line: a task queue loses its entries on chip (16 R288). -/
def State.touchQueue (s : State) (pa : Nat) : State :=
  let n := s.lineHome pa
  let x := s.slice n
  if (mget x.tq pa).isSome then s.setSlice n { x with tq := mdel x.tq pa } else s

/-- A write that is no barrier instruction's touches a line: a barrier breaks, and stays one of the engine's lines until a
BINVAL or a BINIT of no arrivals (16 R286) (DEDUCED, log 86). -/
def State.touchBarrier (s : State) (pa : Nat) : State :=
  if (s.slice (s.lineHome pa)).barriers.contains pa then
    let s := s.releaseLine pa Waiter.gen outcomeBroken
    (s.chargeWrite pa 16 1).setBarrierLine pa { s.barrierLine pa with state := barrierBroken }
  else s

/-- A write by anything but a barrier or task-queue instruction touches a line. -/
def State.touchLine (s : State) (pa : Nat) : State := (s.touchQueue pa).touchBarrier pa

/-- A store by a wave, an engine, the host or a peer performs in device memory, its lines having moved. -/
def State.homeStore (s : State) (pa : Nat) (bs : List Byte) : State :=
  let s := s.store pa bs
  if sliceHomed pa then
    (rangeFrom (pa / 64) ((pa % 64 + bs.length + 63) / 64)).foldl (fun s l => s.touchLine (64 * l)) s
  else s

/-- BARRIVE at the home (16 R286): the status word. -/
def State.barrierArrive (s : State) (pa : Nat) : DWord × State :=
  let b := s.barrierLine pa
  if b.state ≠ barrierValid then (barrierWord b.gen b.code, s)
  else
    let s := (s.noteBarrier pa true).touchQueue pa
    let r := barrierWord b.gen outcomeReleased
    if b.arrived + 1 = b.expect then
      let g := (b.gen + 1) % 2 ^ 32
      (r, (s.setBarrierLine pa { b with gen := g, arrived := 0 }).releaseLine pa (fun _ => g) outcomeReleased)
    else (r, s.setBarrierLine pa { b with arrived := b.arrived + 1 })

/-- BINIT at the home. -/
def State.barrierInit (s : State) (pa expect : Nat) : State :=
  let s := (s.releaseLine pa Waiter.gen outcomeBroken).touchQueue pa
  let b := s.barrierLine pa
  let e := expect % 2 ^ 16
  (s.setBarrierLine pa
    { gen := b.gen + 1, arrived := 0, expect := e, state := if e = 0 then 0 else barrierValid }).noteBarrier pa
      (decide (e ≠ 0))

/-- BINVAL at the home. -/
def State.barrierInvalidate (s : State) (pa : Nat) : State :=
  let s := (s.releaseLine pa Waiter.gen outcomeInvalid).touchQueue pa
  (s.setBarrierLine pa { s.barrierLine pa with state := 0 }).noteBarrier pa false

end Sys2Proof.Machine
end

