-- ==== Sys2Proof/Machine/Lod.lean ====
section
/-!
DEFINITION. Level-of-detail resources: descriptor, geometry, the fallback chain, feedback reports, VLDL and LODFENCE
(04 R65 to R80; 16 R278, R281).
-/
namespace Sys2Proof.Machine

/-- Whether the feature view of the wave's context holds a feature bit (11 R198): 0 plane, 1 Millrace, 2 traversal, 3 LOD,
4 spawn bins, 5 task queues. A view that is not recorded is the device's. -/
def State.feature (s : State) (bit : Nat) : Bool :=
  let c := s.ctxOf s.w.ctx
  ((c.view[7]?).getD (Config.deviceView.getD 7 0)).getLsbD bit

/-- An instruction of a family whose feature bit is clear raises ILLEGAL (11 R198). -/
def needFeature (s : State) (bit : Nat) (i : Instr) : Attempt Unit :=
  if s.feature bit then .ok () else illegal s i

/-- An LOD descriptor (04 R65). -/
structure LodDesc where
  data : Nat
  tail : Nat
  nlm1 : Nat
  map : Nat
  fb : Bool
  resource : Nat
  h0m1 : Nat
  w0m1 : Nat
  ring : Nat
  deriving DecidableEq, Repr

/-- The descriptor that 64 bytes hold; none where a reserved bit is set or TAIL exceeds NLM1 (04 R67). -/
def lodDescOf (b : List Byte) : Option LodDesc :=
  let w0 := bytesToNat (b.take 8)
  let w1 := bytesToNat ((b.drop 8).take 8)
  let w2 := bytesToNat ((b.drop 16).take 8)
  let w3 := bytesToNat ((b.drop 24).take 8)
  if bits w0 15 8 ≠ 0 || bits w1 2 1 ≠ 0 || 16 ≤ w3 || bytesToNat (b.drop 32) ≠ 0 || bits w0 3 0 < bits w0 7 4 then none
  else
    some { data := w0 / 65536 * 65536, tail := bits w0 7 4, nlm1 := bits w0 3 0, map := w1 / 8 * 8, fb := tbit w1 0
           resource := bits w2 63 32, h0m1 := bits w2 31 16, w0m1 := bits w2 15 0, ring := w3 }

/-- Geometry of a level (04 R66). -/
def LodDesc.width (d : LodDesc) (l : Nat) : Nat := max 1 ((d.w0m1 + 1) >>> l)
def LodDesc.height (d : LodDesc) (l : Nat) : Nat := max 1 ((d.h0m1 + 1) >>> l)
def LodDesc.pagesX (d : LodDesc) (l : Nat) : Nat := (d.width l + 127) / 128
def LodDesc.pagesY (d : LodDesc) (l : Nat) : Nat := (d.height l + 127) / 128

/-- Pages before a level. -/
def LodDesc.offset (d : LodDesc) : Nat → Nat
  | 0 => 0
  | l + 1 => d.offset l + d.pagesX l * d.pagesY l

def LodDesc.pageIndex (d : LodDesc) (l px py : Nat) : Nat := d.offset l + py * d.pagesX l + px
/-- Address of an element of a level. -/
def LodDesc.elemAddr (d : LodDesc) (l x y : Nat) : Nat :=
  (d.data + d.pageIndex l (x / 128) (y / 128) * 65536 + (y % 128 * 128 + x % 128) * 4) % 2 ^ 64
/-- Address of the map word of a page. -/
def LodDesc.mapWord (d : LodDesc) (b : Nat) : Nat := (d.map + b / 64 * 8) % 2 ^ 64

/-- Reads a map bit at its home: physical address and attributes of its word and the bit, or a cause. A word that is not
slice-homed has no home for its page's report: LOD_DESCRIPTOR, as for MAP itself (DESIGN CHOICE, log 88). -/
def State.mapBit (s : State) (cl ctx : Nat) (d : LodDesc) (b : Nat) : Except Nat (Nat × Nat × Bool) :=
  match s.checkAccess cl ctx (d.mapWord b) 8 .read none with
  | .error c => .error c
  | .ok (pa, attr) =>
    if sliceHomed pa then .ok (pa, attr, tbit (memNat s.mem pa 8) (b % 64)) else .error causeLodDescriptor

/-- What the fallback chain of one lane finds: the map words read with their attributes and virtual addresses, the page first
wanted with its map word, and the level delivered with its element, or a fault. -/
structure LodFound where
  words : List (Nat × Nat × Nat)
  wanted : Option (Nat × Nat × Nat × Nat)
  result : Except (Nat × Nat) (Nat × Nat × Nat)

/-- The level whose bit was found set, or 0xFF (04 R75): also where the chain ends in a fault other than LOD_TAIL (DESIGN
CHOICE, log 88). -/
def LodFound.level (f : LodFound) : Nat :=
  match f.result with
  | .ok r => r.1
  | .error _ => 0xFF

/-- The chain from a level on (04 R70): at gives the element of the lane in a level. -/
def State.lodChain (s : State) (cl ctx : Nat) (d : LodDesc) (at' : Nat → Nat × Nat) (first : Nat) :
    Nat → Nat → List (Nat × Nat × Nat) → Option (Nat × Nat × Nat × Nat) → LodFound
  | 0, l, ws, wanted => { words := ws, wanted := wanted, result := .error (causeLodTail, d.mapWord l) }
  | fuel + 1, l, ws, wanted =>
    let (x, y) := at' l
    let b := d.pageIndex l (x / 128) (y / 128)
    match s.mapBit cl ctx d b with
    | .error c => { words := ws, wanted := wanted, result := .error (c, d.mapWord b) }
    | .ok (pa, attr, true) => { words := ws ++ [(pa, attr, d.mapWord b)], wanted := wanted, result := .ok (l, x, y) }
    | .ok (pa, attr, false) =>
      let wanted := if l = first && d.fb then some (l, x / 128, y / 128, pa) else wanted
      let ws := ws ++ [(pa, attr, d.mapWord b)]
      if d.tail ≤ l then { words := ws, wanted := wanted, result := .error (causeLodTail, d.mapWord b) }
      else s.lodChain cl ctx d at' first fuel (l + 1) ws wanted

/-- Map words have been read: their lines, and those of their translations, have moved (05 R98). -/
def State.tookWords (s : State) (cl ctx : Nat) (ws : List (Nat × Nat × Nat)) : State :=
  ws.foldl (fun s w => (s.chargeRead w.1 8 (attrCa w.2.1)).cacheUse cl ctx w.2.2) s

/-- The element a lane's fractions name in a level. -/
def LodDesc.element (d : LodDesc) (u v l : Nat) : Nat × Nat := (u * d.width l / 2 ^ 32, v * d.height l / 2 ^ 32)

/-- LodLookup up to the data read (DESIGN CHOICE, log 40). -/
def State.lodLookup (s : State) (cl ctx : Nat) (d : LodDesc) (u v lreq : Nat) : LodFound :=
  let l := min (lreq % 16) d.nlm1
  s.lodChain cl ctx d (d.element u v) l 17 l [] none

/-- The page of an address has LOD = 1. -/
def State.lodPage (s : State) (cl ctx va : Nat) : Bool :=
  match s.translate cl ctx va .read with
  | .ok (_, attr) => tbit attr 7
  | .error _ => false

/-- A data read admits only a page with LOD = 1 (04 R69); this ranks with PERMISSION, before DATA_ERROR. -/
def State.lodRead (s : State) (cl ctx va : Nat) : Except Nat (Nat × Nat) :=
  match s.checkAccess cl ctx va 4 .read none with
  | .error c => if c = causeDataError && !s.lodPage cl ctx va then .error causePermission else .error c
  | .ok (pa, attr) => if tbit attr 7 then .ok (pa, attr) else .error causePermission

/-- Reads a descriptor at issue (04 R67): its bytes and fields. MAP's own translation is not checked but for its home: where
it fails, the lanes that read a map word fault instead (DESIGN CHOICE, log 88). -/
def lodDescriptor (s : State) (va : Nat) (lanes : Mask) : Attempt (List Byte × LodDesc × State) :=
  match s.checkAccess s.cur.1 s.w.ctx va 64 .read none with
  | .error c => memTrap s c .read va lanes
  | .ok (pa, attr) => do
    match ← readNow s pa 64 (attrCa attr) with
    | (none, _) => memTrap s causeDataError .read va lanes
    | (some b, s') =>
      match lodDescOf b with
      | none => memTrap s causeLodDescriptor .read va lanes
      | some d =>
        match s.translate s.cur.1 s.w.ctx d.map .read with
        | .ok (mpa, _) => if sliceHomed mpa then pure (b, d, s') else memTrap s causeLodDescriptor .read va lanes
        | .error _ => pure (b, d, s')

/-- Sends a feedback report to the home of the page's map word (04 R73, 05 R85). -/
def State.sendReport (s : State) (r : LodReport) : State :=
  let (id, s) := s.newId
  let part := s.partOfCtx r.tag.ctx
  let p : Packet :=
    { kind := 9, src := clusterSite r.tag.cl, dst := sliceSite (s.homeOf part r.word), part := part
      ctx := r.tag.ctx, flits := 1, stamp := id, body := .lod { r with origin := clusterSite r.tag.cl } }
  { s with packets := mset s.packets id p }

/-- The report of one lane, if its first page was absent and feedback is on. -/
def lodReportOf (t : WTag) (op : Nat) (d : LodDesc) (f : LodFound) (status : Dest) : Option LodReport :=
  f.wanted.map (fun (l, px, py, word) =>
    { op := op, tag := t, ring := d.ring, resource := d.resource, level := l, px := px, py := py
      delivered := f.level, word := word, status := status })

/-- VLDL (16 R278). The map reads perform at issue, in the order of each lane's levels; data reads follow. -/
def execVldl (h : Hints) (k : KReg) (o : Order) (sc : Scope) (d : VReg) (a : SReg) (b c level status : VReg)
    (s : State) : Host.Outcome State Fault Refusal :=
  run h 1 16 s fun s => do
    needFeature s 3 (.vldl h k o sc d a b c level status)
    let act ← active s k
    let u ← readV s b.toNat act
    let v ← readV s c.toNat act
    let lv ← readV s level.toNat act
    targetV s d.toNat act
    targetV s status.toNat act
    let (base, s) ← readS s a
    let lanes := activeList act
    if lanes.isEmpty then pure (if o = .rlx then s else s.fenceEffect o sc)
    else do
      let (_, desc, s) ← lodDescriptor s base.toNat (maskOf act)
      let found := lanes.map (fun l =>
        (l, (s.accessOf (mapAccess l)).lodLookup s.cur.1 s.w.ctx desc (u l).toNat (v l).toNat (lv l).toNat))
      let words := found.flatMap (fun f => f.2.words)
      words.forM (fun w => accessTurn s w.1 8 false)
      let took (s : State) : State := s.tookWords s.cur.1 s.w.ctx words
      counterRoom s Op.ld
      let checks := found.map (fun (l, f) =>
        (l, f, match f.result with
          | .error e => (Except.error e : Except (Nat × Nat) (Nat × Nat × Nat × Nat))
          | .ok (lev, x, y) =>
            let va := desc.elemAddr lev x y
            match (s.accessOf l).lodRead s.cur.1 s.w.ctx va with
            | .error e => .error (e, va)
            | .ok (pa, attr) => .ok (lev, va, pa, attr)))
      let bad := checks.filterMap (fun (l, _, r) => match r with
        | .error e => some (l, e)
        | .ok _ => none)
      match bad with
      | (_, e) :: _ =>
        let t := s.tag
        let reports := found.filterMap (fun (_, f) => lodReportOf t 0 desc f .none)
        .error (.trap (fun o' => reports.foldl State.sendReport (took o'))
          { cause := e.1, iaddr := s.w.pc, resume := s.w.pc, vaddr := e.2
            lanes := maskOf (fun i => bad.any (fun x => x.1 == i)), access := 0 })
      | [] =>
        let good := checks.filterMap (fun (l, _, r) => match r with
          | .ok x => some (l, x)
          | .error _ => none)
        let stat (l : Nat) : Option Word :=
          (good.find? (fun g => g.1 == l)).map (fun (_, lev, _) =>
            BitVec.ofNat 32 (lev + (if lev ≠ min ((lv l).toNat % 16) desc.nlm1 then 16 else 0)))
        let s ← writeV s status.toNat stat
        let reports := found.filterMap (fun (l, f) =>
          (lodReportOf s.tag 0 desc f (.lane status.toNat l false)))
        let s0 := s
        let (id, s) := s.newOp
          { tag := s.tag, ld := true, left := good.length + reports.length
            owed := [.v d.toNat, .v status.toNat], acq := isAcquire o sc, lod := some desc.resource }
        let checked : List Checked := good.map (fun (l, _, va, pa, attr) =>
          { acc := { lane := l, va := va, dest := .lane d.toNat l false }, pa := pa, attr := attr })
        let s := useAll (sendLanes s0 id .load 4 false [] checked (took s)) checked
        let s := if isAcquire o sc then s.noteAcquire else s
        pure (reports.foldl (fun s r => s.sendReport { r with op := id }) s)

/-- The data reads of VLDLs and the LOD-mode copies of a context's resource that are not finished (04 R79). -/
def State.lodBusy (s : State) (ctx resource : Nat) : Bool :=
  s.ops.any (fun o =>
    o.2.tag.ctx == ctx && o.2.lod == some resource &&
      s.accesses.any (fun x => x.2.op == o.1 && !x.2.performed)) ||
    s.jobs.any (fun j => match j.2.kind with
      | .lodCopy _ _ _ _ _ _ _ =>
        j.2.resource == resource && j.2.tags.any (fun t => t.ctx == ctx) &&
          (decide (j.2.pos < j.2.total) || j.2.flight.any (fun f => f.src.isSome))
      | _ => false)

/-- LODFENCE (04 R79). -/
def lodFence (s : State) (resource : Nat) : Attempt State := do
  waitPoint s .dev
  if s.lodBusy s.w.ctx resource then hold .dep else pure s

def execLodfence (h : Hints) (a : SReg) (s : State) : Host.Outcome State Fault Refusal :=
  run h 1 8 s fun s => do
    needFeature s 3 (.lodfence h a)
    let (x, s) ← readS s a
    lodFence s (x.toNat % 2 ^ 32)

def execLodfence96 (h : Hints) (imm : Word) (s : State) : Host.Outcome State Fault Refusal :=
  run h 1 12 s fun s => do
    needFeature s 3 (.lodfence96 h imm)
    lodFence s imm.toNat

end Sys2Proof.Machine
end

