-- ==== Sys2Proof/Machine/Jobs.lean ====
section
/-!
DEFINITION. Engine jobs at issue: tiles, elements and their addresses, pieces, footprints, and what a job waits for (03
R48 to R53; 07 R114 to R119; 16 R274, R292, R293; 20 R299 to R307).
-/
namespace Sys2Proof.Machine

/-! ### Tiles (03 R51 to R53) -/

/-- The base of a cluster's vault in a context's space (03 R48, R50). -/
def State.vaultVa (s : State) (cl ctx : Nat) : Nat := ((s.ctxOf ctx).vaultVa + cl * vaultBytes) % 2 ^ 64

/-- %vbase and %vlen of the wave whose instruction runs. -/
def State.vbase (s : State) : Nat := (s.vaultVa s.cur.1 s.w.ctx + s.wg.vaultLo * 4096) % 2 ^ 64
def State.vlen (s : State) : Nat := s.wg.vaultN * 4096

/-- Bytes of a tile, and its virtual base (20 R303). -/
def Tile.bytes (t : Tile) : Nat := t.size * 4096
def State.tileBase (s : State) (cl : Nat) (t : Tile) : Nat := (s.vaultVa cl t.ctx + t.base * 4096) % 2 ^ 64

/-- TILE_STATE, exact. -/
def tileTrap {α : Type} (s : State) : Attempt α := unitTrap s causeTileState

/-- A tile that an instruction names (03 R53): EMPTY or another workgroup's faults; FILLING or DRAINING holds the wave. -/
def tileNeed (s : State) (n : Nat) : Attempt Tile :=
  match mget (s.cluster s.cur.1).tiles n with
  | none => tileTrap s
  | some t =>
    if t.ctx ≠ s.w.ctx || t.owner ≠ s.w.wgslot then tileTrap s
    else if t.state = .ready then .ok t
    else hold .sync

/-- Changes a tile-table entry. -/
def State.updTile (s : State) (cl n : Nat) (f : Tile → Tile) : State :=
  let k := s.cluster cl
  s.setCluster cl { k with tiles := mupd k.tiles n f }

/-! ### Elements -/

/-- Indices of element n of an extent, in the job's element order (20 R304). -/
def Extent.index (e : Extent) (n : Nat) : Nat × Nat × Nat := (n % e.n0, n / e.n0 % e.n1, n / (e.n0 * e.n1))

def Extent.count (e : Extent) : Nat := e.n0 * e.n1 * e.n2

/-- An address a signed offset from a base. -/
def addr (base : Nat) (off : Int) : Nat := (((base : Int) + off) % 2 ^ 64).toNat

/-- Byte offset of element n at the source or destination. -/
def Extent.srcOff (e : Extent) (n : Nat) : Int :=
  let (i0, i1, i2) := e.index n
  (i0 * e.esz : Nat) + e.s1 * i1 + e.s2 * i2
def Extent.dstOff (e : Extent) (n : Nat) : Int :=
  let (i0, i1, i2) := e.index n
  (i0 * e.esz : Nat) + e.d1 * i1 + e.d2 * i2

/-- The lowest and one past the highest byte offset that rows and planes at two strides reach. -/
def Extent.bounds (e : Extent) (t1 t2 : Int) : Int × Int :=
  let a := t1 * (e.n1 - 1 : Nat)
  let b := t2 * (e.n2 - 1 : Nat)
  (min 0 a + min 0 b, max 0 a + max 0 b + (e.n0 * e.esz : Nat))

def Extent.srcBounds (e : Extent) : Int × Int := e.bounds e.s1 e.s2
def Extent.dstBounds (e : Extent) : Int × Int := e.bounds e.d1 e.d2

/-- The virtual address element n reads; none where it reads none. -/
def JobKind.src : JobKind → Nat → Option Nat
  | .copy src _ e, n => some (addr src (e.srcOff n))
  | .multicast src _ e _ _, n => some (addr src (e.srcOff n))
  | .gather base _ esz limit idx, n => if idx.getD n 0 < limit then some ((base + idx.getD n 0 * esz) % 2 ^ 64) else none
  | .line src _ _ _, n => some ((src + 64 * n) % 2 ^ 64)
  | .planeLoad cells _, n => (cells[n]?).map Prod.fst
  | .lodCopy _ _ _ _ _ _ _, _ | .drain _ _ _ _ _ _, _ | .store _, _ => none

/-- The virtual address element n writes; none where it writes none, or none that is translated (DEDUCED, log 33). The status
bytes of an LOD-mode copy come after all its data (DESIGN CHOICE, log 103). -/
def JobKind.dst : JobKind → Nat → Option Nat
  | .copy _ dst e, n => some (addr dst (e.dstOff n))
  | .lodCopy _ dst e _ _ _ statusA, n =>
    some (if n < e.count then addr dst (e.dstOff n) else (statusA + (n - e.count)) % 2 ^ 64)
  | .gather _ dst esz _ _, n => some ((dst + n * esz) % 2 ^ 64)
  | .line _ dst _ _, n => some ((dst + 64 * n) % 2 ^ 64)
  | .drain dst stride _ _ fmt _, n => some (addr dst (stride * (n / 256 : Nat) + (n % 256 * efSize fmt : Nat)))
  | .store w, n => (w[n]?).map Prod.fst
  | .multicast _ _ _ _ _, _ | .planeLoad _ _, _ => none

/-- Bytes of an element. -/
def JobKind.size : JobKind → Nat → Nat
  | .copy _ _ e, _ => e.esz
  | .multicast _ _ e _ _, _ => e.esz
  | .lodCopy _ _ e _ _ _ _, n => if n < e.count then 4 else 1
  | .gather _ _ esz _ _, _ => esz
  | .line _ _ _ _, _ => 64
  | .drain _ _ _ _ fmt _, _ => efSize fmt
  | .store w, n => ((w[n]?).map (fun x => x.2.length)).getD 0
  | .planeLoad _ ef, _ => efSize ef

/-! ### Pieces (03 R52) -/

/-- Where a page lies as translated at issue: its home slice, 128 for a vault, 129 where translation fails. -/
def State.pageHome (s : State) (cl ctx va : Nat) (kind : Kind) : Nat :=
  match s.translate cl ctx va kind with
  | .error _ => 129
  | .ok (pa, _) =>
    match region pa with
    | .vault _ | .checkpoint | .control | .reserved => 128
    | .hbm _ | .safe _ | .cxl _ | .host _ | .peer _ => s.homeOf (s.partOfCtx ctx) pa

/-- The homes of the pages that addresses lie in. -/
def State.pageHomes (s : State) (cl ctx : Nat) (kind : Kind) (vas : List Nat) : SMap Nat :=
  vas.foldl (fun m va =>
    let p := va / 4096
    if (mget m p).isSome then m else mset m p (s.pageHome cl ctx va kind)) []

/-- The streamer of a copied element (20 R304): the home of its source page; for a vault source the home of its destination
page; for two vaults, or a page that failed, the slice numbered as the issuing cluster. -/
def streamerOf (cl : Nat) (src dst : Option Nat) : Nat :=
  match src with
  | some n => if n < 128 then n else if n = 129 then cl else
    match dst with
    | some d => if d < 128 then d else cl
    | none => cl
  | none => cl

/-- The piece that element n belongs to. -/
def Job.pieceOf (j : Job) (cl n : Nat) : Nat :=
  let srcH := (j.kind.src n).bind (fun va => mget j.srcHome (va / 4096))
  let dstH := (j.kind.dst n).bind (fun va => mget j.dstHome (va / 4096))
  match j.kind with
  | .copy _ _ _ | .multicast _ _ _ _ _ => streamerOf cl srcH dstH
  | .lodCopy _ _ _ _ _ _ _ => (mget j.srcHome n).getD cl
  | .gather _ _ _ _ _ =>
    match srcH with
    | some h => if h < 128 then h else cl
    | none => (j.srcHome.foldl (fun (m : Nat) (e : Nat × Nat) => min m (if e.2 < 128 then e.2 else cl)) 128) % 128
  | .line src dst _ fill => ((if fill then src else dst) + 64 * n) / 4096
  | .drain _ _ _ _ _ _ | .store _ | .planeLoad _ _ => 0

/-- Elements of each piece: of elements from n, k of them. -/
def Job.countPieces (j : Job) (cl : Nat) : Nat → Nat → SMap Nat → SMap Nat
  | 0, _, m => m
  | k + 1, n, m =>
    let p := j.pieceOf cl n
    j.countPieces cl k (n + 1) (mset m p (mgetD m p 0 + 1))

/-- A job with its pages' homes and its pieces fixed (03 R52). A job without elements has one piece. -/
def State.divide (s : State) (cl ctx : Nat) (j : Job) : Job :=
  let ns := rangeFrom 0 j.total
  let j := { j with
    srcHome := match j.kind with
      | .lodCopy _ _ _ _ _ _ _ => j.srcHome
      | _ => s.pageHomes cl ctx .read (ns.filterMap j.kind.src)
    dstHome := s.pageHomes cl ctx .write (ns.filterMap j.kind.dst) }
  let j := match j.kind with
    | .gather _ _ _ _ _ => if j.srcHome.isEmpty then { j with srcHome := [(0, cl)] } else j
    | _ => j
  let pieces := j.countPieces cl j.total 0 []
  let pieces := if pieces.isEmpty then [(0, 0)] else pieces
  { j with pieces := pieces, toRead := if j.readOut.isSome then pieces else [] }

/-! ### Faults (02 R37, R38; 08 R141) -/

/-- %wave: STAGE in [10:8], WNUM in [3:0] (11 R197). -/
def waveWord (wnum stage : Nat) : Nat := stage * 256 + wnum

/-- A new fault record of a wave's job. -/
def State.newRecord (s : State) (t : WTag) (r : JobRec) : JobRec × State :=
  let (q, s) := s.nextSeq t.ctx
  ({ r with ctx := t.ctx, wave := waveWord t.wnum t.stage, cluster := t.cl, wgx := t.wgx, seq := q }, s)

/-- A plane transfer carries no order, and counts on TL alone (16 R274; 22 R328). -/
def Job.isPlane (j : Job) : Bool := j.code == 5

/-- Elements of a piece that have been read. -/
def Job.noteRead (j : Job) (piece n : Nat) : Job := { j with toRead := mupd j.toRead piece (fun k => k - n) }

/-- A job that goes no further than element n: neither the elements it has reached from n on nor those it has not reached
come about, and they are not owed by their pieces (02 R37). -/
def Job.cut (j : Job) (n : Nat) : Job :=
  let cl := j.owner.cl
  let unread := (j.flight.filter (fun f => decide (n ≤ f.n) && f.src.isSome)).map Flight.n ++ rangeFrom j.pos (j.total - j.pos)
  let owed (m : SMap Nat) (l : List Nat) : SMap Nat :=
    l.foldl (fun m i => mupd m (j.pieceOf cl i) (fun k => k - 1)) m
  { j with
    pos := min j.pos n, total := n, steps := j.stepsPaid, flight := j.flight.filter (fun f => decide (f.n < n))
    pieces := owed j.pieces (rangeFrom n (j.total - n)), toRead := owed j.toRead unread }

/-- A fault of a job leaves a record. It goes to the fault log at once where the owner has been evicted (08 R141). -/
def State.recordJob (s : State) (id : Nat) (j : Job) (cause access va n : Nat) : State :=
  let (r, s) := s.newRecord j.owner
    { vaddr := va, progress := n, ctx := 0, wave := 0, cluster := 0, sem := j.sem.getD 0xFF, access := access
      job := j.code, cause := cause, iaddr := j.iaddr, wgx := 0, seq := 0
      counters := (if j.isPlane then 0 else 4) + (if j.fill.isSome || j.readOut.isSome then 8 else 0) }
  if (s.awayOf j.owner.cl j.owner.ctx j.owner.wgx).isSome then { s.appendRecord r with jobs := mset s.jobs id j }
  else { s with jobs := mset s.jobs id { j with faults := j.faults ++ [r] } }

/-- A job stops at element n, which faults (02 R37). -/
def State.failJob (s : State) (id cause access va n : Nat) : State :=
  match mget s.jobs id with
  | none => s
  | some j => s.recordJob id (j.cut n) cause access va n

/-- A destination of a multicast that takes no data is recorded once (05 R95, 20 R305). -/
def State.refuseDest (s : State) (id dest va n : Nat) : State :=
  match mget s.jobs id with
  | none => s
  | some j =>
    if j.refused.contains dest then s
    else s.recordJob id { j with refused := j.refused ++ [dest] } causeNoTarget 1 va n

/-! ### Issue -/

/-- Two sets of virtual ranges share a 64-byte line (07 R116). -/
def linesMeet (a b : List (Nat × Nat)) : Bool :=
  a.any (fun x => b.any (fun y => decide (x.1 / 64 ≤ (y.2 - 1) / 64) && decide (y.1 / 64 ≤ (x.2 - 1) / 64)))

/-- The bytes of a range; empty ranges name none. -/
def span (base : Nat) (b : Int × Int) : List (Nat × Nat) :=
  if b.1 < b.2 then [(addr base b.1, addr base b.1 + (b.2 - b.1).toNat)] else []

/-- Two jobs are joined by an edge (07 R116). -/
def jobEdge (a b : Job) : Bool :=
  linesMeet a.writes b.reads || linesMeet a.writes b.writes || linesMeet a.reads b.writes

/-- The unfinished jobs of a cluster and context. -/
def State.jobsOn (s : State) (cl ctx : Nat) : List (Nat × Job) :=
  s.jobs.filter (fun e => e.2.tags.any (fun t => t.cl == cl && t.ctx == ctx))

/-- Unfinished jobs issued from a cluster. -/
def State.jobCount (s : State) (cl : Nat) : Nat :=
  (s.jobs.filter (fun e => e.2.tags.any (fun t => t.cl == cl))).length

/-- What the first access of a job waits for on account of its order (07 R115). -/
def State.jobWaits (s : State) (t : WTag) (o : Order) (sc : Scope) (j : Job) : List Nat :=
  let foot := j.reads ++ j.writes
  let bytes (a : Access) : List (Nat × Nat) :=
    (a.va, a.va + max 1 a.size) :: a.spans.map (fun x => (x.1, x.1 + max 1 x.2.2))
  ((s.pendingOf t).filter (fun x => AccessKind.isWrite x.2.kind && linesMeet (bytes x.2) foot)).map Prod.fst ++
    (if isRelease o sc then s.pointAt t sc else [])

/-- A job issues after what fences and acquires hold its wave's later accesses for, and with one of the 64 places (06 R104,
R108; 07 R116; 16 R274). -/
def jobPlace (s : State) : Attempt Unit := do
  afterAll s (s.orderAfter true)
  counterRoom s Op.tl
  if 64 ≤ s.jobCount s.cur.1 then hold .dep else pure ()

/-- The same for a job that counts on CP. -/
def jobRoom (s : State) : Attempt Unit := do
  counterRoom s Op.cp
  jobPlace s

/-- New counted operations of one kind, one for each wave that tags name: their identifiers. -/
def State.newOps (s : State) (tags : List WTag) (f : Op → Op) : List Nat × State :=
  tags.foldl (fun (acc : List Nat × State) t =>
    let (id, s) := acc.2.newOp (f { tag := t, left := 1 })
    (acc.1 ++ [id], s)) ([], s)

/-- Issues a job of the waves tags name, its owner first: counters, edges, pieces and tile states. Its fill and its
read-out count on TL each for itself (16 R274). -/
def State.issueJob (s : State) (o : Order) (sc : Scope) (tags : List WTag) (j : Job) : State :=
  let cl := s.cur.1
  let ctx := s.w.ctx
  let j := s.divide cl ctx { j with tags := tags }
  let waits := tags.flatMap (fun t => s.jobWaits t o sc j) ++ s.acquiredAfter
  let edges := ((s.jobsOn cl ctx).filter (fun (e : Nat × Job) => jobEdge e.2 j)).map Prod.fst
  let (cp, s) := if j.isPlane then ([], s) else s.newOps tags (fun o => { o with cp := true })
  let (fills, s) := if j.fill.isSome then s.newOps tags (fun o => { o with tl := true }) else ([], s)
  let (reads, s) := if j.readOut.isSome then s.newOps tags (fun o => { o with tl := true }) else ([], s)
  let (id, s) := s.newId
  let j := { j with waits := waits, jobWaits := edges, cpOps := cp, fillOps := fills, readOps := reads }
  let s := { s with jobs := mset s.jobs id j }
  let begin' (st : TileState) (n : Nat) (s : State) (k : Option Nat) : State :=
    match k with
    | some k => s.updTile cl k (fun t => { t with state := st, pend := n })
    | none => s
  begin' .draining j.toRead.length (begin' .filling j.pieces.length s j.fill) j.readOut

end Sys2Proof.Machine
end

