-- ==== Sys2Proof/Machine/Binapp.lean ====
section
/-!
DEFINITION. BINAPP: its header, its checks at issue, and what the header's home slice does with its lanes (22 R329 to
R331).
-/
namespace Sys2Proof.Machine

/-- A binned-geometry header (22 R329). -/
structure BinHeader where
  bins : Nat
  cnt : Nat
  cap : Nat
  th : Nat
  tw : Nat
  fails : Nat
  seq : Nat
  deriving DecidableEq, Repr

/-- The header that 64 bytes hold; none where a reserved bit is set or a size is zero. -/
def binHeaderOf (b : List Byte) : Option BinHeader :=
  let w (i : Nat) : Nat := bytesToNat ((b.drop (8 * i)).take 8)
  let h : BinHeader :=
    { bins := w 0, cnt := w 1, cap := bits (w 2) 47 32, th := bits (w 2) 31 16, tw := bits (w 2) 15 0
      fails := bits (w 3) 63 32, seq := bits (w 3) 31 0 }
  if h.bins % 64 ≠ 0 || h.cnt % 64 ≠ 0 || bits (w 2) 63 48 ≠ 0 || bytesToNat (b.drop 32) ≠ 0 || h.cap = 0 || h.th = 0 ||
      h.tw = 0 then none
  else some h

/-- Bytes of the count and entry arrays. -/
def BinHeader.cntBytes (h : BinHeader) : Nat := 4 * h.tw * h.th
def BinHeader.binBytes (h : BinHeader) : Nat := 8 * h.tw * h.th * h.cap

/-- A page as the home of a bin buffer needs it: readable and writable, and in memory that a home slice can write in one
step (DEDUCED, log 22). Its physical address and caching class. -/
def State.binPage (s : State) (cl ctx va : Nat) : Except Nat (Nat × Nat) :=
  match s.translate cl ctx va .atomic with
  | .error c => .error c
  | .ok (pa, attr) =>
    match region pa with
    | .hbm _ | .safe _ | .cxl _ | .vault _ => .ok (pa, attrCa attr)
    | .checkpoint | .host _ | .peer _ | .control | .reserved => .error causeMalformed

/-- The lowest address of n bytes that fails, with its cause. -/
def State.rangeFault (s : State) (cl ctx : Nat) : Nat → Nat → Nat → Option (Nat × Nat)
  | 0, _, _ => none
  | fuel + 1, va, n =>
    if n = 0 then none
    else
      let here := min n (4096 - va % 4096)
      match s.binPage cl ctx va with
      | .error c => some (c, va)
      | .ok _ => s.rangeFault cl ctx fuel ((va + here) % 2 ^ 64) (n - here)

/-- The spans of n bytes page by page, virtual and physical, where no page fails. -/
def State.pageSpans (s : State) (cl ctx : Nat) : Nat → Nat → Nat → List (Nat × Nat × Nat)
  | 0, _, _ => []
  | fuel + 1, va, n =>
    if n = 0 then []
    else
      let here := min n (4096 - va % 4096)
      (match s.binPage cl ctx va with
        | .error _ => []
        | .ok (pa, _) => [(va, pa, here)]) ++ s.pageSpans cl ctx fuel ((va + here) % 2 ^ 64) (n - here)

/-- A plane instruction of a wave whose workgroup does not hold the plane is illegal (10 R172) (DEDUCED, log 21). -/
def needPlane (s : State) (i : Instr) : Attempt Unit :=
  match s.myPlane with
  | some _ => .ok ()
  | none => illegal s i

/-- Lanes whose operands one packet carries: 112 bytes of 12 for each (05 R85). -/
def binPacketLanes : Nat := 9

/-- The packets of a BINAPP's operands before its last: the home applies its lanes when that has come (DESIGN CHOICE, log
113). -/
def State.sendOperands (s : State) (a : Access) : Nat → State
  | 0 => s
  | n + 1 => (s.sendAccess { a with size := 0, dest := .none, lanes := [], spans := [], after := [] }).sendOperands a n

/-- BINAPP. -/
def execBinapp (h : Hints) (k : KReg) (d : KReg) (a b : VReg) (c : SReg) (ts : BitVec 2) (s : State) :
    Host.Outcome State Fault Refusal :=
  run h 5 16 s fun s => do
    needFeature s 0 (.binapp h k d a b c ts)
    needPlane s (.binapp h k d a b c ts)
    let act ← active s k
    let lo ← readV s a.toNat act
    let hi ← readV s (a.toNat + 1) act
    let pay ← readV s b.toNat act
    let (x, s) ← readS s c
    ready s (.k d.toNat)
    let va := x.toNat
    let cl := s.cur.1
    let ctx := s.w.ctx
    match s.checkAccess cl ctx va 64 .atomic none with
    | .error e => memTrap s e .atomic va 0
    | .ok (pa, attr) =>
      if !sliceHomed pa then memTrap s causeMalformed .atomic va 0
      else if s.poisoned pa 64 then memTrap s causeDataError .atomic va 0
      else do
        accessTurn s pa 64 true
        match binHeaderOf (memRead s.mem pa 64) with
        | none => memTrap s causeMalformed .atomic va 0
        | some q =>
          let bad := [s.rangeFault cl ctx (pagesOf q.cntBytes) q.cnt q.cntBytes,
            s.rangeFault cl ctx (pagesOf q.binBytes) q.bins q.binBytes].filterMap id
          match leastBy (fun (e : Nat × Nat) => e.2) bad with
          | some e => memTrap s e.1 .atomic e.2 0
          | none => do
            counterRoom s Op.ld
            let lanes := (activeList act).map (fun l => (l, (lo l).toNat, (hi l).toNat, (pay l).toNat))
            let spans := s.pageSpans cl ctx (pagesOf q.cntBytes) q.cnt q.cntBytes ++
              s.pageSpans cl ctx (pagesOf q.binBytes) q.bins q.binBytes
            let s0 := s
            let more := (lanes.length - 1) / binPacketLanes
            let (op, s) := s.newOp { tag := s.tag, ld := true, left := more + 1, owed := [.k d.toNat] }
            let a : Access :=
              { op := op, tag := s0.tag, kind := .binapp, va := va, pa := pa, size := 64, data := ts.toNat
                dest := .mask d.toNat, ap := attrAp attr, ca := attrCa attr
                after := spans.flatMap (fun x => s0.ownOverlap x.2.1 x.2.2) ++ s0.acquiredAfter
                lanes := lanes, spans := spans, iaddr := s0.w.pc }
            pure (useAll ((s.sendOperands a more).sendAccess a)
              [{ acc := { lane := 0, va := va }, pa := pa, attr := attr }])

/-! ### At the home -/

/-- The tiles a box touches: the first and last column and row; none where it touches no tile (22 R330). -/
def BinHeader.tiles (h : BinHeader) (ts lo hi : Nat) : Option (Nat × Nat × Nat × Nat) :=
  let x0 := lo % 2 ^ 16
  let y0 := lo / 2 ^ 16
  let x1 := hi % 2 ^ 16
  let y1 := hi / 2 ^ 16
  let q := 2 ^ (ts + 3)
  if x1 < x0 || y1 < y0 || h.tw ≤ x0 / q || h.th ≤ y0 / q then none
  else some (x0 / q, min (x1 / q) (h.tw - 1), y0 / q, min (y1 / q) (h.th - 1))

/-- The tile numbers of a rectangle of tiles, row by row. -/
def BinHeader.tileList (h : BinHeader) (r : Nat × Nat × Nat × Nat) : List Nat :=
  (rangeFrom r.2.2.1 (r.2.2.2 + 1 - r.2.2.1)).flatMap (fun ty =>
    (rangeFrom r.1 (r.2.1 + 1 - r.1)).map (fun tx => ty * h.tw + tx))

/-- Reads n bytes of a bin array at its home: an ordinary access, on the shadow of a vault range that has been taken, whose
line moves. -/
def State.binRead (s : State) (t : WTag) (va n : Nat) : Except (Nat × Nat) (Nat × State) :=
  match s.binPage t.cl t.ctx va with
  | .error c => .error (c, va)
  | .ok (pa, ca) =>
    match s.readFor t.ctx pa n with
    | .bytes bs s => .ok (bytesToNat bs, s.chargeRead pa n ca)
    | .poison | .held _ _ => .error (causeDataError, va)

/-- Writes n bytes of a bin array at its home. A write whose shadow fails is discarded (08 R134). -/
def State.binWrite (s : State) (t : WTag) (va n x : Nat) : Except (Nat × Nat) State :=
  match s.binPage t.cl t.ctx va with
  | .error c => .error (c, va)
  | .ok (pa, ca) =>
    match s.landing t.ctx pa n false true with
    | .at a => .ok ((s.chargeWrite pa n ca).homeStore a (natToBytes n x))
    | .lost cl e c va => .ok (s.entryFail cl e (c, va) 3)
    | .held _ => .error (causeDataError, va)

/-- The cluster whose ingress holds a BINAPP's accesses, since what it would read or write in that vault is on its way (08
R135). -/
def State.binHeld (s : State) (a : Access) : Option Nat :=
  a.spans.findSome? (fun x => match region x.2.1 with
    | .vault cl =>
      let off := (x.2.1 - vaultBase) % vaultBytes
      if (rangeFrom (off / 4096) ((off + x.2.2 - 1) / 4096 + 1 - off / 4096)).any (fun g =>
        (s.vaultEntry cl a.tag.ctx (4096 * g)).any (fun e => e.granule g == .moving)) then some cl else none
    | _ => none)

/-- The counts of some tiles, in turn. -/
def State.binCounts (s : State) (t : WTag) (h : BinHeader) : List Nat → Except (Nat × Nat) (List Nat × State)
  | [] => .ok ([], s)
  | n :: rest =>
    match s.binRead t ((h.cnt + 4 * n) % 2 ^ 64) 4 with
    | .error e => .error e
    | .ok (c, s) => (s.binCounts t h rest).map (fun x => (c :: x.1, x.2))

/-- Appends an entry to each tile of a list, whose counts stand beside them. -/
def State.binAppend (s : State) (t : WTag) (h : BinHeader) (entry : Nat) : List (Nat × Nat) → Except (Nat × Nat) State
  | [] => .ok s
  | (n, slot) :: rest =>
    match s.binWrite t ((h.bins + (n * h.cap + slot) * 8) % 2 ^ 64) 8 entry with
    | .error e => .error e
    | .ok s =>
      match s.binWrite t ((h.cnt + 4 * n) % 2 ^ 64) 4 (slot + 1) with
      | .error e => .error e
      | .ok s => s.binAppend t h entry rest

/-- One lane: whether it is refused, and the state; or the access that fails. -/
def State.binLane (s : State) (t : WTag) (pa ts lo hi pay : Nat) : Except (Nat × Nat) (Bool × State) :=
  match binHeaderOf (memRead s.mem pa 64) with
  | none => .ok (true, s)
  | some h =>
    match h.tiles ts lo hi with
    | none => .ok (false, s)
    | some r =>
      let tiles := h.tileList r
      match s.binCounts t h tiles with
      | .error e => .error e
      | .ok (counts, s) =>
        if counts.any (fun c => decide (h.cap ≤ c)) then
          .ok (true, s.homeStore (pa + 28) (natToBytes 4 (min (h.fails + 1) (2 ^ 32 - 1))))
        else
          match s.binAppend t h (pay * 2 ^ 32 + h.seq) (tiles.zip counts) with
          | .error e => .error e
          | .ok s => .ok (false, s.homeStore (pa + 24) (natToBytes 4 ((h.seq + 1) % 2 ^ 32)))

/-- The lanes in turn: the lanes refused, the first access that failed, and the state. An access that fails refuses its
lane and the ones after it. -/
def State.binLanes (s : State) (t : WTag) (pa ts : Nat) :
    List (Nat × Nat × Nat × Nat) → List Nat → List Nat × Option (Nat × Nat) × State
  | [], bad => (bad, none, s)
  | (l, lo, hi, pay) :: rest, bad =>
    match s.binLane t pa ts lo hi pay with
    | .error e => (bad ++ l :: rest.map Prod.fst, some e, s)
    | .ok (refused, s) => s.binLanes t pa ts rest (if refused then bad ++ [l] else bad)

/-- BINAPP performs at its header's home: the failure mask, and a record of an access that failed (JOB 4). -/
def State.binPerform (s : State) (a : Access) : Nat × Option (Nat × Nat) × State :=
  let (bad, e, s) := s.binLanes a.tag a.pa a.data a.lanes []
  (bad.foldl (fun acc l => acc + 2 ^ l) 0, e, s)

end Sys2Proof.Machine
end

