-- ==== Sys2Proof/Machine/Spawn.lean ====
section
/-!
DEFINITION. Spawn bins, spill queues and SPAWN (10 R178 to R181; 16 R290).
-/
namespace Sys2Proof.Machine

/-- The header of a spawn spill queue (10 R181). -/
structure SpillHeader where
  ring : Nat
  log2n : Nat
  head : Nat
  tail : Nat
  fails : Nat
  deriving DecidableEq, Repr

def SpillHeader.count (q : SpillHeader) : Nat := (q.tail + 2 ^ 32 - q.head) % 2 ^ 32
def SpillHeader.entry (q : SpillHeader) (i : Nat) : Nat := q.ring + i % 2 ^ q.log2n * 32

/-- Where the header of a context's queue on a cluster lies. -/
def State.spillAddr (s : State) (cl ctx : Nat) : Nat := (s.ctxOf ctx).spillQ + s.clusterIndex cl * 0x40

/-- Reads a spill header: the header, or the cause and address that fail. -/
def State.spillHeader (s : State) (cl ctx : Nat) : Except (Nat × Nat) SpillHeader :=
  let a := s.spillAddr cl ctx
  match s.hwRead cl ctx a 64 with
  | .error e => .error e
  | .ok b =>
    let w (i : Nat) : Nat := bytesToNat ((b.drop (8 * i)).take 8)
    if bits (w 0) 11 5 ≠ 0 || w 0 % 32 < 14 || 24 < w 0 % 32 || 2 ^ 32 ≤ w 1 || 2 ^ 32 ≤ w 2 || 2 ^ 32 ≤ w 3 ||
        bytesToNat (b.drop 32) ≠ 0 then .error (causeMalformed, a)
    else .ok { ring := w 0 / 4096 * 4096, log2n := w 0 % 32, head := w 1, tail := w 2, fails := w 3 }

/-- The line uses of reading a spill header. -/
def State.spillUses (s : State) (cl ctx : Nat) : List (Nat × LineUse) := s.areaUses cl ctx (s.spillAddr cl ctx) 64

/-- A record with what a bin keeps of where it came from: its four words, entry address, priority and timeout. -/
structure SpawnRec where
  words : List Word
  entryPc : Nat
  prio : Nat
  tmo : Nat
  deriving DecidableEq, Repr

/-- The 32 bytes of a ring entry. -/
def SpawnRec.bytes (r : SpawnRec) : List Byte :=
  r.words.flatMap (fun w => natToBytes 4 w.toNat) ++ natToBytes 8 r.entryPc ++ natToBytes 1 r.prio ++
    natToBytes 1 r.tmo ++ natToBytes 6 0

/-- The record that 32 bytes hold. -/
def spawnRecOf (b : List Byte) : SpawnRec :=
  { words := (rangeFrom 0 4).map (fun i => BitVec.ofNat 32 (bytesToNat ((b.drop (4 * i)).take 4)))
    entryPc := bytesToNat ((b.drop 16).take 8), prio := bytesToNat ((b.drop 24).take 1)
    tmo := bytesToNat ((b.drop 25).take 1) }

/-- Appends a record at a queue's tail, whatever its room. -/
def State.spillPut (s : State) (cl ctx : Nat) (q : SpillHeader) (r : SpawnRec) : Except (Nat × Nat) State :=
  match s.hwWrite cl ctx (q.entry q.tail) r.bytes with
  | .error e => .error e
  | .ok s => s.hwWrite cl ctx (s.spillAddr cl ctx + 16) (natToBytes 4 ((q.tail + 1) % 2 ^ 32))

/-- ACLK of a timeout (10 R178): 0 means 64 units. -/
def spawnTimeout (tmo : Nat) : Nat := (if tmo = 0 then 64 else tmo) * 64

/-- The lowest-numbered bin of a context and entry that has room. -/
def Cluster.binFor (k : Cluster) (ctx entryPc : Nat) : Option Nat :=
  (k.bins.find? (fun b => b.2.ctx == ctx && b.2.entryPc == entryPc && decide (b.2.recs.length < 512))).map Prod.fst

/-- Puts a record in a bin: one of its key with room, or a free one (10 R178, steps 2 and 3). -/
def Cluster.binPut (k : Cluster) (ctx : Nat) (r : SpawnRec) (launch bound now : Nat) : Option Cluster :=
  match k.binFor ctx r.entryPc with
  | some n => some { k with bins := mupd k.bins n (fun b => { b with recs := b.recs ++ [r.words] }) }
  | none =>
    match firstBelow (fun n => (mget k.bins n).isNone) 16 0 with
    | none => none
    | some n =>
      let b : Bin :=
        { ctx := ctx, entryPc := r.entryPc, recs := [r.words], prio := r.prio, tmo := r.tmo, launch := launch
          bound := bound, timer := now + spawnTimeout r.tmo }
      some { k with bins := mset k.bins n b }

/-- Place of 10 R178 for a lane: whether it failed, and the cause and address that failed a hardware access. -/
def State.placeRecord (s : State) (cl ctx launch bound : Nat) (r : SpawnRec) : Bool × Option (Nat × Nat) × State :=
  let queue (s : State) : Bool × Option (Nat × Nat) × State :=
    match s.spillHeader cl ctx with
    | .error e => (true, some e, s)
    | .ok q =>
      if (q.count + 8192) % 2 ^ 32 < 2 ^ q.log2n then
        match s.spillPut cl ctx q r with
        | .ok s => (false, none, s)
        | .error e => (true, some e, s)
      else
        match s.hwWrite cl ctx (s.spillAddr cl ctx + 24) (natToBytes 4 (min (q.fails + 1) (2 ^ 32 - 1))) with
        | .ok s => (true, none, s)
        | .error e => (true, some e, s)
  let s := s.charge (s.spillUses cl ctx)
  let waiting := match s.spillHeader cl ctx with
    | .ok q => decide (q.count ≠ 0)
    | .error _ => false
  if waiting then queue s
  else match (s.cluster cl).binPut ctx r launch bound s.now with
    | some k => (false, none, s.setCluster cl k)
    | none => queue s

/-- The lanes of SPAWN in turn: the lanes that failed, the first access that failed, and the state. -/
def placeLanes (cl ctx launch bound : Nat) (rec : Nat → SpawnRec) :
    List Nat → List Nat → Option (Nat × Nat) → State → List Nat × Option (Nat × Nat) × State
  | [], bad, e, s => (bad, e, s)
  | l :: t, bad, e, s =>
    match s.placeRecord cl ctx launch bound (rec l) with
    | (failed, e', s) => placeLanes cl ctx launch bound rec t (if failed then bad ++ [l] else bad) (e.or e') s

/-- SPAWN from an entry address (16 R290). One JOB 6 record tells of the accesses that failed (DEDUCED, log 32). -/
def spawnOp (s : State) (k d : KReg) (b : VReg) (entryPc : Nat) : Attempt State := do
  let act ← active s k
  let v0 ← readV s b.toNat act
  let v1 ← readV s (b.toNat + 1) act
  let v2 ← readV s (b.toNat + 2) act
  let v3 ← readV s (b.toNat + 3) act
  waitPoint s .dev
  let w := s.w
  let record (l : Nat) : SpawnRec :=
    { words := [v0 l, v1 l, v2 l, v3 l], entryPc := entryPc / 4 * 4, prio := w.prio, tmo := w.spTmo }
  let (bad, e, s) := placeLanes s.cur.1 w.ctx w.launch w.spBound record (activeList act) [] none s
  let s := match e with
    | some x => s.hwFault s.cur.1 w.ctx x.1 x.2 3 0 w.pc
    | none => s
  writeK s d (maskOf (fun l => bad.contains l))

def execSpawn (h : Hints) (k : KReg) (d : KReg) (a : SReg) (b : VReg) (s : State) : Host.Outcome State Fault Refusal :=
  run h 1 8 s fun s => do
    needFeature s 4 (.spawn h k d a b)
    let (x, s) ← readS s a
    spawnOp s k d b x.toNat

def execSpawn128 (h : Hints) (k : KReg) (d : KReg) (b : VReg) (entryAddr : DWord) (s : State) :
    Host.Outcome State Fault Refusal :=
  run h 1 16 s fun s => do
    needFeature s 4 (.spawn128 h k d b entryAddr)
    spawnOp s k d b entryAddr.toNat

end Sys2Proof.Machine
end

