-- ==== Sys2Proof/Machine/Queues.lean ====
section
/-!
DEFINITION. Launch and command queues: OnKick, the checks of packets and placement maps, dispatch, and LAUNCH (01 R20,
R24; 10 R162 to R167; 16 R291; 25 R346 to R351).
-/
namespace Sys2Proof.Machine

/-! ### Control space (25 R347) -/

/-- Where a partition's block, a cluster's block and the device block lie. -/
def partBlock (p : Nat) : Nat := controlBase + p * 0x1000000
def clusterBlock (n : Nat) : Nat := controlBase + 0x10000000 + n * 0x10000
def deviceBlock : Nat := controlBase + 0x20000000

/-- The device's own command queue stands beside those of partitions 0 to 15 as number 16; a partition's command queue is
its queue 8. -/
def deviceQueue : Nat := 16
def commandQueue : Nat := 8

def queueAddr (part q : Nat) : Nat :=
  if part = deviceQueue then deviceBlock + 0x40 else partBlock part + (if q < 8 then 0x1000 + 0x40 * q else 0x1200)

/-- The agents that reach a partition's block: Towpath too, since 01 R24 gives it the whole control space, though 25 R347 does
not name it for these blocks (DESIGN CHOICE, log 98). -/
def reachesPart (part : Nat) : RegAgent → Bool
  | .virtualFunction p => p == part
  | .physicalFunction => true
  | .firmware => true
  | .towpath => true

/-- The agents that reach cluster blocks and the device block. -/
def reachesDevice : RegAgent → Bool
  | .virtualFunction _ => false
  | .physicalFunction => true
  | .firmware => true
  | .towpath => true

def reachesQueue (agent : RegAgent) (part : Nat) : Bool :=
  if part = deviceQueue then reachesDevice agent else reachesPart part agent

/-! ### Queues (25 R348) -/

/-- A queue. -/
def State.queue (s : State) (part q : Nat) : RingQueue :=
  if part = deviceQueue then s.dev.cmdQ
  else match mget s.parts part with
    | none => {}
    | some p => if q = commandQueue then p.cmdQ else mgetD p.queues q {}

def State.setQueue (s : State) (part q : Nat) (r : RingQueue) : State :=
  if part = deviceQueue then { s with dev := { s.dev with cmdQ := r } }
  else { s with parts := mupd s.parts part (fun p =>
    if q = commandQueue then { p with cmdQ := r } else { p with queues := mset p.queues q r }) }

def State.updQueue (s : State) (part q : Nat) (f : RingQueue → RingQueue) : State :=
  s.setQueue part q (f (s.queue part q))

/-- Kicks and commands count once the partition is READY (25 R359). -/
def State.queueReady (s : State) (part : Nat) : Bool :=
  if part = deviceQueue then s.dev.main == .up
  else match mget s.parts part with
    | some p => p.ready && !p.outOfService
    | none => false

/-- Raises an MSI-X vector for a queue. -/
def State.queueMsix (s : State) (part vec : Nat) : State :=
  if part = deviceQueue then s.post (.msix physicalFn vec) else s.postMsix part vec

/-- LAUNCH's codes (16 R291). -/
def kickTaken : Nat := 0
def kickStale : Nat := 1
def kickHalted : Nat := 2
def kickNoQueue : Nat := 3
def kickDisabled : Nat := 4

/-- The launching wave learns what became of its kick, if it is still there. -/
def State.kickReturn (s : State) (from? : Option WTag) (code : Nat) : State :=
  match from? with
  | none => s
  | some t =>
    match s.residentOf t with
    | some _ => s.updWave t.cl t.row (fun w => if w.kicking then { w with kickResult := some code } else w)
    | none => s

/-- Halt codes (25 R350). -/
def haltNotVisible : Nat := 1
def haltRange : Nat := 2
def haltPlacement : Nat := 3
def haltCtx : Nat := 4
def haltMalformed : Nat := 5
def haltRing : Nat := 6

/-- Halts a queue: kicks under way return, and vector 2 is raised. Packets held behind a barrier stay held, and go out once the
queue has been started again (DESIGN CHOICE, log 111). -/
def State.haltQueue (s : State) (part q status : Nat) : State :=
  let r := s.queue part q
  let s := s.setQueue part q
    { r with halted := true, status := status, kick := none, pendingKicks := [], mapAsk := none, mapGot := [] }
  let s := s.kickReturn (r.kick.bind Kick.from?) kickHalted
  let s := r.pendingKicks.foldl (fun s k => s.kickReturn k.2 kickHalted) s
  s.queueMsix part 2

/-- Where the ring entry of NEXT lies on its link. -/
def RingQueue.entryAddr (r : RingQueue) : Nat := r.ring + r.next % r.slots * 64

/-- Asks for the ring entry of NEXT (10 R167). An entry that the device does not reach is a read that fails (01 R25) (DEDUCED,
log 87). -/
def State.readRing (s : State) (part q : Nat) : State :=
  let r := s.queue part q
  if busLimit < r.entryAddr + 64 then s.haltQueue part q haltRing
  else
    let (id, s) := s.newId
    let req : HostReq := { ask := .packetRead part q, fn := part, link := r.link, addr := r.entryAddr, len := 64 }
    { s with hostReqs := mset s.hostReqs id req }

/-- S − NEXT modulo 2^32. -/
def kickGap (seq next : Nat) : Nat := (seq + 2 ^ 32 - next % 2 ^ 32) % 2 ^ 32

/-- OnKick on a queue with none under way: the code it returns at once, or none while it goes on. -/
def State.beginKick (s : State) (part q seq : Nat) (from? : Option WTag) : Option Nat × State :=
  let r := s.queue part q
  if 2 ^ 31 ≤ kickGap seq r.next then (some kickStale, s)
  else if r.slots ≤ kickGap seq r.next then (some kickHalted, s.haltQueue part q haltRange)
  else if busLimit < r.entryAddr + 64 then (some kickHalted, s.haltQueue part q haltRing)
  else
    let s := s.setQueue part q { r with kick := some { seq := seq, rereads := 0, from? := from?, reading := true } }
    (none, s.readRing part q)

/-- A kick arrives: ignored while the queue is halted or disabled, behind a kick that is under way or a checkpoint,
otherwise applied. -/
def State.acceptKick (s : State) (part q seq : Nat) (from? : Option WTag) : Option Nat × State :=
  let r := s.queue part q
  if r.halted then (some kickHalted, s)
  else if r.slots = 0 then (some kickDisabled, s)
  else if r.kick.isSome then
    (none, s.setQueue part q { r with pendingKicks := r.pendingKicks ++ [(seq, from?)] })
  else s.beginKick part q seq from?

/-- The kicks that waited, in turn, until one goes on. -/
def State.nextKicks (s : State) (part q : Nat) : List (Nat × Option WTag) → State
  | [] => s.updQueue part q (fun r => { r with pendingKicks := [] })
  | (seq, f) :: rest =>
    match s.beginKick part q seq f with
    | (none, s) => s.updQueue part q (fun r => { r with pendingKicks := rest })
    | (some c, s) =>
      if (s.queue part q).halted then rest.foldl (fun s k => s.kickReturn k.2 kickHalted) (s.kickReturn f c)
      else (s.kickReturn f c).nextKicks part q rest

/-- OnKick returns. -/
def State.endKick (s : State) (part q : Nat) : State :=
  let r := s.queue part q
  let s := s.setQueue part q { r with kick := none }
  (s.kickReturn (r.kick.bind Kick.from?) kickTaken).nextKicks part q r.pendingKicks

/-- A packet has been taken: NEXT advances, and OnKick reads on or returns. -/
def State.advanceNext (s : State) (part q : Nat) : State :=
  let r := s.queue part q
  match r.kick with
  | none => s
  | some k =>
    let next := (r.next + 1) % 2 ^ 32
    let s := s.setQueue part q { r with next := next, kick := some { k with rereads := 0, reading := true, packet := none } }
    if kickGap k.seq next < 2 ^ 31 then s.readRing part q else s.endKick part q

/-! ### Placement maps (10 R162 to R164) -/

/-- What reading bytes of a placement map finds: the bytes, a read that fails, bytes that must first come over a link, or that
the ingress of a cluster holds the read (08 R135). -/
inductive MapRead where
  | bytes (b : List Byte) (s : State)
  | fail (s : State)
  | ask (pa n : Nat)
  | held (cl : Nat)

/-- Bytes of a placement map within one page, where it is. -/
def State.mapPage (s : State) (got : SMap (Option (List Byte))) (ctx pa n ca : Nat) : MapRead :=
  match region pa with
  | .host _ | .peer _ =>
    match mget got pa with
    | some (some b) => .bytes b s
    | some none => .fail s
    | none => .ask pa n
  | _ =>
    match s.readFor ctx pa n with
    | .bytes b s => .bytes b (s.chargeRead pa n ca)
    | .poison => .fail s
    | .held cl _ => .held cl

/-- Bytes of a placement map, read in a context page by page: at most fuel pages; got holds what has come over links (DEDUCED,
log 23). -/
def State.mapRead (s : State) (got : SMap (Option (List Byte))) (ctx : Nat) : Nat → Nat → Nat → MapRead
  | 0, _, _ => .bytes [] s
  | fuel + 1, va, n =>
    if n = 0 then .bytes [] s
    else
      let here := min n (4096 - va % 4096)
      match { s with old := [] }.translate 0 ctx va .read with
      | .error _ => .fail s
      | .ok (pa, attr) =>
        match (s.charge (s.walkUses 0 ctx va)).mapPage got ctx pa here (attrCa attr) with
        | .bytes b s =>
          match s.mapRead got ctx fuel ((va + here) % 2 ^ 64) (n - here) with
          | .bytes t s => .bytes (b ++ t) s
          | r => r
        | r => r

/-- The header of a placement map; none where R164 refuses it. -/
def mapHeader (b : List Byte) : Option MapHeader :=
  let w (i : Nat) : Nat := bytesToNat ((b.drop (8 * i)).take 8)
  let q := (rangeFrom 0 8).map (fun i => bits (w 2) (7 * i + 6) (7 * i))
  let gx := bits (w 0) 15 0 + 1
  let gy := bits (w 0) 31 16 + 1
  let gz := bits (w 0) 47 32 + 1
  if bits (w 0) 63 48 ≠ 0 || bits (w 1) 63 60 ≠ 0 || bits (w 1) 55 53 ≠ 0 || bits (w 1) 47 45 ≠ 0 ||
      bits (w 1) 38 25 ≠ 0 || bits (w 1) 11 8 ≠ 0 || bits (w 2) 63 56 ≠ 0 || w 3 % 64 ≠ 0 ||
      bytesToNat (b.drop 32) ≠ 0 || 2 ^ 24 < gx * gy * gz || 4096 < bits (w 1) 24 12 ||
      q.any (fun d => decide (64 < d)) then none
  else
    some { gx := gx, gy := gy, gz := gz, waves := bits (w 1) 59 56 + 1, spRegs := 8 * (bits (w 1) 52 48 + 1)
           regs := 8 * (bits (w 1) 44 40 + 1), plane := tbit (w 1) 39, vaultG := bits (w 1) 24 12
           tmo := bits (w 1) 7 0, qdepth := q, profile := w 3 }

/-- The number of workgroups. -/
def MapHeader.count (h : MapHeader) : Nat := h.gx * h.gy * h.gz

/-- One entry of a map; none where R164 refuses it. A row is 16·sector + slot. -/
def mapEntry (h : MapHeader) (own : Nat → Bool) (b : List Byte) : Option MapEntry :=
  let w0 := bytesToNat (b.take 8)
  let ws := (rangeFrom 0 16).map (fun i => bytesToNat ((b.drop (8 + 2 * i)).take 2))
  let used := ws.take h.waves
  let rows := used.map (fun x => x % 64)
  if 128 ≤ w0 || bytesToNat (b.drop 40) ≠ 0 || !own w0 || (ws.drop h.waves).any (fun x => x ≠ 0) ||
      used.any (fun x => decide (512 ≤ x)) || !decide (rows.Nodup) ||
      (rangeFrom 0 4).any (fun sec => decide (512 < (rows.filter (fun r => r / 16 == sec)).length * h.regs)) then none
  else some { cl := w0, waves := used.map (fun x => (bits x 8 6, x % 64)) }

/-- The entries of a map whose bytes stand in a list: n of them. -/
def mapEntries (h : MapHeader) (own : Nat → Bool) : Nat → List Byte → Option (List MapEntry)
  | 0, _ => some []
  | n + 1, b =>
    match mapEntry h own (b.take 64) with
    | none => none
    | some e => (mapEntries h own n (b.drop 64)).map (fun t => e :: t)

/-- What reading and checking a whole placement map finds: its fields; that it is refused; what must first come over a link; or
that a read of it is held. -/
inductive MapFound where
  | ok (h : MapHeader) (es : List MapEntry) (s : State)
  | refused (s : State)
  | ask (pa n : Nat)
  | held (cl : Nat)

/-- Reads and checks a whole placement map for a context (10 R164). -/
def State.readMap (s : State) (got : SMap (Option (List Byte))) (ctx va : Nat) : MapFound :=
  if va % 64 ≠ 0 then .refused s
  else
    match s.mapRead got ctx (pagesOf 64) va 64 with
    | .fail s => .refused s
    | .ask pa n => .ask pa n
    | .held cl => .held cl
    | .bytes hb s =>
      match mapHeader hb with
      | none => .refused s
      | some h =>
        match s.mapRead got ctx (pagesOf (64 * h.count)) (va + 64) (64 * h.count) with
        | .fail s => .refused s
        | .ask pa n => .ask pa n
        | .held cl => .held cl
        | .bytes eb s =>
          let part := s.partOfCtx ctx
          match mapEntries h (fun n => s.partOfCluster n == some part) h.count eb with
          | none => .refused s
          | some es => .ok h es s

/-! ### Dispatch (25 R349, R350) -/

/-- A launch packet. -/
structure LaunchPacket where
  seq : Nat
  ctx : Nat
  prio : Nat
  barrier : Bool
  kernel : Nat
  pmap : Nat
  done : Nat
  args : List DWord
  deriving DecidableEq, Repr

/-- The packet that 64 bytes hold; none where a reserved bit is set. The low bits of KERNEL are not kept, as PC has none (12
R201) (DESIGN CHOICE, log 93). -/
def launchPacket (b : List Byte) : Option LaunchPacket :=
  let w (i : Nat) : Nat := bytesToNat ((b.drop (8 * i)).take 8)
  if bits (w 0) 47 44 ≠ 0 || bits (w 0) 55 50 ≠ 0 || bits (w 0) 63 57 ≠ 0 || w 3 % 8 ≠ 0 then none
  else
    some { seq := bits (w 0) 31 0, ctx := bits (w 0) 43 32, prio := bits (w 0) 49 48, barrier := tbit (w 0) 56
           kernel := w 1 / 4 * 4, pmap := w 2, done := w 3, args := (rangeFrom 4 4).map (fun i => BitVec.ofNat 64 (w i)) }

/-- A context of a partition that may launch; context 0 is the firmware's. -/
def State.mayLaunch (s : State) (part ctx : Nat) : Bool :=
  match mget s.ctxs ctx with
  | some c => ctx != 0 && c.part == part && c.life != .destroying
  | none => false

/-- The status with which a packet that has been read halts its queue, before its map is read (25 R350). -/
def State.packetStatus (s : State) (part : Nat) (from? : Option WTag) (b : List Byte) : Option Nat :=
  match launchPacket b with
  | none => some haltMalformed
  | some p =>
    if !s.mayLaunch part p.ctx || from?.any (fun t => t.ctx ≠ p.ctx) then some haltCtx else none

/-- Puts the workgroups of a launch into their clusters' start queues: entries from index i. -/
def State.enqueueAll (s : State) (launch : Nat) : List MapEntry → Nat → State
  | [], _ => s
  | e :: t, i =>
    let k := s.cluster e.cl
    (s.setCluster e.cl { k with startQ := k.startQ ++ [{ launch := launch, index := i }] }).enqueueAll launch t (i + 1)

/-- A launch begins: its record, and its workgroups in their clusters' start queues. -/
def State.beginLaunch (s : State) (part q : Nat) (p : LaunchPacket) (h : MapHeader) (es : List MapEntry) : State :=
  let (id, s) := s.newId
  let r := s.queue part q
  let l : Launch :=
    { part := part, queue := q, seq := p.seq, ctx := p.ctx, prio := min p.prio (s.ctxOf p.ctx).prio
      kernel := p.kernel, args := p.args, hdr := h, entries := es, done := p.done, link := r.link, left := h.count
      profiling := if h.profile = 0 then [] else (es.map MapEntry.cl).eraseDups }
  let s := { s with launches := mset s.launches id l }
  (s.setQueue part q { r with launches := r.launches ++ [id], mapAsk := none, mapGot := [] }).enqueueAll id es 0

/-- Asks a link for part of a queue's placement map, unless a request is out. -/
def State.askMap (s : State) (part q pa n : Nat) : State :=
  if (s.queue part q).mapAsk.isSome then s
  else
    let (id, s) := s.askLink part pa n (.mapRead part q pa)
    s.updQueue part q (fun r => { r with mapAsk := some id })

/-- Dispatches a packet whose checks before R164 have passed: the launch begins, or the queue halts. The answer is false while
its placement map is read over a link or that read is held. -/
def State.dispatch (s : State) (part q : Nat) (b : List Byte) : State × Bool :=
  match launchPacket b with
  | none => (s.haltQueue part q haltMalformed, true)
  | some p =>
    if s.thingHeld (.map part q) then (s, false)
    else match s.readMap (s.queue part q).mapGot p.ctx p.pmap with
      | .refused s => (s.haltQueue part q haltPlacement, true)
      | .ask pa n => (s.askMap part q pa n, false)
      | .held cl => (s.holdThing cl p.ctx (.map part q), false)
      | .ok h es s => (s.beginLaunch part q p h es, true)

/-- A launch of the partition may be admitted: no checkpoint is in progress (08 R143). -/
def State.admits (s : State) (part : Nat) : Bool :=
  match mget s.parts part with
  | some p => !p.checkpointing
  | none => false

/-- A packet that has been read and checked waits: behind a barrier packet, before its own barrier, or for a
checkpoint. -/
def State.mustHold (s : State) (part q : Nat) (b : List Byte) : Bool :=
  let r := s.queue part q
  !r.held.isEmpty || !s.admits part || ((launchPacket b).any LaunchPacket.barrier && !r.launches.isEmpty)

/-- Dispatch of OnKick for a launch queue. -/
def State.takePacket (s : State) (part q : Nat) (from? : Option WTag) (b : List Byte) : State :=
  match s.packetStatus part from? b with
  | some st => s.haltQueue part q st
  | none =>
    if s.mustHold part q b then
      (s.updQueue part q (fun r => { r with held := r.held ++ [{ bytes := b, from? := from? }] })).advanceNext part q
    else
      match s.dispatch part q b with
      | (s, true) => if (s.queue part q).halted then s else s.advanceNext part q
      | (s, false) => s.updQueue part q (fun r => { r with kick := r.kick.map (fun k => { k with packet := some b }) })

/-! ### LAUNCH (16 R291) -/

/-- LAUNCH: the wave waits while OnKick goes on (DEDUCED, log 26). -/
def execLaunch (h : Hints) (d a b : SReg) (s : State) : Host.Outcome State Fault Refusal :=
  run h 1 8 s fun s => do
    let (qn, s1) ← readS s a
    let (seq, s1) ← readS s1 b
    let part := s.partOfCtx s.w.ctx
    let t := s.tag
    let done (code : Nat) (s : State) : Attempt State :=
      writeS (s.updW (fun w => { w with kicking := false, kickResult := none })) d (BitVec.ofNat 64 code)
    if s.w.kicking then
      match s.w.kickResult with
      | none => hold .dep
      | some code => done code s1
    else do
    waitPoint s .dev
    counterRoom s Op.ld
    if 8 ≤ qn.toNat then done kickNoQueue s1
    else
      match s1.acceptKick part qn.toNat (seq.toNat % 2 ^ 32) (some t) with
      | (some code, s) => done code s
      | (none, _) =>
        holdWith .dep (fun o =>
          ((o.acceptKick part qn.toNat (seq.toNat % 2 ^ 32) (some t)).2).updW (fun w => { w with kicking := true }))

/-! ### Steps of queues -/

/-- KICK of a launch queue (DESIGN CHOICE, log 11). -/
def execKick (agent : RegAgent) (part q seq : Nat) (s : State) : Host.Outcome State Fault Refusal :=
  if !reachesPart part agent || 8 ≤ q then .next (s.post (.unsupported (queueAddr part q + 0x20)))
  else if !s.queueReady part then .next s
  else .next (s.acceptKick part q (seq % 2 ^ 32) none).2

/-- KICK of a command queue. -/
def execCommandKick (agent : RegAgent) (queue seq : Nat) (s : State) : Host.Outcome State Fault Refusal :=
  if !reachesQueue agent queue then .next (s.post (.unsupported (queueAddr queue commandQueue + 0x20)))
  else if !s.queueReady queue then .next s
  else .next (s.acceptKick queue commandQueue (seq % 2 ^ 32) none).2

/-- GO: a halted queue starts anew at NEWNEXT. -/
def execGo (agent : RegAgent) (part queue newNext : Nat) (s : State) : Host.Outcome State Fault Refusal :=
  if !reachesQueue agent part || commandQueue < queue then .next (s.post (.unsupported (queueAddr part queue + 0x28)))
  else
    let r := s.queue part queue
    if r.halted then .next (s.setQueue part queue { r with next := newNext % 2 ^ 32, halted := false, status := 0 })
    else .next s

/-- The reread of a ring entry whose SEQ did not match, 156 ns later: State.subj names the partition and the queue. -/
def execPacketReread (s : State) : Host.Outcome State Fault Refusal :=
  let part := s.subj.a
  let q := s.subj.b
  let r := s.queue part q
  match r.kick with
  | none => .next s
  | some k =>
    if k.reading || s.now < k.due then .next s
    else .next ((s.setQueue part q { r with kick := some { k with reading := true, rereads := k.rereads + 1 } }).readRing part q)

/-- Dispatches held packets, oldest first, while they may be: n bounds them. -/
def State.releaseHeld (s : State) (part q : Nat) : Nat → State
  | 0 => s
  | n + 1 =>
    let r := s.queue part q
    if r.halted then s
    else
      match r.held with
      | [] => s
      | p :: rest =>
        if !s.admits part || ((launchPacket p.bytes).any LaunchPacket.barrier && !r.launches.isEmpty) then s
        else
          let s1 := s.setQueue part q { r with held := rest }
          match s1.packetStatus part p.from? p.bytes with
          | some st => s1.haltQueue part q st
          | none =>
            match s1.dispatch part q p.bytes with
            | (s2, true) => s2.releaseHeld part q n
            | (s2, false) => s2.updQueue part q (fun r => { r with held := p :: rest })

/-- The packet of a queue that waits for its placement map goes on. -/
def State.resumeMap (s : State) (part q : Nat) : State :=
  let r := s.queue part q
  match r.kick.bind (fun k => k.packet.map (fun p => (k, p))) with
  | some (k, p) => s.takePacket part q k.from? p
  | none => s.releaseHeld part q r.held.length

/-- Part of a queue's placement map has come over its link. -/
def State.mapAnswer (s : State) (id part q pa : Nat) (ok : Bool) (b : List Byte) : State :=
  let r := s.queue part q
  if r.mapAsk ≠ some id then s
  else
    (s.setQueue part q { r with mapAsk := none, mapGot := mset r.mapGot pa (if ok then some b else none) }).resumeMap part q

/-- BARRIER_DISPATCH: held packets go out once every earlier launch of the queue has completed. -/
def execBarrierDispatch (s : State) : Host.Outcome State Fault Refusal :=
  let part := s.subj.a
  let q := s.subj.b
  .next (s.releaseHeld part q (s.queue part q).held.length)

end Sys2Proof.Machine
end

