-- ==== Sys2Proof/Machine/Fabric.lean ====
section
/-!
DEFINITION. The Braid: routes, flow control, arbitration, injection and memory-port transfers (05 R82 to R99).
-/
namespace Sys2Proof.Machine

/-! ### Ports (05 R83) -/

/-- Ports of a router: local, W, N, E and S. An input and an output of each. -/
def portLocal : Nat := 0
def portW : Nat := 1
def portN : Nat := 2
def portE : Nat := 3
def portS : Nat := 4

/-- The port at the other end of a link. -/
def portAcross (p : Nat) : Nat := if p = portW then portE else if p = portE then portW else if p = portN then portS else portN

/-- The site an output leads to. -/
def siteAfter (site out : Nat) : Nat :=
  let r := siteRow site
  let c := siteCol site
  if out = portE then siteOf r ((c + 1) % 16)
  else if out = portW then siteOf r ((c + 15) % 16)
  else if out = portS then siteOf (r + 1) c
  else if out = portN then siteOf (r - 1) c
  else site

/-- The hop crosses the dateline (05 R82). -/
def crossesDateline (site out : Nat) : Bool :=
  (out == portE && siteCol site == 15) || (out == portW && siteCol site == 0)

/-- Keys of an output's counts and of an input's crossbar in State.ports. -/
def outKey (site out : Nat) : Nat := 16 * site + out
def inKey (site inp : Nat) : Nat := 16 * site + 8 + inp

/-! ### Routes (05 R86, R87, R94) -/

/-- Every column on the way from c to c' clockwise lies in a partition: n hops left. -/
def arcInside (cols : List Nat) : Nat → Nat → Bool
  | 0, c => cols.contains c
  | n + 1, c => cols.contains c && arcInside cols n ((c + 1) % 16)

/-- A row path goes clockwise (05 R86). -/
def goesClockwise (cols : List Nat) (c c' : Nat) : Bool :=
  let hops := (c' + 16 - c) % 16
  if cols.length = 16 then decide (hops ≤ 8) else arcInside cols hops c

/-- The route of a packet (05 R87): along the row first, along the column first, or by way of a column one hop before the
destination's. -/
inductive Way where
  | rowFirst
  | colFirst
  | bent (c : Nat)
  deriving DecidableEq, Repr

def wayOf (cols : List Nat) (src dst : Nat) : Way :=
  let sr := siteRow src
  let sc := siteCol src
  let dr := siteRow dst
  let dc := siteCol dst
  if sr = dr || sc = dc then .rowFirst
  else if siteIsCluster (siteOf sr dc) then .rowFirst
  else if siteIsCluster src != siteIsCluster dst then .colFirst
  else .bent (if goesClockwise cols sc dc then (dc + 15) % 16 else (dc + 1) % 16)

/-- The output a packet takes at a site. -/
def outAt (cols : List Nat) (way : Way) (src dst site : Nat) : Nat :=
  let r := siteRow site
  let c := siteCol site
  let dr := siteRow dst
  let dc := siteCol dst
  let row := if goesClockwise cols (siteCol src) dc then portE else portW
  let col := if r < dr then portS else portN
  match way with
  | .rowFirst => if c ≠ dc then row else if r ≠ dr then col else portLocal
  | .colFirst => if r ≠ dr then col else if c ≠ dc then row else portLocal
  | .bent c' => if r ≠ dr then (if c ≠ c' then row else col) else if c ≠ dc then row else portLocal

/-- The columns of a packet's partition. -/
def State.colsOf (s : State) (p : Packet) : List Nat := ((mget s.parts p.part).map Part.cols).getD []

/-- The clusters' sites a multicast copy still serves whose way at a site goes by an output. -/
def destsBy (cols : List Nat) (p : Packet) (site out : Nat) : List Nat :=
  p.dests.filter (fun d => outAt cols (if p.colFirst then .colFirst else .rowFirst) p.src d site == out)

/-- The site of the slice that relays a semaphore add, and its answer (16 R369). -/
def Packet.relaySite (p : Packet) : Nat := sliceSite (relaySlice (siteNumber (if p.answer then p.src else p.dst)))

/-- The output that leads to the next site of the same column. -/
def portTo (site goal : Nat) : Nat := if siteRow site < siteRow goal then portS else portN

/-- The output a semaphore add takes at a site, or its answer (16 R369): to the relay slice as any packet goes there, and on by
one hop; the answer back by one hop, and on from the relay slice. -/
def addOut (cols : List Nat) (p : Packet) (site : Nat) : Nat :=
  let r := p.relaySite
  if p.answer then
    if p.relayed || site == r then outAt cols (wayOf cols r p.dst) r p.dst site else portTo site r
  else if p.relayed then portLocal
  else if site = r then portTo r p.dst
  else outAt cols (wayOf cols p.src r) p.src r site

/-- The packet wants an output at a site. -/
def State.wants (s : State) (p : Packet) (site out : Nat) : Bool :=
  let cols := s.colsOf p
  if p.kind = 7 then !(destsBy cols p site out).isEmpty
  else if p.kind = 0xA then addOut cols p site == out
  else outAt cols (wayOf cols p.src p.dst) p.src p.dst site == out

/-! ### Arbitration (05 R89 to R91) -/

def State.port (s : State) (key : Nat) : OutPort := mgetD s.ports key {}
def State.setPort (s : State) (key : Nat) (o : OutPort) : State := { s with ports := mset s.ports key o }

/-- Where a packet waits at a router: the site and the input port. -/
def Packet.at? (p : Packet) : Option (Nat × Nat) :=
  match p.loc with
  | .queue => some (p.src, portLocal)
  | .buffer site port _ _ => some (site, port)
  | .agent => none
  | .arrived _ => none

/-- The head has reached its input by a cycle. -/
def Packet.here (p : Packet) (now : Nat) : Bool :=
  match p.loc with
  | .buffer _ _ _ t => decide (t ≤ now)
  | .queue => true
  | .agent => false
  | .arrived _ => false

/-- The order of arrival at an input. -/
def Packet.arrivalKey (p : Packet) : Nat :=
  match p.loc with
  | .buffer _ _ _ t => t
  | .queue => p.stamp
  | .agent => 0
  | .arrived t => t

/-- VC on the link a packet would cross, if it is eligible (05 R89): n is 2 and 3 in escape. -/
def eligibleVc (o : OutPort) (p : Packet) (side : Bool) : Option Nat :=
  let esc := if side then o.esc3 else o.esc2
  let escVc := if side then 3 else 2
  let inEscape := match p.loc with
    | .buffer _ _ vc _ => decide (2 ≤ vc)
    | _ => false
  if inEscape then (if p.flits ≤ esc then some escVc else none)
  else if 4 ≤ o.shared then some (if side then 1 else 0)
  else if p.flits ≤ esc then some escVc
  else none

/-- The VC a packet may take over an output of its site; local is always open. -/
def State.vcFor (s : State) (p : Packet) (site out : Nat) : Option Nat :=
  if out = portLocal then some 0
  else eligibleVc (s.port (outKey site out)) p (p.side || crossesDateline site out)

/-- The packets at an input of a site whose heads are there. -/
def State.packetsAt (s : State) (site inp : Nat) : List (Nat × Packet) :=
  s.packets.filter (fun e => e.2.at? == some (site, inp) && e.2.here s.now)

/-- A packet that came to the input earlier with the same ends goes before (05 R91). The destination of a multicast is the
first cluster of its list, also once a copy for that cluster has left (DESIGN CHOICE, log 106). -/
def behindPair (l : List (Nat × Packet)) (e : Nat × Packet) : Bool :=
  l.any (fun f => f.1 ≠ e.1 && f.2.src == e.2.src && f.2.dst == e.2.dst && decide (f.2.arrivalKey < e.2.arrivalKey))

/-- An add stands at its relay slice. -/
def Packet.atRelay (p : Packet) (site : Nat) : Bool := p.kind == 0xA && !p.answer && !p.relayed && p.relaySite == site

/-- An add at its relay slice goes on to its cluster after those that came there before it (16 R369). -/
def State.behindAdd (s : State) (site : Nat) (p : Packet) : Bool :=
  p.atRelay site && s.packets.any (fun f =>
    (f.2.at?.map Prod.fst) == some site && f.2.here s.now && f.2.atRelay site && f.2.dst == p.dst && decide (f.2.arrivalKey < p.arrivalKey))

/-- Rank within one input: VC3, VC2, then the earlier of the shared ones. -/
def vcRank (p : Packet) : Nat :=
  match p.loc with
  | .buffer _ _ 3 _ => 0
  | .buffer _ _ 2 _ => 1
  | _ => 2

/-- What an input offers an output: the packet and the VC it would take. -/
def State.offer (s : State) (site inp out : Nat) : Option (Nat × Packet × Nat) :=
  if s.now < (s.port (inKey site inp)).busyUntil then none
  else
    let l := s.packetsAt site inp
    let c := l.filterMap (fun e =>
      if s.wants e.2 site out && !behindPair l e && !s.behindAdd site e.2 then (s.vcFor e.2 site out).map (fun vc => (e.1, e.2, vc)) else none)
    leastBy (fun x => vcRank x.2.1) (sortBy (fun x => x.2.1.arrivalKey) c)

/-- The first input from a pointer on that offers an output a packet: n inputs to ask. -/
def State.pick (s : State) (site out : Nat) : Nat → Nat → Option (Nat × Nat × Packet × Nat)
  | 0, _ => none
  | n + 1, inp =>
    match s.offer site inp out with
    | some x => some (inp, x)
    | none => s.pick site out n ((inp + 1) % 5)

/-- The counts of an output after a grant of n flits in a VC. -/
def OutPort.take (o : OutPort) (vc n : Nat) : OutPort :=
  if vc = 2 then { o with esc2 := o.esc2 - n }
  else if vc = 3 then { o with esc3 := o.esc3 - n }
  else { o with shared := o.shared - n }

/-- The counts of an output after a credit. -/
def OutPort.give (o : OutPort) (c : Credit) : OutPort :=
  if c.vc = 2 then { o with esc2 := min 4 (o.esc2 + c.flits) }
  else if c.vc = 3 then { o with esc3 := min 4 (o.esc3 + c.flits) }
  else { o with shared := min 12 (o.shared + c.flits) }

/-- The credits for the flits that leave an input slot, from flit i on, n of them: each two cycles after its flit leaves. -/
def State.owe (s : State) (site out vc : Nat) : Nat → Nat → State
  | 0, _ => s
  | n + 1, i =>
    let (id, s) := s.newId
    let c : Credit := { site := site, out := out, vc := vc, due := s.now + 3 + i, flits := 1 }
    ({ s with credits := mset s.credits id c }).owe site out vc n (i + 1)

/-- The slots a packet leaves behind at an input are owed to the output upstream. -/
def State.leave (s : State) (p : Packet) : State :=
  match p.loc with
  | .buffer site port vc _ => s.owe (siteAfter site port) (portAcross port) vc p.flits 0
  | .queue => s
  | .agent => s
  | .arrived _ => s

/-- Where a packet of n flits stands after a hop: its head is at the next input three cycles later, or at the agent two
cycles later, where it has arrived with its last flit (05 R90). -/
def hopLoc (now site out vc n : Nat) : PktLoc :=
  if out = portLocal then .arrived (now + 1 + n) else .buffer (siteAfter site out) (portAcross out) vc (now + 3)

/-- A packet goes on by an output. A multicast packet whose copies go different ways leaves a copy for the others. -/
def State.hop (s : State) (site out : Nat) (g : Nat × Nat × Packet × Nat) : State :=
  let (inp, id, p, vc) := g
  let o := s.port (outKey site out)
  let o' := if out = portLocal then o else o.take vc p.flits
  let s := s.setPort (outKey site out) { o' with ptr := (inp + 1) % 5, busyUntil := s.now + p.flits }
  let cols := s.colsOf p
  let mine := destsBy cols p site out
  let rest := if p.kind = 7 then p.dests.filter (fun d => !mine.contains d) else []
  let s := s.setPort (inKey site inp)
    { s.port (inKey site inp) with busyUntil := s.now + p.flits, drains := rest.isEmpty }
  let moved : Packet :=
    { p with loc := hopLoc s.now site out vc p.flits, vc := if out = portLocal then p.vc else vc
             side := p.side || crossesDateline site out, relayed := p.relayed || (p.kind == 0xA && site == p.relaySite) }
  if p.kind = 7 then
    let copy := { moved with dests := mine, dst := mine.headD p.dst }
    if rest.isEmpty then { s.leave p with packets := mset (s.leave p).packets id copy }
    else
      let (n, s) := s.newId
      { s with packets := mset (mset s.packets id { p with dests := rest }) n copy }
  else
    let s := s.leave p
    { s with packets := mset s.packets id moved }

/-- The credits of an output that are due have returned (05 R89, 19 R298). -/
def State.dueCredits (s : State) (site out : Nat) : State :=
  (s.credits.filter (fun e => e.2.site == site && e.2.out == out && decide (e.2.due ≤ s.now))).foldl (fun s e =>
    { s.setPort (outKey site out) ((s.port (outKey site out)).give e.2) with credits := mdel s.credits e.1 }) s

/-- PACKET_GRANT at the site and output that State.subj names. -/
def execPacketGrant (s : State) : Host.Outcome State Fault Refusal :=
  let site := s.subj.a
  let out := s.subj.b
  let s := s.dueCredits site out
  let o := s.port (outKey site out)
  if s.now < o.busyUntil || 5 ≤ out then .next s
  else match s.pick site out 5 o.ptr with
    | none => .next s
    | some g => .next (s.hop site out g)

/-- CREDIT_RETURN of the credit that State.subj names. -/
def execCreditReturn (s : State) : Host.Outcome State Fault Refusal :=
  match mget s.credits s.subj.a with
  | none => .next s
  | some c =>
    if s.now < c.due then .next s
    else
      let key := outKey c.site c.out
      .next { s.setPort key ((s.port key).give c) with credits := mdel s.credits s.subj.a }

/-! ### Injection and memory-port transfers (05 R96 to R99) -/

/-- Flits an injection queue holds. -/
def injectionQueue : Nat := 16

/-- Flit tokens of a port at full allotment; it has as many before the first window opens (DESIGN CHOICE, log 94). -/
def fullTokens : Nat := 256

/-- Flits in the injection queue of a site: of the packets that wait there, and of one that is leaving, a flit a cycle from
the cycle after its grant (05 R90, 19 R298). -/
def State.queuedFlits (s : State) (site : Nat) : Nat :=
  let i := s.port (inKey site portLocal)
  s.packets.foldl (fun n e => if e.2.loc == .queue && e.2.src == site then n + e.2.flits else n)
    (if i.drains then i.busyUntil - s.now else 0)

/-- The flit tokens a packet draws: once for each destination of a multicast. -/
def Packet.tokens (p : Packet) : Nat := if p.kind = 7 then p.flits * p.dests.length else p.flits

/-- The next packet of an agent: the least of those that have their place in its outbound order. -/
def State.nextOut (s : State) (site : Nat) : Option (Nat × Packet) :=
  leastBy (fun e => e.2.stamp) (s.packets.filter (fun e => e.2.loc == .agent && e.2.src == site && e.2.stamp ≠ 0))

/-- Counts flits a partition's Braid injection used in the window. -/
def State.noteInjection (s : State) (part flits : Nat) : State :=
  { s with parts := mupd s.parts part (fun p => { p with injectDraw := p.injectDraw + flits }) }

/-- PACKET_INJECTION at the site that State.subj names. A multicast enters once the tokens cover its length, and draws what there
is of its length times its destinations (DESIGN CHOICE, log 95). -/
def execPacketInjection (s : State) : Host.Outcome State Fault Refusal :=
  let site := s.subj.a
  match s.nextOut site with
  | none => .next s
  | some (id, p) =>
    let left := mgetD s.flitTokens site fullTokens
    if left < p.flits || s.windowDue || injectionQueue < s.queuedFlits site + p.flits then .next s
    else
      let s := s.noteInjection p.part p.tokens
      .next { s with
        flitTokens := mset s.flitTokens site (left - p.tokens)
        packets := mset s.packets id { p with loc := .queue } }

/-- LINE_TRANSFER: the slice and line that State.subj names; c is 0 for a fill, 1 for a write-back that keeps the line, and
2 for an eviction of it (DESIGN CHOICE, log 27). -/
def execLineTransfer (s : State) : Host.Outcome State Fault Refusal :=
  let x := s.slice s.subj.a
  let line := s.subj.b
  let spend (n : Nat) (l : SMap CacheLine) : Host.Outcome State Fault Refusal :=
    if n = 0 || (decide (n ≤ x.tokens) && !s.windowDue) then .next (s.setSlice s.subj.a ({ x with lines := l }.draw n false))
    else .next s
  if x.failed then .next s
  else match s.subj.c, mget x.lines line with
    | 0, none =>
      if sliceHomed (64 * line) && s.homeOf 0 (64 * line) == s.subj.a then
        let (n, l) := useLine x.lines line (.read 1)
        spend n l
      else .next s
    | 1, some c => if c.dirty then spend 1 (mset x.lines line { c with dirty := false }) else .next s
    | 2, some c => spend (if c.dirty then 1 else 0) (mdel x.lines line)
    | _, _ => .next s

end Sys2Proof.Machine
end

