-- ==== Sys2Proof/Machine/Plane.lean ====
section
/-!
DEFINITION. The plane instructions and the plane's tile transfers (10 R172, R173; 22 R318 to R328).
-/
namespace Sys2Proof.Machine

/-! ### Which cells execute (22 R318) -/

/-- A plane is 64 cells wide and high. Cell (x, y) is number 64·y + x. -/
def planeSide : Nat := 64
def cellsPerReg : Nat := 4096

/-- The sum of f y · 2^(64·y) over n rows from y. -/
def rowsMask (f : Nat → Nat) : Nat → Nat → Nat
  | 0, _ => 0
  | n + 1, y => f y * 2 ^ (planeSide * y) + rowsMask f n (y + 1)

/-- The cells gated by a lane mask: lanes 0 to 63 gate rows, lanes 64 to 127 gate columns. -/
def gateMask (m : Mask) : CellMask :=
  let cols := m.toNat / 2 ^ 64
  BitVec.ofNat 4096 (rowsMask (fun y => if m.getLsbD y then cols else 0) planeSide 0)

/-- The cells within the extent. -/
def Plane.extent (p : Plane) : CellMask :=
  BitVec.ofNat 4096 (rowsMask (fun y => if y ≤ p.hm1.toNat then 2 ^ (p.wm1.toNat + 1) - 1 else 0) planeSide 0)

/-- The cells that execute. -/
def Plane.exec (p : Plane) (gate : CellMask) : CellMask := p.extent &&& p.enable &&& gate

/-- The cells of a mask within the extent, in ascending order of y and then of x. -/
def Plane.cellList (p : Plane) (m : CellMask) : List Nat :=
  (rangeFrom 0 (p.hm1.toNat + 1)).flatMap (fun y =>
    ((rangeFrom 0 (p.wm1.toNat + 1)).map (fun x => planeSide * y + x)).filter (fun c => m.getLsbD c))

/-- One cell of a plane register. -/
def Plane.cell (p : Plane) (r : PReg) (c : Nat) : Word := mgetD p.cells (cellsPerReg * r.toNat + c) 0

/-- Writes a cell and raises its flags. -/
def Plane.put (p : Plane) (d : PReg) (c : Nat) (x : Word × FFlags) : Plane :=
  { p with cells := msetD p.cells (cellsPerReg * d.toNat + c) 0 x.1, flags := raiseAt p.flags c x.2 }

/-- Every cell of a list gets what f gives of the plane as it was. -/
def Plane.mapCells (p : Plane) (d : PReg) (cs : List Nat) (f : Nat → Word × FFlags) : Plane :=
  cs.foldl (fun q c => q.put d c (f c)) p

/-- A plane instruction: the feature, and the plane held (10 R172). -/
def planeOf (s : State) (i : Instr) : Attempt Plane := do
  needFeature s 0 i
  match s.myPlane with
  | some p => pure p
  | none => illegal s i

/-- The plane takes an instruction of the wave (10 R173, 22 R328): none whose steps have begun is under way, none of a higher
sector has issued in this cycle, and no load of the workgroup is still to be read. -/
def planeFree (s : State) : Attempt Unit :=
  let busy := (s.cluster s.cur.1).planeTurn.any (fun p =>
    (p.time == s.now && decide (s.cur.2 / 16 < p.sector)) ||
      p.begun.any (fun r => r ≠ s.cur.2 && s.planeBegun s.cur.1 r))
  if (s.myPlane.isSome && busy) || s.planeLoading then hold .dep else .ok ()

/-- Runs a plane instruction of some plane steps, each charged at class 5 (22 R319). -/
def runPlane (h : Hints) (steps : State → Nat) (len : Nat) (s : State) (body : State → Attempt State) :
    Host.Outcome State Fault Refusal :=
  runWith h (fun s => { floor := 5, count := steps s, plane := true }) len true s fun s => do
    planeFree s
    body s

/-- Cell arithmetic: every executing cell gets f of the plane and its number. -/
def planeOp (h : Hints) (k : KReg) (i : Instr) (steps : Nat) (d : PReg) (len : Nat)
    (f : Plane → Nat → Word × FFlags) (s : State) : Host.Outcome State Fault Refusal :=
  runPlane h (fun _ => steps) len s fun s => do
    let p ← planeOf s i
    let m ← readK s k
    pure (s.setPlane s.cur.1 (some (p.mapCells d (p.cellList (p.exec (gateMask m))) (f p))))

/-! ### PCFG and PEVAL -/

/-- PCFG. -/
def execPcfg (h : Hints) (k : KReg) (wm1 hm1 : BitVec 6) (s : State) : Host.Outcome State Fault Refusal :=
  runPlane h (fun _ => 1) 12 s fun s => do
    let p ← planeOf s (.pcfg h k wm1 hm1)
    let _ ← readK s k
    pure (s.setPlane s.cur.1 (some { p with wm1 := wm1, hm1 := hm1 }))

/-- A coordinate x + O + 0.5, exact. -/
def coord (x : Nat) (o : BitVec 16) : FVal :=
  let z : Int := 2 * ((x : Int) + o.toInt) + 1
  .fin (decide (z < 0)) z.natAbs (-1)

/-- R(coefficient × coordinate + addend). -/
def evalStep (b : Word) (z : FVal) (a : Word × FFlags) : Word × FFlags :=
  let r := rFlush (exactFma .rne (f32val b) z (f32val a.1))
  (r.1, r.2 ||| a.2)

/-- The coefficients of PEVAL: the halves of its scalars. -/
structure Coefs where
  a : Word
  b : Word
  c : Word
  d : Word
  e : Word
  f : Word

/-- What PEVAL computes in a cell (22 R322). -/
def evalCell (form : PForm) (q : Coefs) (ox oy : BitVec 16) (c : Nat) : Word × FFlags :=
  let x := coord (c % planeSide) ox
  let y := coord (c / planeSide) oy
  let quad :=
    let t := evalStep q.d x (evalStep q.e y (q.b, 0))
    let u := evalStep q.f y (q.c, 0)
    let inner := rFlush (exactFma .rne (f32val u.1) y (f32val q.a))
    let r := rFlush (exactFma .rne (f32val t.1) x (f32val inner.1))
    (r.1, r.2 ||| inner.2 ||| t.2 ||| u.2)
  match form with
  | .lin => evalStep q.b x (evalStep q.c y (q.a, 0))
  | .quad => quad
  | .expq =>
    let r := planeExp2 quad.1
    (r.1, r.2 ||| quad.2)

/-- PEVAL. -/
def execPeval (h : Hints) (k : KReg) (form : PForm) (add : Bool) (d : PReg) (a b c : SReg) (ox oy : BitVec 16)
    (s : State) : Host.Outcome State Fault Refusal :=
  let steps := (if form = .expq then 2 else 1) + (if add then 1 else 0)
  runPlane h (fun _ => steps) 16 s fun s => do
    let p ← planeOf s (.peval h k form add d a b c ox oy)
    let m ← readK s k
    let (ab, s) ← readS s a
    let (cd, s) ← readS s b
    let (ef, s) ← if form = .lin then pure (0, s) else readS s c
    let hi (z : DWord) : Word := z.extractLsb' 32 32
    let lo (z : DWord) : Word := z.extractLsb' 0 32
    let q : Coefs := { a := lo ab, b := hi ab, c := lo cd, d := hi cd, e := lo ef, f := hi ef }
    let one (n : Nat) : Word × FFlags :=
      let r := evalCell form q ox oy n
      if add then
        let t := planeAdd (p.cell d n) r.1
        (t.1, t.2 ||| r.2)
      else r
    pure (s.setPlane s.cur.1 (some (p.mapCells d (p.cellList (p.exec (gateMask m))) one)))

/-! ### Cell arithmetic (22 R323) -/

def execPadd (h : Hints) (k : KReg) (d a b : PReg) (s : State) : Host.Outcome State Fault Refusal :=
  planeOp h k (.padd h k d a b) 1 d 8 (fun p c => planeAdd (p.cell a c) (p.cell b c)) s

def execPmul (h : Hints) (k : KReg) (d a b : PReg) (s : State) : Host.Outcome State Fault Refusal :=
  planeOp h k (.pmul h k d a b) 1 d 8 (fun p c => planeMul (p.cell a c) (p.cell b c)) s

def execPfma (h : Hints) (k : KReg) (d a b c : PReg) (s : State) : Host.Outcome State Fault Refusal :=
  planeOp h k (.pfma h k d a b c) 1 d 8 (fun p n => planeFma (p.cell a n) (p.cell b n) (p.cell c n)) s

def execPmin (h : Hints) (k : KReg) (d a b : PReg) (s : State) : Host.Outcome State Fault Refusal :=
  planeOp h k (.pmin h k d a b) 1 d 8 (fun p c => f32minmax false (p.cell a c) (p.cell b c)) s

def execPmax (h : Hints) (k : KReg) (d a b : PReg) (s : State) : Host.Outcome State Fault Refusal :=
  planeOp h k (.pmax h k d a b) 1 d 8 (fun p c => f32minmax true (p.cell a c) (p.cell b c)) s

def execPexp2 (h : Hints) (k : KReg) (d a : PReg) (s : State) : Host.Outcome State Fault Refusal :=
  planeOp h k (.pexp2 h k d a) 2 d 8 (fun p c => planeExp2 (p.cell a c)) s

def execPrcp (h : Hints) (k : KReg) (d a : PReg) (s : State) : Host.Outcome State Fault Refusal :=
  planeOp h k (.prcp h k d a) 2 d 8 (fun p c => planeRcp (p.cell a c)) s

/-- PBLEND: the old value moves toward pB by weight pA. -/
def execPblend (h : Hints) (k : KReg) (d a b : PReg) (s : State) : Host.Outcome State Fault Refusal :=
  planeOp h k (.pblend h k d a b) 2 d 8 (fun p c =>
    let t := planeSub (p.cell b c) (p.cell d c)
    let r := planeFma (p.cell a c) t.1 (p.cell d c)
    (r.1, r.2 ||| t.2)) s

/-! ### Enables (22 R324, R325) -/

def causeEnableDepth : Nat := 0x14

/-- PIF. -/
def execPif (h : Hints) (k : KReg) (pr : FloatPred) (a b : PReg) (s : State) : Host.Outcome State Fault Refusal :=
  runPlane h (fun _ => 1) 8 s fun s => do
    let p ← planeOf s (.pif h k pr a b)
    let m ← readK s k
    if 8 ≤ p.stack.length then plainTrap s causeEnableDepth
    else
      let cs := p.cellList (p.exec (gateMask m))
      let r (c : Nat) : Bool × FFlags := f32cmp pr (p.cell a c) (p.cell b c)
      let taken : CellMask := BitVec.ofNat 4096 (cs.foldl (fun acc c => if (r c).1 then acc + 2 ^ c else acc) 0)
      pure (s.setPlane s.cur.1 (some { p with
        enable := taken, stack := (p.enable, taken) :: p.stack
        flags := cs.foldl (fun m c => raiseAt m c (r c).2) p.flags }))

/-- PELSE. -/
def execPelse (h : Hints) (k : KReg) (s : State) : Host.Outcome State Fault Refusal :=
  runPlane h (fun _ => 1) 8 s fun s => do
    let p ← planeOf s (.pelse h k)
    let m ← readK s k
    match p.stack with
    | [] => plainTrap s causeEnableDepth
    | (o, t) :: rest =>
      pure (s.setPlane s.cur.1 (some { p with
        enable := o &&& ~~~t &&& gateMask m, stack := (o, BitVec.allOnes 4096) :: rest }))

/-- PEND. -/
def execPend (h : Hints) (k : KReg) (s : State) : Host.Outcome State Fault Refusal :=
  runPlane h (fun _ => 1) 8 s fun s => do
    let p ← planeOf s (.pend h k)
    let _ ← readK s k
    match p.stack with
    | [] => plainTrap s causeEnableDepth
    | (o, _) :: rest => pure (s.setPlane s.cur.1 (some { p with enable := o, stack := rest }))

/-! ### Reductions (22 R326) -/

/-- The identity of a plane reduction. -/
def planeIdentity : PlaneRed → Word
  | .add => 0
  | .min => infF32
  | .max => 0xFF800000

/-- First of 15 R267. -/
def planeFirst (x : Word) : Word × FFlags :=
  match f32val x with
  | .nan sg => (nanF32, if sg then flNV else 0)
  | _ => (x, 0)

/-- A fold step. -/
def planeRedStep (op : PlaneRed) (acc x : Word) : Word × FFlags :=
  match op with
  | .add => planeAdd acc x
  | .min => f32minmax false acc x
  | .max => f32minmax true acc x

/-- The fold of some cells, with the flags of the cells. -/
def Plane.fold (p : Plane) (op : PlaneRed) (a : PReg) (cs : List Nat) (flags : SMap FFlags) : Word × SMap FFlags :=
  let r := cs.foldl (fun (acc : Option Word × SMap FFlags) c =>
    let x := p.cell a c
    let y := match acc.1 with
      | none => planeFirst x
      | some v => planeRedStep op v x
    (some y.1, raiseAt acc.2 c y.2)) (none, flags)
  (r.1.getD (planeIdentity op), r.2)

/-- PRED. -/
def execPred (h : Hints) (k : KReg) (op : PlaneRed) (d : SReg) (a : PReg) (s : State) :
    Host.Outcome State Fault Refusal :=
  runPlane h (fun _ => 4) 8 s fun s => do
    let p ← planeOf s (.pred h k op d a)
    let m ← readK s k
    let r := p.fold op a (p.cellList (p.exec (gateMask m))) p.flags
    writeS (s.setPlane s.cur.1 (some { p with flags := r.2 })) d (r.1.zeroExtend 64)

/-- The folds of the lines that f gives the cells of: lines from i, n of them. -/
def Plane.foldLines (p : Plane) (op : PlaneRed) (a : PReg) (f : Nat → List Nat) :
    Nat → Nat → SMap FFlags → List Word × SMap FFlags
  | 0, _, fl => ([], fl)
  | n + 1, i, fl =>
    let r := p.fold op a (f i) fl
    let t := p.foldLines op a f n (i + 1) r.2
    (r.1 :: t.1, t.2)

/-- PROW: rows in lanes 0 to 63, columns in lanes 64 to 127. -/
def execProw (h : Hints) (k : KReg) (op : PlaneRed) (d : VReg) (a : PReg) (s : State) :
    Host.Outcome State Fault Refusal :=
  runPlane h (fun _ => 4) 8 s fun s => do
    let p ← planeOf s (.prow h k op d a)
    let m ← readK s k
    let cs := p.cellList (p.exec (gateMask m))
    let rows := p.foldLines op a (fun y => cs.filter (fun c => c / planeSide == y)) planeSide 0 p.flags
    let cols := p.foldLines op a (fun x => cs.filter (fun c => c % planeSide == x)) planeSide 0 rows.2
    let lanes := rows.1 ++ cols.1
    writeV (s.setPlane s.cur.1 (some { p with flags := cols.2 })) d.toNat (fun l => some (lanes.getD l 0))

/-! ### Tile transfers (22 R327, R328) -/

/-- What PLD and PST find at issue: the address of the first element and the pitch. -/
def planeRect (s : State) (p : Plane) (tile : Byte) (off pitch : DWord) (ef : ElemFmt) :
    Attempt (Nat × Nat) := do
  let t ← tileNeed s tile.toNat
  if off.toNat % 64 ≠ 0 then unitTrap s causeMisaligned
  else if pitch.toNat % 64 ≠ 0 then unitTrap s causeMisaligned
  else if t.bytes < off.toNat + p.hm1.toNat * pitch.toNat + (p.wm1.toNat + 1) * efSize ef then tileTrap s
  else pure ((s.tileBase s.cur.1 t + off.toNat) % 2 ^ 64, pitch.toNat)

/-- The bounding range of the rectangle. -/
def Plane.rectRange (p : Plane) (base pitch : Nat) (ef : ElemFmt) : List (Nat × Nat) :=
  [(base, base + p.hm1.toNat * pitch + (p.wm1.toNat + 1) * efSize ef)]

/-- The address of a cell's element (DEDUCED, log 25). -/
def cellAddr (base pitch : Nat) (ef : ElemFmt) (c : Nat) : Nat :=
  (base + c / planeSide * pitch + c % planeSide * efSize ef) % 2 ^ 64

/-- The steps of a transfer: one for every 16 rows of the extent. -/
def rowSteps (s : State) : Nat := ((s.myPlane.map (fun p => p.hm1.toNat)).getD 0 + 16) / 16

/-- An element read into a cell. -/
def loadElement (ef : ElemFmt) (x : Nat) : Word × FFlags :=
  match ef with
  | .f32 => (BitVec.ofNat 32 x, 0)
  | .f16 | .bf16 =>
    let r := fconvert fmtF32 .rne false (fdecode (efFormat ef) x)
    (BitVec.ofNat 32 r.1, r.2)

/-- PLD: a job that reads the elements into their cells, with a step for each 16 rows of the extent, taken and charged as they
are read; the plane is held until it has (22 R319, R328) (DESIGN CHOICE, log 20). -/
def execPld (h : Hints) (k : KReg) (d : PReg) (a b : SReg) (tile : Byte) (ef : ElemFmt) (s : State) :
    Host.Outcome State Fault Refusal :=
  runPlane h (fun _ => 0) 16 s fun s => do
    let p ← planeOf s (.pld h k d a b tile ef)
    let m ← readK s k
    let (off, s) ← readS s a
    let (pitch, s) ← readS s b
    let (base, pitch) ← planeRect s p tile off pitch ef
    jobPlace s
    let cells := (p.cellList (p.exec (gateMask m))).map (fun c => (cellAddr base pitch ef c, cellsPerReg * d.toNat + c))
    let j : Job :=
      { kind := .planeLoad cells ef, code := 5, tags := [], iaddr := s.w.pc, sem := none, total := cells.length
        pieces := [], steps := rowSteps s, stepUnit := Cost.unit { floor := 5 } h, readOut := some tile.toNat, reads := p.rectRange base pitch ef }
    pure (s.issueJob .rlx .wave [s.tag] j)

/-- PST: the cells are read as it issues, and the writes perform later. -/
def execPst (h : Hints) (k : KReg) (d : PReg) (a b : SReg) (tile : Byte) (ef : ElemFmt) (s : State) :
    Host.Outcome State Fault Refusal :=
  runPlane h rowSteps 16 s fun s => do
    let p ← planeOf s (.pst h k d a b tile ef)
    let m ← readK s k
    let (off, s) ← readS s a
    let (pitch, s) ← readS s b
    let (base, pitch) ← planeRect s p tile off pitch ef
    jobPlace s
    let cs := p.cellList (p.exec (gateMask m))
    let conv (c : Nat) : Nat × FFlags := fconvert (efFormat ef) .rne false (f32val (p.cell d c))
    let writes := cs.map (fun c => (cellAddr base pitch ef c, natToBytes (efSize ef) (conv c).1))
    let p' := { p with flags := cs.foldl (fun m c => raiseAt m c (conv c).2) p.flags }
    let j : Job :=
      { kind := .store writes, code := 5, tags := [], iaddr := s.w.pc, sem := none, total := cs.length
        pieces := [], fill := some tile.toNat, writes := p.rectRange base pitch ef }
    pure ((s.setPlane s.cur.1 (some p')).issueJob .rlx .wave [s.tag] j)

end Sys2Proof.Machine
end

