-- ==== Sys2Proof/Machine/Sync.lean ====
section
/-!
DEFINITION. Fences, PUBLISH, WAIT, semaphores, barriers, mailboxes and task queues (16 R280 to R289; 07 R124, R125; 19
R297).
-/
namespace Sys2Proof.Machine

/-! ### Fences, PUBLISH and WAIT -/

/-- FENCE (06 R108). -/
def execFence (h : Hints) (o : Order) (sc : Scope) (s : State) : Host.Outcome State Fault Refusal :=
  run h 1 8 s fun s => .ok (s.fenceEffect o sc)

/-- IFENCE (16 R280). It waits for the device-scope point, so that no store of its cluster that it must see is still on its way
when the wave next fetches (02 R44). -/
def execIfence (h : Hints) (s : State) : Host.Outcome State Fault Refusal :=
  run h 1 8 s fun s => do
    waitPoint s .dev
    pure s.dropFetched

/-- Posts the held writes of a window that one slice holds, in entry order (07 R125). -/
def publishSlice (part win link : Nat) (s : State) (n : Nat) : State :=
  let x := s.slice n
  let mine := x.pub.filter (fun w => w.win == win)
  let s := s.setSlice n { x with pub := x.pub.filter (fun w => w.win ≠ win) }
  mine.foldl (fun s w => s.postWrite part link w.addr w.bytes) s

/-- PUBLISH of a window of a partition: the data, then the counter; the value posted (07 R125). The request reaches every slice,
and the counter is posted, in one instant (DESIGN CHOICE, log 110). Writes held while the window was changed are published
under its fields as they stand (DESIGN CHOICE, log 109). -/
def State.publish (s : State) (part win : Nat) (w : PubWindow) : Nat × State :=
  let s := (s.slicesOf part).foldl (publishSlice part win w.link) s
  let v := (w.version + 1) % 2 ^ 64
  let s := { s with
    parts := mupd s.parts part (fun p => { p with windows := mupd p.windows win (fun w => { w with version := v }) }) }
  (v, s.postWrite part w.link w.vaddr (natToBytes 8 v))

/-- PUBLISH of a window number (16 R281). -/
def publishOp (s : State) (d : SReg) (win : Nat) : Attempt State := do
  waitPoint s .sys
  counterRoom s Op.ld
  let part := s.partOfCtx s.w.ctx
  let w? := (mget s.parts part).bind (fun p => mget p.windows win)
  match if win < 16 then w? else none with
  | some w =>
    if w.en then
      let (v, s) := s.publish part win w
      writeS s d (BitVec.ofNat 64 v)
    else writeS s d 0
  | none => writeS s d 0

def execPublish (h : Hints) (d a : SReg) (s : State) : Host.Outcome State Fault Refusal :=
  run h 1 8 s fun s => do
    let (x, s) ← readS s a
    publishOp s d x.toNat

def execPublish96 (h : Hints) (d : SReg) (imm : Word) (s : State) : Host.Outcome State Fault Refusal :=
  run h 1 12 s fun s => publishOp s d imm.toNat

/-- A counter is at or below its limit; 0xFF sets none (16 R282). -/
def withinLimit (s : State) (limit : Byte) (which : Op → Bool) : Bool :=
  limit = 0xFF || decide (s.counter s.tag which ≤ limit.toNat)

/-- A held record of a job that counted on a counter this WAIT limits. -/
def waitNames (ld cp tl : Byte) (r : JobRec) : Bool :=
  (ld ≠ 0xFF && tbit r.counters 0) || (cp ≠ 0xFF && tbit r.counters 2) || (tl ≠ 0xFF && tbit r.counters 3)

/-- WAIT (16 R282). -/
def execWait (h : Hints) (ld st cp tl : Byte) (s : State) : Host.Outcome State Fault Refusal :=
  run h 1 12 s fun s =>
    if withinLimit s ld Op.ld && withinLimit s st Op.st && withinLimit s cp Op.cp && withinLimit s tl Op.tl then
      match s.w.held.find? (waitNames ld cp tl) with
      | some r => trapWith (asyncTrap s.w.pc r)
      | none => .ok s
    else hold .dep

/-! ### Semaphores -/

/-- Waits at a semaphore in order of arrival (16 R283). -/
def semWaiting (sem row : Nat) (o : State) : State :=
  o.updSem o.cur.1 o.w.ctx sem (fun m =>
    if m.waiters.contains row then m else { m with waiters := m.waiters ++ [row] })

/-- A semaphore gives up its error bit and the record it holds (16 R283). -/
def State.clearError (s : State) (cl ctx sem : Nat) : State :=
  s.updSem cl ctx sem (fun m => { m with error := false, held := none })

/-- SEMACQ of a count (16 R283): an error bit is cleared as its record traps. -/
def semAcquire (s : State) (sem n : Nat) : Attempt State :=
  let row := s.cur.2
  let m := s.semOf s.cur.1 s.w.ctx sem
  match if m.error then m.held else none with
  | some r => .error (.trap (fun s => s.clearError s.cur.1 s.w.ctx sem) (asyncTrap s.w.pc r))
  | none =>
    let first := match m.waiters with
      | [] => true
      | r :: _ => r == row
    if first && decide (n ≤ m.count) then
      .ok (s.noteAcquire.updSem s.cur.1 s.w.ctx sem (fun m =>
        { m with count := m.count - n, waiters := without row m.waiters }))
    else holdWith .sync (semWaiting sem row)

def execSemacq (h : Hints) (sem : BitVec 6) (b : SReg) (s : State) : Host.Outcome State Fault Refusal :=
  run h 1 8 s fun s => do
    let (n, s) ← readS s b
    semAcquire s sem.toNat (n.toNat % 2 ^ 32)

def execSemacq96 (h : Hints) (sem : BitVec 6) (imm : Word) (s : State) : Host.Outcome State Fault Refusal :=
  run h 1 12 s fun s => semAcquire s sem.toNat imm.toNat

/-- Where SEMREL's adds stand in the physical map: nowhere. -/
def semPlace : Nat := 2 ^ 60

/-- SEMREL of a count (16 R284, R369): the access carries the semaphore, the cluster and the count. An add to the own cluster
that need not wait, and has none of the wave's before it, is done at once. -/
def semRelease (s : State) (sem n c : Nat) : Attempt State :=
  let own := s.cur.1
  let target := if tbit c 7 then c % 128 else own
  if s.partOfCluster target ≠ s.partOfCluster own then unitTrap s causeIsolation
  else if (s.cluster target).retired then unitTrap s causeNoTarget
  else do
    counterRoom s Op.st
    let before := (s.pointDev s.tag).filter s.isPending
    let waiting := s.laterals.any (fun x => x.2.kind == .semRel && x.2.tag == s.tag)
    if target = own && before.isEmpty && !waiting && !s.semWaits own s.w.ctx then
      pure (s.semAdd own s.w.ctx sem n)
    else
      let t := s.tag
      let (id, s) := s.newOp { tag := t, st := true, left := 1 }
      let a : Access :=
        { op := id, tag := t, kind := .semRel, va := sem, pa := semPlace, size := target, data := n, after := before }
      let (aid, s) := s.newId
      if target = own then pure { s with laterals := mset s.laterals aid a }
      else
        let p : Packet :=
          { kind := 0xA, src := clusterSite own, dst := clusterSite target, part := s.partOfCtx t.ctx
            ctx := t.ctx, flits := 1, body := .access a }
        pure (enterOne { s with packets := mset s.packets aid p } aid)

def execSemrel (h : Hints) (sem : BitVec 6) (b c : SReg) (s : State) : Host.Outcome State Fault Refusal :=
  run h 1 8 s fun s => do
    let (n, s) ← readS s b
    let (m, s) ← readS s c
    semRelease s sem.toNat (n.toNat % 2 ^ 32) m.toNat

def execSemrel96 (h : Hints) (sem : BitVec 6) (c : SReg) (imm : Word) (s : State) :
    Host.Outcome State Fault Refusal :=
  run h 1 12 s fun s => do
    let (m, s) ← readS s c
    semRelease s sem.toNat imm.toNat m.toNat

/-! ### Barriers -/

/-- Every check of a barrier instruction on its line: the physical address, or the cause (16 R286). -/
def State.barrierCheck (s : State) (va : Nat) : Except Nat Nat :=
  match s.checkAccess s.cur.1 s.w.ctx va 64 .atomic none with
  | .error c => .error c
  | .ok (pa, _) =>
    if !sliceHomed pa then .error causeAtomicPlace
    else if s.poisoned pa 64 then .error causeDataError
    else .ok pa

/-- The physical line, or the exact fault. -/
def barrierAt (s : State) (va : Nat) : Attempt Nat :=
  match s.barrierCheck va with
  | .error c => memTrap s c .atomic va 0
  | .ok pa => .ok pa

/-- A barrier or task-queue instruction that acts at its home at once performs after what the wave must see before it, and
in the outbound order of its cluster. -/
def lineTurn (s : State) (pa : Nat) : Attempt Unit := accessTurn s pa 64 true

/-- The attributes of the page that a barrier or task-queue line lies in. -/
def State.lineAttr (s : State) (va : Nat) : Nat :=
  match s.checkAccess s.cur.1 s.w.ctx va 64 .atomic none with
  | .ok x => x.2
  | .error _ => 0

/-- The line of a barrier or task-queue instruction that acts at its home at once is used there, under its page's caching
class, and its translation is used (02 R39, 03 R57, 05 R98). -/
def State.takeLine (s : State) (va pa : Nat) (write : Bool) : State :=
  let ca := attrCa (s.lineAttr va)
  (s.charge (usesOf pa 64 (fun _ => if write then .write ca false else .read ca))).cacheUse s.cur.1 s.w.ctx va

/-- BINIT (DESIGN CHOICE, log 30). -/
def execBinit (h : Hints) (a b : SReg) (s : State) : Host.Outcome State Fault Refusal :=
  run h 1 8 s fun s => do
    let (x, s) ← readS s a
    let (e, s) ← readS s b
    let pa ← barrierAt s x.toNat
    lineTurn s pa
    pure ((s.takeLine x.toNat pa true).barrierInit pa e.toNat)

/-- BINVAL. -/
def execBinval (h : Hints) (a : SReg) (s : State) : Host.Outcome State Fault Refusal :=
  run h 1 8 s fun s => do
    let (x, s) ← readS s a
    let pa ← barrierAt s x.toNat
    lineTurn s pa
    pure ((s.takeLine x.toNat pa true).barrierInvalidate pa)

/-- BARRIVE is an atomic at the home, and a release at device scope (06 R112). -/
def execBarrive (h : Hints) (d a : SReg) (s : State) : Host.Outcome State Fault Refusal :=
  run h 1 8 s fun s => do
    let (x, s) ← readS s a
    let pa ← barrierAt s x.toNat
    counterRoom s Op.ld
    scalarRoom s d
    let c : Checked := { acc := { lane := 0, va := x.toNat, dest := .scalar d }, pa := pa, attr := s.lineAttr x.toNat }
    let s0 := s
    let (id, s) := s.newOp { tag := s.tag, ld := true, left := 1, owed := owedS d }
    pure (useAll (sendLanes s0 id .barrive 64 false (s0.pointDev s0.tag) [c] s) [c])

/-- Completes BWAIT; an outcome other than a release is a fence.acq at device scope (06 R112). -/
def barrierDone (s : State) (d : SReg) (word : DWord) : Attempt State := do
  let s ← writeS s d word
  let s := s.updW (fun w => { w with bwait := none })
  pure (if word.toNat % 4 = outcomeReleased then s.noteAcquire else s.fenceEffect .acq .dev)

/-- Registers the wave at the home of a line. -/
def State.registerWaiter (s : State) (pa gen : Nat) : State :=
  let n := s.lineHome pa
  let x := s.slice n
  let s := s.setSlice n { x with waiters := x.waiters ++ [{ line := pa, gen := gen, tag := s.tag }] }
  (s.noteBarrier pa true).updW (fun w => { w with bwait := some { line := pa, gen := gen, outcome := none } })

/-- BWAIT (16 R286). A line that cannot be used has no GEN: those bits are a free value (DEDUCED, log 76). -/
def execBwait (h : Hints) (d a b : SReg) (s : State) : Host.Outcome State Fault Refusal :=
  run h 1 8 s fun s => do
    match s.w.bwait with
    | some { outcome := some (g, code), .. } => do
      let (_, s) ← readS s a
      let (_, s) ← readS s b
      barrierDone s d (barrierWord g code)
    | some { outcome := none, .. } => hold .sync
    | none => do
      let (x, s) ← readS s a
      let (g, s) ← readS s b
      match s.barrierCheck x.toNat with
      | .error _ =>
        let gen := Config.freeValue s.fresh
        barrierDone { s with fresh := s.fresh + 1 } d (barrierWord gen outcomeInvalid)
      | .ok pa => do
        lineTurn s pa
        let s := s.takeLine x.toNat pa false
        let l := s.barrierLine pa
        if l.state ≠ barrierValid then barrierDone s d (barrierWord l.gen l.code)
        else if l.gen ≠ g.toNat / 2 ^ 32 then barrierDone s d (barrierWord l.gen outcomeReleased)
        else holdWith .sync (fun o => (o.takeLine x.toNat pa false).registerWaiter pa l.gen)

/-! ### Mailboxes -/

/-- The slice and mailbox a target word names (16 R287). -/
def mailTarget (x : DWord) : Nat × Nat := (x.toNat % 128, bits x.toNat 11 8)

/-- The first 16 bytes of a mailbox packet (19 R297); VC is filled in on arrival. -/
def mailHeader (ctx sends row : Nat) (dst src mbox part : Nat) (arg : DWord) : List Byte :=
  natToBytes 4 (ctx * 2 ^ 20 + sends % 2 ^ 14 * 2 ^ 6 + row) ++
    natToBytes 4 (5 * 2 ^ 28 + 3 * 2 ^ 24 + siteRow dst * 2 ^ 20 + siteCol dst * 2 ^ 16 + siteRow src * 2 ^ 12 +
      siteCol src * 2 ^ 8 + mbox * 2 ^ 4 + part) ++ natToBytes 8 arg.toNat

/-- MSEND. -/
def execMsend (h : Hints) (d : SReg) (a : VReg) (b : SReg) (arg : DWord) (s : State) :
    Host.Outcome State Fault Refusal :=
  run h 1 16 s fun s => do
    let v ← readV s a.toNat (fun l => decide (l < 60))
    let (x, s) ← readS s b
    let (sl, mbox) := mailTarget x
    if s.partOfSlice sl ≠ s.partOfCluster s.cur.1 then unitTrap s causeIsolation
    else do
      waitPoint s .dev
      counterRoom s Op.ld
      scalarRoom s d
      let w := s.w
      let part := s.partOfCtx w.ctx
      let src := clusterSite s.cur.1
      let dst := sliceSite sl
      let payload := (rangeFrom 0 60).flatMap (fun l => natToBytes 4 (v l).toNat)
      let bytes := mailHeader w.ctx w.sends s.cur.2 dst src mbox part arg ++ payload
      let t := s.tag
      let (op, s) := s.newOp { tag := t, ld := true, left := 1, owed := owedS d }
      let (id, s) := s.newId
      let p : Packet :=
        { kind := 5, src := src, dst := dst, part := part, ctx := w.ctx, flits := 4, stamp := id
          body := .mail op t d mbox bytes 0 }
      pure ({ s with packets := mset s.packets id p }.updW (fun w => { w with sends := (w.sends + 1) % 2 ^ 14 }))

/-- MRECV. -/
def execMrecv (h : Hints) (d : VReg) (a : SReg) (s : State) : Host.Outcome State Fault Refusal :=
  run h 1 8 s fun s => do
    let (x, s) ← readS s a
    let (sl, mbox) := mailTarget x
    if s.partOfSlice sl ≠ s.partOfCluster s.cur.1 then unitTrap s causeIsolation
    else match mget (s.slice sl).mboxes mbox with
      | none => unitTrap s causeNoTarget
      | some m =>
        if m.ctx ≠ s.w.ctx then unitTrap s causeNoTarget
        else match m.packets with
          | [] => hold .sync
          | p :: rest => do
            let s ← writeV s d.toNat (fun l =>
              some (if l < 64 then BitVec.ofNat 32 (bytesToNat ((p.drop (4 * l)).take 4)) else 0))
            let k := s.slice sl
            pure (s.noteAcquire.setSlice sl { k with mboxes := mset k.mboxes mbox { m with packets := rest } })

/-! ### Task queues (16 R288, R289) -/

/-- A task-queue header. -/
structure TqHeader where
  ring : Nat
  log2n : Nat
  head : Nat
  tail : Nat
  fails : Nat
  deriving DecidableEq, Repr

/-- The header at a physical line; none where it is malformed. Reserved bits are ignored (00 R7). -/
def State.tqHeader (s : State) (pa : Nat) : Option TqHeader :=
  let w0 := memNat s.mem pa 8
  if w0 % 32 < 8 || 24 < w0 % 32 then none
  else
    some { ring := w0 / 4096 * 4096, log2n := w0 % 32, head := memNat s.mem (pa + 8) 4
           tail := memNat s.mem (pa + 16) 4, fails := memNat s.mem (pa + 24) 4 }

def TqHeader.count (q : TqHeader) : Nat := (q.tail + 2 ^ 32 - q.head) % 2 ^ 32
def TqHeader.entry (q : TqHeader) (i : Nat) : Nat := (q.ring + i % 2 ^ q.log2n * 16) % 2 ^ 64

/-- A task-queue instruction writes a field of a header: no write of the queue's own, and one to a barrier line all the same
(03 R63, 16 R286). -/
def State.tqWrite (s : State) (pa off x : Nat) : State := (s.store (pa + off) (natToBytes 4 x)).touchBarrier pa

/-- The entries a home slice holds on chip for a header line. -/
def State.tqChip (s : State) (pa : Nat) : SMap (DWord × DWord) := mgetD (s.slice (s.lineHome pa)).tq pa []

def State.setTqChip (s : State) (pa : Nat) (c : SMap (DWord × DWord)) : State :=
  let n := s.lineHome pa
  let x := s.slice n
  s.setSlice n { x with tq := msetD x.tq pa [] c }

/-- The header line of a task-queue instruction: its physical address, or the exact fault (DEDUCED, log 31). -/
def tqAt (s : State) (va : Nat) : Attempt Nat :=
  match s.checkAccess s.cur.1 s.w.ctx va 64 .atomic none with
  | .error c => memTrap s c .atomic va 0
  | .ok (pa, _) => if s.poisoned pa 64 then memTrap s causeDataError .atomic va 0 else .ok pa

/-- Where a ring entry lies and the caching class of its page, or the cause that keeps it from being reached. Rings lie in
device memory. -/
def State.tqRing (s : State) (kind : Kind) (va : Nat) : Except Nat (Nat × Nat) :=
  match s.checkAccess s.cur.1 s.w.ctx va 16 kind none with
  | .error c => .error c
  | .ok (pa, attr) =>
    if !sliceHomed pa then .error causeNoTarget
    else if kind == .read && s.poisoned pa 16 then .error causeDataError
    else .ok (pa, attrCa attr)

/-- Reads the ring entry of an index, whose line moves. -/
def State.tqReadRing (s : State) (q : TqHeader) (i : Nat) : Except Nat ((DWord × DWord) × State) :=
  match s.tqRing .read (q.entry i) with
  | .error c => .error c
  | .ok (pa, ca) =>
    .ok ((BitVec.ofNat 64 (memNat s.mem pa 8), BitVec.ofNat 64 (memNat s.mem (pa + 8) 8)), s.chargeRead pa 16 ca)

/-- Brings the oldest ring entry on chip where the chip holds the oldest entries and has room. -/
def State.tqRefill (s : State) (pa : Nat) (q : TqHeader) : Except (Nat × Nat) State :=
  let chip := s.tqChip pa
  if 256 ≤ chip.length || q.count ≤ chip.length then .ok s
  else
    let i := (q.head + chip.length) % 2 ^ 32
    match s.tqReadRing q i with
    | .error c => .error (c, q.entry i)
    | .ok (e, s) => .ok (s.setTqChip pa (mset chip i e))

/-- Puts an entry at the tail: on chip while every entry is there and it has room, else in the ring. -/
def State.tqPut (s : State) (pa : Nat) (q : TqHeader) (e : DWord × DWord) : Except (Nat × Nat) State :=
  let chip := s.tqChip pa
  if chip.length < 256 && chip.length == q.count then .ok (s.setTqChip pa (mset chip q.tail e))
  else
    match s.tqRing .write (q.entry q.tail) with
    | .error c => .error (c, q.entry q.tail)
    | .ok (rpa, ca) => .ok ((s.chargeWrite rpa 16 ca).homeStore rpa (natToBytes 8 e.1.toNat ++ natToBytes 8 e.2.toNat))

/-- TQPUSH at the home: its status (16 R289). -/
def State.tqPush (s : State) (pa : Nat) (e : DWord × DWord) : Nat × State :=
  match if sliceHomed pa then s.tqHeader pa else none with
  | none => (2, s)
  | some q =>
    if 256 + 2 ^ q.log2n ≤ q.count then
      (1, s.tqWrite pa 24 (min (q.fails + 1) (2 ^ 32 - 1)))
    else
      let full := decide (2 ^ q.log2n ≤ q.count - (s.tqChip pa).length)
      match (if full then s.tqRefill pa q else .ok s).bind (fun s => s.tqPut pa q e) with
      | .error x => (2, s.hwFault s.cur.1 s.w.ctx x.1 x.2 3 0 s.w.pc)
      | .ok s => (0, s.tqWrite pa 16 ((q.tail + 1) % 2 ^ 32))

/-- TQPOP at the home: its status and entry (16 R289). -/
def State.tqPop (s : State) (pa : Nat) : Nat × Option (DWord × DWord) × State :=
  match if sliceHomed pa then s.tqHeader pa else none with
  | none => (2, none, s)
  | some q =>
    if q.count = 0 then (1, none, s)
    else
      let chip := s.tqChip pa
      match mget chip q.head with
      | some e =>
        (0, some e, (s.setTqChip pa (mdel chip q.head)).tqWrite pa 8 ((q.head + 1) % 2 ^ 32))
      | none =>
        match s.tqReadRing q q.head with
        | .error c => (2, none, s.hwFault s.cur.1 s.w.ctx c (q.entry q.head) 0 0 s.w.pc)
        | .ok (e, s) => (0, some e, s.tqWrite pa 8 ((q.head + 1) % 2 ^ 32))

/-- TQPUSH, a release at device scope (06 R112). -/
def execTqpush (h : Hints) (d a b c : SReg) (s : State) : Host.Outcome State Fault Refusal :=
  run h 1 8 s fun s => do
    needFeature s 5 (.tqpush h d a b c)
    let (x, s) ← readS s a
    let (lo, s) ← readS s b
    let (hi, s) ← readS s c
    let pa ← tqAt s x.toNat
    waitPoint s .dev
    lineTurn s pa
    let (st, s) := (s.takeLine x.toNat pa true).tqPush pa (lo, hi)
    writeS s d (BitVec.ofNat 64 st)

/-- TQPOP. -/
def execTqpop (h : Hints) (d a : SReg) (b : BitVec 7) (s : State) : Host.Outcome State Fault Refusal :=
  run h 1 8 s fun s => do
    needFeature s 5 (.tqpop h d a b)
    let (x, s) ← readS s a
    let pa ← tqAt s x.toNat
    lineTurn s pa
    match (s.takeLine x.toNat pa true).tqPop pa with
    | (st, some (lo, hi), s) => do
      let s ← writeS s.noteAcquire (.s b) lo
      let s ← writeS s (.s (b + 1)) hi
      writeS s d (BitVec.ofNat 64 st)
    | (st, none, s) => writeS s d (BitVec.ofNat 64 st)

end Sys2Proof.Machine
end

