-- ==== Sys2Proof/Machine/Traversal.lean ====
section
/-!
DEFINITION. Traversal requests, the tests of rays against boxes and triangles, and the ray stacks (24 R334 to R341).
-/
namespace Sys2Proof.Machine

/-! ### Requests (24 R334, R336) -/

/-- Bytes of a node and of a triangle that a request reads. -/
def nodeBytes (triangle : Bool) : Nat := if triangle then 40 else 96

/-- The physical bytes of n bytes of one page or of two, as translated now. -/
def State.readSpans (s : State) (va n : Nat) : List (Nat × Nat) :=
  let here := min n (4096 - va % 4096)
  let place (va n : Nat) : List (Nat × Nat) :=
    match s.translate s.cur.1 s.w.ctx va .read with
    | .ok (pa, _) => [(pa, n)]
    | .error _ => []
  place va here ++ (if here < n then place ((va + here) % 2 ^ 64) (n - here) else [])

/-- The wave's own writes under way to n bytes, under any address: a request sees them (06 R104, R110). -/
def State.ownWrites (s : State) (va n : Nat) : List Nat :=
  let spans := s.readSpans va n
  ((s.pendingOf s.tag).filter (fun x =>
    AccessKind.isWrite x.2.kind &&
      (overlaps x.2.va x.2.size va n || spans.any (fun p => x.2.touches p.1 p.2)))).map Prod.fst

/-- Adds one request. -/
def addTraversal (s : State) (t : Traversal) : State :=
  let (id, s) := s.newId
  { s with traversals := mset s.traversals id t }

/-- RBOX and RTRI at issue. -/
def traverse (h : Hints) (i : Instr) (triangle : Bool) (k : KReg) (d a b : VReg) (s : State) :
    Host.Outcome State Fault Refusal :=
  run h 7 8 s fun s => do
    needFeature s 2 i
    let act ← active s k
    let addr ← readVW s true a.toNat act
    let ray ← (rangeFrom 0 8).mapM (fun n => readV s (b.toNat + n) act)
    let n := if triangle then 4 else 2
    (rangeFrom 0 n).forM (fun j => targetV s (d.toNat + j) act)
    let lanes := activeList act
    let align := if triangle then 16 else 128
    match lanes.filter (fun l => addr l % align ≠ 0) with
    | l :: more => memTrap s causeMisaligned .read (addr l) (maskOf (fun j => (l :: more).contains j))
    | [] => do
      afterAll s (s.orderAfter false)
      if lanes.isEmpty then pure s
      else
        let w := s.w
        let t := s.tag
        let after (l : Nat) : List Nat := s.ownWrites (addr l) (nodeBytes triangle) ++ s.acquiredAfter
        let (op, s') := s.newOp
          { tag := t, left := lanes.length, owed := (rangeFrom 0 n).map (fun j => Owed.v (d.toNat + j)) }
        let request (l : Nat) : Traversal :=
          { op := op, tag := t, triangle := triangle, lane := l, dst := d.toNat, addr := addr l
            ray := ray.map (fun f => f l), iaddr := w.pc, after := after l }
        pure (lanes.foldl (fun s l => addTraversal s (request l)) s')

def execRbox (h : Hints) (k : KReg) (d a b : VReg) (s : State) : Host.Outcome State Fault Refusal :=
  traverse h (.rbox h k d a b) false k d a b s

def execRtri (h : Hints) (k : KReg) (d a b : VReg) (s : State) : Host.Outcome State Fault Refusal :=
  traverse h (.rtri h k d a b) true k d a b s

/-! ### Boxes (24 R337) -/

/-- The value of word n of a list. -/
def wordVal (l : List Word) (n : Nat) : FVal := f32val (l.getD n 0)

/-- The greater of two values that are no NaN; the first where they are equal. -/
def laterOf (x y : Word) : Word := if fvalLt (f32val x) (f32val y) then y else x
/-- The lesser; the first where they are equal. -/
def earlierOf (x y : Word) : Word := if fvalLt (f32val y) (f32val x) then y else x

/-- One axis of a slab test: the interval narrowed, or a miss (DEDUCED, log 24). -/
def slabAxis (lo hi o d : FVal) (iv : Word × Word) : Option (Word × Word) :=
  if fvalLt hi lo then none
  else if d.isZero then (if fvalLt o lo || fvalLt hi o then none else some iv)
  else
    let quot (x : FVal) : FVal := (exactDiv (exactAdd .rne x o.negate).1 d).1
    -- the two quotients stand in the order of the bounds, or the other way round under a negative direction
    let near := if d.neg? then quot hi else quot lo
    let far := if d.neg? then quot lo else quot hi
    if near.isNaN || far.isNaN then none
    else some (laterOf iv.1 (f32of .rd (near, 0)).1, earlierOf iv.2 (f32of .ru (far, 0)).1)

/-- RayBox: enter of a hit. The box's words are its low and high corner. -/
def rayBox (ray box : List Word) : Option Word :=
  if (ray ++ box).any (fun w => (f32val w).isNaN) then none
  else
    let axis (a : Nat) (iv : Option (Word × Word)) : Option (Word × Word) :=
      iv.bind (slabAxis (wordVal box a) (wordVal box (3 + a)) (wordVal ray a) (wordVal ray (3 + a)))
    match axis 2 (axis 1 (axis 0 (some (ray.getD 6 0, ray.getD 7 0)))) with
    | none => none
    | some (enter, leave) => if fvalLt (f32val leave) (f32val enter) then none else some enter

/-- Inserts a hit behind the hits that enter no later. -/
def insertHit (x : Nat × Word) : List (Nat × Word) → List (Nat × Word)
  | [] => [x]
  | y :: t => if fvalLt (f32val x.2) (f32val y.2) then x :: y :: t else y :: insertHit x t

/-- The pair that RBOX writes for the 24 words of a node. -/
def boxResult (ray node : List Word) : List Word :=
  let hits := (rangeFrom 0 4).filterMap (fun b => (rayBox ray ((node.drop (6 * b)).take 6)).map (fun e => (b, e)))
  let order := hits.foldl (fun acc x => insertHit x acc) []
  let slots := (rangeFrom 0 order.length).foldl (fun acc k => acc + ((order.map Prod.fst).getD k 0) * 2 ^ (2 * k + 4)) 0
  let hit := hits.foldl (fun acc x => acc + 2 ^ x.1) 0
  [BitVec.ofNat 32 (order.length * 2 ^ 12 + slots + hit), ((order.head?).map Prod.snd).getD infF32]

/-- What RBOX writes when no box is hit. -/
def boxMiss : List Word := [0, infF32]

/-! ### Triangles (24 R338) -/

/-- Rounds to binary32, RNE. -/
def r32 (x : FVal × FFlags) : FVal := f32val (f32of .rne x).1
/-- Rounds to binary64, RNE. -/
def r64 (x : FVal × FFlags) : FVal := (fround fmtF64 .rne x.1).1

def FVal.isFin : FVal → Bool
  | .fin _ _ _ => true
  | .inf _ => false
  | .nan _ => false

/-- The value +0. -/
def fzero : FVal := .fin false 0 0

/-- A vertex sheared into the ray's space. -/
structure Sheared where
  x : FVal
  y : FVal
  z : FVal

/-- An edge: its value, or zero and inside or outside by the tie rule. -/
inductive EdgeVal where
  | val (e : FVal)
  | zeroIn
  | zeroOut

/-- The exact P.x × Q.y − P.y × Q.x. -/
def crossExact (p q : Sheared) : FVal × FFlags :=
  exactAdd .rne (exactMul p.x q.y).1 (exactMul p.y q.x).1.negate

/-- Edge(P, Q). -/
def edge (p q : Sheared) : EdgeVal :=
  let e := r32 (crossExact p q)
  if !e.isZero then .val e
  else
    let e := r64 (crossExact p q)
    if !e.isZero then .val e
    else if fvalLt p.y q.y || (fvalEq q.y p.y && fvalLt q.x p.x) then .zeroIn
    else .zeroOut

def EdgeVal.num : EdgeVal → FVal
  | .val e => e
  | .zeroIn => fzero
  | .zeroOut => fzero

/-- |a| < |b| of finite values. -/
def absLt : FVal → FVal → Bool
  | .fin _ m e, .fin _ n f => magLt m e n f
  | _, _ => false

/-- The index of the greatest |d|, the lowest on ties. -/
def majorAxis (d : Nat → FVal) : Nat :=
  let m := if absLt (d 0) (d 1) then 1 else 0
  if absLt (d m) (d 2) then 2 else m

/-- The vertex P in the ray's space. -/
def shear (o : Nat → FVal) (kx ky kz : Nat) (sx sy sz : FVal) (v : Nat → FVal) : Sheared :=
  let p (k : Nat) : FVal := r32 (exactAdd .rne (v k) (o k).negate)
  { x := r32 (exactFma .rne sx.negate (p kz) (p kx)), y := r32 (exactFma .rne sy.negate (p kz) (p ky))
    z := r32 (exactMul sz (p kz)) }

/-- Signs of the edges that are not zero differ. -/
def signsDiffer (es : List EdgeVal) : Bool :=
  let s := es.filterMap (fun e => match e with
    | .val x => some x.neg?
    | .zeroIn => none
    | .zeroOut => none)
  s.contains true && s.contains false

def EdgeVal.isOut : EdgeVal → Bool
  | .zeroOut => true
  | .zeroIn => false
  | .val _ => false
def EdgeVal.isIn : EdgeVal → Bool
  | .zeroIn => true
  | .zeroOut => false
  | .val _ => false

/-- t, u and v of a hit. -/
def rayTriangle (ray tri : List Word) : Option (Word × Word × Word) :=
  let o (k : Nat) : FVal := wordVal ray k
  let d (k : Nat) : FVal := wordVal ray (3 + k)
  let vert (n k : Nat) : FVal := wordVal tri (3 * n + k)
  if !((rangeFrom 0 6).all (fun k => (wordVal ray k).isFin) && (rangeFrom 0 9).all (fun k => (wordVal tri k).isFin)) then
    none
  else
    let kz := majorAxis d
    let k1 := (kz + 1) % 3
    let k2 := (kz + 2) % 3
    let flip := (d kz).neg? && !(d kz).isZero
    let kx := if flip then k2 else k1
    let ky := if flip then k1 else k2
    let sx := r32 (exactDiv (d kx) (d kz))
    let sy := r32 (exactDiv (d ky) (d kz))
    let sz := r32 (exactDiv (.fin false 1 0) (d kz))
    let a := shear o kx ky kz sx sy sz (vert 0)
    let b := shear o kx ky kz sx sy sz (vert 1)
    let c := shear o kx ky kz sx sy sz (vert 2)
    let u := edge b c
    let v := edge c a
    let w := edge a b
    let es := [u, v, w]
    let mul (x y : FVal) : FVal := r64 (exactMul x y)
    let add (x y : FVal) : FVal := r64 (exactAdd .rne x y)
    let det := add (add u.num v.num) w.num
    let tt := add (add (mul u.num a.z) (mul v.num b.z)) (mul w.num c.z)
    let quot (x : FVal) : FVal × FFlags := exactDiv x det
    let t := r32 (quot tt)
    let met := [sx, sy, sz, a.x, a.y, a.z, b.x, b.y, b.z, c.x, c.y, c.z, u.num, v.num, w.num, det, tt]
    if !met.all FVal.isFin || es.any EdgeVal.isOut || es.all EdgeVal.isIn || signsDiffer es || det.isZero then none
    else
      let ru := r32 (quot u.num)
      let rv := r32 (quot v.num)
      let tmin := wordVal ray 6
      let tmax := wordVal ray 7
      if !t.isFin || !ru.isFin || !rv.isFin || tmin.isNaN || fvalLt t tmin || !fvalLt t tmax then none
      else
        let word (x : FVal × FFlags) : Word := (f32of .rne x).1
        some (word (quot tt), word (quot u.num), word (quot v.num))

/-- What RTRI writes on a miss. -/
def triMiss : List Word := [0xFFFFFFFF, infF32, 0, 0]

/-- The group that RTRI writes for the 10 words of a triangle record. -/
def triResult (ray tri : List Word) : List Word :=
  match rayTriangle ray tri with
  | none => triMiss
  | some (t, u, v) => [tri.getD 9 0, t, u, v]

/-- The result of a request that has read its words, and its miss result. -/
def Traversal.result (t : Traversal) (words : List Word) : List Word :=
  if t.triangle then triResult t.ray words else boxResult t.ray words
def Traversal.miss (t : Traversal) : List Word := if t.triangle then triMiss else boxMiss

/-! ### Handles and stacks (24 R339, R340) -/

/-- A stack handle. -/
structure RayHandle where
  valid : Bool
  spill : Nat
  chip : Nat
  stack : Nat
  deriving DecidableEq, Repr

def rayHandleOf (w : Word) : RayHandle :=
  { valid := w.getLsbD 31, spill := bits w.toNat 25 21, chip := bits w.toNat 20 14, stack := bits w.toNat 9 0 }

def RayHandle.word (h : RayHandle) : Word :=
  BitVec.ofNat 32 ((if h.valid then 2 ^ 31 else 0) + h.spill * 2 ^ 21 + h.chip * 2 ^ 14 + h.stack)

/-- Counts within what a stack can hold; software may have altered them. -/
def RayHandle.clip (h : RayHandle) : RayHandle := { h with spill := min h.spill 28, chip := min h.chip 64 }

def RayHandle.depth (h : RayHandle) : Nat := 16 * h.spill + h.chip

/-- The stack a handle names, if the workgroup of the wave holds it. -/
def State.stackOf (s : State) (w : Word) : Option (RayHandle × RayStack) :=
  let h := rayHandleOf w
  match mget (s.cluster s.cur.1).rayStacks h.stack with
  | some k => if h.valid && k.ctx == s.w.ctx && k.wgslot == s.w.wgslot then some (h.clip, k) else none
  | none => none

/-- Where entry n of a stack's area lies. -/
def State.rayArea (s : State) (cl ctx stack n : Nat) : Nat :=
  ((s.ctxOf ctx).travSp + (s.clusterIndex cl * 1024 + stack) * 0xE00 + 8 * n) % 2 ^ 64

def State.setStack (s : State) (n : Nat) (k : RayStack) : State :=
  let c := s.cluster s.cur.1
  s.setCluster s.cur.1 { c with rayStacks := mset c.rayStacks n k }

/-- n free values, from the counter on (DEDUCED, log 77). -/
def freeList : Nat → Nat → List DWord
  | 0, _ => []
  | n + 1, i => BitVec.ofNat 64 (Config.freeValue i) :: freeList n (i + 1)

/-- The chip entries a handle counts, top first. Where software has altered the count they are the stack's own bytes, of
values the spec does not give. -/
def State.chipOf (s : State) (h : RayHandle) (k : RayStack) : List DWord × State :=
  if k.chip.length = h.chip then (k.chip, s)
  else (freeList h.chip s.fresh, { s with fresh := s.fresh + h.chip })

/-- The bytes of entries, bottom first, of a list that stands top first. -/
def entryBytes (l : List DWord) : List Byte := l.reverse.flatMap (fun x => natToBytes 8 x.toNat)

/-- The entries, top first, that bytes hold bottom first. -/
def entriesOf (n : Nat) (b : List Byte) : List DWord :=
  ((rangeFrom 0 n).map (fun i => BitVec.ofNat 64 (bytesToNat ((b.drop (8 * i)).take 8)))).reverse

/-- RPUSH of one lane: the handle after it and whether it failed, and the state; or the area access that failed. -/
def pushLane (s : State) (w : Word) (x : DWord) : Except (Nat × Nat) ((Word × Bool) × State) :=
  match s.stackOf w with
  | none => .ok ((w, true), s)
  | some (h, k) =>
    if 512 ≤ h.depth then .ok ((w, true), s)
    else
      let (chip, s) := s.chipOf h k
      if h.chip = 64 then
        match s.hwWrite s.cur.1 s.w.ctx (s.rayArea s.cur.1 s.w.ctx h.stack (16 * h.spill)) (entryBytes (chip.drop 48)) with
        | .error e => .error e
        | .ok s =>
          .ok (({ h with spill := h.spill + 1, chip := 49 }.word, false), s.setStack h.stack { k with chip := x :: chip.take 48 })
      else .ok (({ h with chip := h.chip + 1 }.word, false), s.setStack h.stack { k with chip := x :: chip })

/-- RPOP of one lane: the handle after it, where it changes, and the pair, and the state; or the area access that failed. -/
def popLane (s : State) (w : Word) : Except (Nat × Nat) ((Option Word × DWord) × State) :=
  match s.stackOf w with
  | none => .ok ((none, 0), s)
  | some (h, k) =>
    let top (s : State) (h : RayHandle) : List DWord → (Option Word × DWord) × State
      | [] => ((none, 0), s)
      | x :: t => ((some { h with chip := h.chip - 1 }.word, x), s.setStack h.stack { k with chip := t })
    if h.chip = 0 && 0 < h.spill then
      match s.readArea s.cur.1 s.w.ctx (s.rayArea s.cur.1 s.w.ctx h.stack (16 * (h.spill - 1))) 128 with
      | .error e => .error e
      | .ok (b, s) => .ok (top s { h with spill := h.spill - 1, chip := 16 } (entriesOf 16 b))
    else
      let (chip, s) := s.chipOf h k
      .ok (top s h chip)

/-- The value a list gives a lane. -/
def laneOf {α : Type} (l : List (Nat × α)) (i : Nat) : Option α := (l.find? (fun e => e.1 == i)).map Prod.snd

/-- Lanes act on their stacks in ascending order: what each gives, the lanes whose area access failed, and the state. -/
def stackLanes {α : Type} (f : State → Nat → Except (Nat × Nat) (α × State)) :
    State → List Nat → List (Nat × α) × List (Nat × Nat × Nat) × State
  | s, [] => ([], [], s)
  | s, l :: t =>
    match f s l with
    | .ok (x, s) =>
      let (out, bad, s) := stackLanes f s t
      ((l, x) :: out, bad, s)
    | .error e =>
      let (out, bad, s) := stackLanes f s t
      (out, (l, e) :: bad, s)

/-- The lanes of RPUSH and RPOP; one whose area access failed stops the instruction. -/
def runStacks {α : Type} (s : State) (access : Nat) (lanes : List Nat)
    (f : State → Nat → Except (Nat × Nat) (α × State)) : Attempt (List (Nat × α) × State) :=
  match stackLanes f s lanes with
  | (out, [], s') => .ok (out, s')
  | (_, (l, e) :: bad, _) => backingTrap s e access (maskOf (fun i => i == l || bad.any (fun x => x.1 == i)))

/-- RPUSH. -/
def execRpush (h : Hints) (k : KReg) (d a : VReg) (c : KReg) (s : State) : Host.Outcome State Fault Refusal :=
  run h 1 8 s fun s => do
    needFeature s 2 (.rpush h k d a c)
    let act ← active s k
    let hs ← readV s d.toNat act
    let xs ← readVW s true a.toNat act
    let (out, s) ← runStacks s 3 (activeList act) (fun s l => pushLane s (hs l) (BitVec.ofNat 64 (xs l)))
    let s ← writeV s d.toNat (fun l => (laneOf out l).map Prod.fst)
    writeK s c (maskOf (fun l => ((laneOf out l).map Prod.snd).getD false))

/-- RPOP. -/
def execRpop (h : Hints) (k : KReg) (d a : VReg) (s : State) : Host.Outcome State Fault Refusal :=
  run h 1 8 s fun s => do
    needFeature s 2 (.rpop h k d a)
    let act ← active s k
    let hs ← readV s a.toNat act
    let (out, s) ← runStacks s 0 (activeList act) (fun s l => popLane s (hs l))
    let s ← writeVW s true d.toNat (fun l => (laneOf out l).map (fun e => e.2.toNat))
    writeV s a.toNat (fun l => (laneOf out l).bind Prod.fst)

/-- The stacks the lanes of an RSTART get, claiming the lowest free ones in turn; none where too few are free. -/
def claimStacks (k : Cluster) (keep : Nat → Option Nat) : List Nat → List Nat → Option (List (Nat × Nat))
  | [], _ => some []
  | l :: t, taken =>
    let n := (keep l).or (firstBelow (fun i => (mget k.rayStacks i).isNone && !taken.contains i) 1024 0)
    n.bind (fun n => (claimStacks k keep t (n :: taken)).map (fun r => (l, n) :: r))

/-- RSTART. -/
def execRstart (h : Hints) (k : KReg) (d : VReg) (s : State) : Host.Outcome State Fault Refusal :=
  run h 1 8 s fun s => do
    needFeature s 2 (.rstart h k d)
    let act ← active s k
    let hs ← readV s d.toNat act
    let keep (l : Nat) : Option Nat := (s.stackOf (hs l)).map (fun x => x.1.stack)
    let c := s.cluster s.cur.1
    let reserved := c.away.flatMap (fun a => if a.2.wg.ctx == s.w.ctx then a.2.rayStacks.map Prod.fst else [])
    match claimStacks c keep (activeList act) reserved with
    | none => hold .sync
    | some got =>
      let w := s.w
      let s := got.foldl (fun s e => s.setStack e.2 { ctx := w.ctx, wgslot := w.wgslot, chip := [] }) s
      writeV s d.toNat (fun l => (laneOf got l).map (fun n => { valid := true, spill := 0, chip := 0, stack := n : RayHandle }.word))

/-- RSTOP. -/
def execRstop (h : Hints) (k : KReg) (d : VReg) (s : State) : Host.Outcome State Fault Refusal :=
  run h 1 8 s fun s => do
    needFeature s 2 (.rstop h k d)
    let act ← active s k
    if s.traversals.any (fun t => t.2.tag == s.tag) then hold .dep
    else match s.w.held.find? (fun r => r.job == 3) with
      | some r => trapWith (asyncTrap s.w.pc r)
      | none => do
        let hs ← readV s d.toNat act
        let mine := (activeList act).filterMap (fun l => (s.stackOf (hs l)).map (fun x => (l, x.1.stack)))
        let c := s.cluster s.cur.1
        let s := s.setCluster s.cur.1 { c with rayStacks := (mine.map Prod.snd).foldl mdel c.rayStacks }
        writeV s d.toNat (fun l => (laneOf mine l).map (fun _ => 0))

end Sys2Proof.Machine
end

