-- ==== Sys2Proof/Machine/Arrivals.lean ====
section
/-!
DEFINITION. What performs at a home and what arrives at a cluster: reads, writes and atomics, their answers, shadows and
held arrivals, mailboxes, semaphore adds, LOD feedback and traversal results (03 R47, R57 to R59; 04 R73 to R77; 05 R93; 06
R101 to R106; 07 R120 to R128; 08 R133 to R139; 16 R284, R287, R369; 24 R334 to R341).
-/
namespace Sys2Proof.Machine

/-! ### Performing at a home -/

/-- What an atomic leaves in place of an old value (16 R279). -/
def atomNew (op : AtomOp) (ty : MemType) (old x y : Nat) : Nat :=
  let w := 8 * memSize ty
  let x := x % 2 ^ w
  let num (n : Nat) : Int := if memSigned ty then signedOf w n else n
  match op with
  | .add => if ty == .f32 then (f32add .rne (BitVec.ofNat 32 old) (BitVec.ofNat 32 x)).1.toNat else (old + x) % 2 ^ w
  | .exch => x
  | .and => Nat.land old x
  | .or => Nat.lor old x
  | .xor => Nat.xor old x
  | .min => if num x < num old then x else old
  | .max => if num old < num x then x else old
  | .cas => if old = x then y % 2 ^ w else old

/-- Gives a wave a fault record of a job without a semaphore (02 R38): held until a WAIT, RSTOP or EXIT; a draining wave
is LEASED again (10 R169). With the wave away the record goes to the fault log. -/
def State.giveRecord (s : State) (t : WTag) (r : JobRec) : State :=
  match s.residentOf t with
  | some _ => s.updWave t.cl t.row (fun w => { w with held := w.held ++ [r], draining := false })
  | none => s.appendRecord r

/-- A new record without a semaphore, given to its wave, with the counters its job counted on. -/
def State.newFault (s : State) (t : WTag) (job cause access va n iaddr counters : Nat) : State :=
  let (r, s) := s.newRecord t
    { vaddr := va, progress := n, ctx := 0, wave := 0, cluster := 0, sem := 0xFF, access := access, job := job
      cause := cause, iaddr := iaddr, wgx := 0, seq := 0, counters := counters }
  s.giveRecord t r

/-- What an access does to the bytes at a physical address, whose lines have moved: its result. A BINAPP that fails leaves a
record (JOB 4). -/
def State.performAt (s : State) (pa : Nat) (a : Access) : Nat × State :=
  match a.kind with
  | .load => (memNat s.mem pa a.size, s)
  | .store => (0, s.homeStore pa (natToBytes a.size a.data))
  | .atomic op ty =>
    let old := memNat s.mem pa a.size
    (old, s.homeStore pa (natToBytes a.size (atomNew op ty old a.data a.data2)))
  | .barrive =>
    let (w, s) := s.barrierArrive pa
    (w.toNat, s)
  | .binapp =>
    let (bad, e, s) := s.binPerform { a with pa := pa }
    match e with
    | none => (bad, s)
    | some x => (bad, s.newFault a.tag 4 x.1 2 x.2 0 a.iaddr 1)
  | .semRel => (0, s)

/-- The lines an access uses at their homes, and how (03 R57, 07 R120). The lines that a BINAPP uses beside its header's move as
its lanes are applied. -/
def Access.uses (a : Access) : List (Nat × LineUse) :=
  usesOf a.pa a.size (fun whole =>
    match a.kind with
    | .load => .read a.ca
    | .store => .write a.ca whole
    | .atomic _ _ => if a.ap = 2 then .port else .write a.ca false
    | .barrive | .binapp | .semRel => .write a.ca false)

/-- A drain tile in a page is under way: no atomic and no other drain tile performs there until it is done (07 R122). -/
def State.pageLocked (s : State) (pa : Nat) : Bool := s.addTiles.any (fun t => t.2.started && t.2.pa / 4096 == pa / 4096)

/-- The access is one of those that a drain tile under way keeps out. -/
def State.lockedOut (s : State) (a : Access) : Bool :=
  match a.kind with
  | .load | .store | .semRel => false
  | .atomic _ _ | .barrive => s.pageLocked a.pa
  | .binapp => s.pageLocked a.pa || a.spans.any (fun x => s.pageLocked x.2.1)

/-- An access performs in device memory, with its lines' moves; none where line tokens do not cover those. -/
def State.performHere (s : State) (a : Access) : Option (Nat × State) :=
  match s.moveLines a.uses with
  | none => none
  | some s1 => some (s1.performAt a.pa a)

/-- An access in flight has no target any more, since its CXL port or its link is down (03 R61): a load and a value owed are
open, a store writes nothing, and what may leave a record leaves one (DESIGN CHOICE, log 90). -/
def State.performLost (s : State) (a : Access) : Nat × State :=
  match a.kind with
  | .store | .semRel => (0, s)
  | .load =>
    let (x, s) := s.takeFree
    (x % 2 ^ (8 * a.size), s)
  | .atomic _ _ | .barrive | .binapp =>
    let (x, s) := s.takeFree
    (x % 2 ^ (8 * a.size), if a.size = 0 then s else s.newFault a.tag 4 causeNoTarget 2 a.va 0 a.iaddr 1)

/-! ### Publication buffers (03 R59; 07 R124 to R126) -/

/-- Lines of 64 bytes a publication buffer holds (DEDUCED, log 43). -/
def pubLines : Nat := 1024

/-- The lines that held writes lie in. -/
def pubLinesOf (l : List PubWrite) : List (Nat × Nat) := (l.map (fun w => (w.win, w.addr / 64))).eraseDups

/-- Posts the writes of the oldest held line of a slice and counts it as early (07 R126). -/
def State.postOldest (s : State) (part n : Nat) : State :=
  let x := s.slice n
  match x.pub with
  | [] => s
  | w :: _ =>
    let mine (v : PubWrite) : Bool := v.win == w.win && v.addr / 64 == w.addr / 64
    let link := (((mget s.parts part).bind (fun p => mget p.windows w.win)).map PubWindow.link).getD 0
    let s := s.setSlice n { x with pub := x.pub.filter (fun v => !mine v) }
    let s := (x.pub.filter mine).foldl (fun s v => s.postWrite part link v.addr v.bytes) s
    { s with parts := mupd s.parts part (fun p =>
        { p with windows := mupd p.windows w.win (fun v => { v with early := min (v.early + 1) (2 ^ 32 - 1) }) }) }

/-- Posts oldest lines until the buffer holds no more than its capacity: n tries. -/
def State.relieve (s : State) (part n : Nat) : Nat → State
  | 0 => s
  | k + 1 => if (pubLinesOf (s.slice n).pub).length ≤ pubLines then s else (s.postOldest part n).relieve part n k

/-- A write to a page with PW = 1 of a host window performs: it is held for publication in the buffer of a slice, or, where
its window is no longer enabled, posted. -/
def State.hostStore (s : State) (part n pa : Nat) (bs : List Byte) : State :=
  let link := if pa < hostBase1 then 0 else 1
  let addr := pa - linkBase link
  match s.windowOf part pa with
  | none => s.postWrite part link addr bs
  | some w =>
    let x := s.slice n
    let v : PubWrite := { win := w, addr := addr, bytes := bs }
    let see (r : HostReq) : HostReq := if r.fn = part && r.link = link then { r with heldOver := r.heldOver ++ [v] } else r
    let asked : SMap HostReq := s.hostReqs.map (fun r => (r.1, see r.2))
    let s := { s with hostReqs := asked }
    (s.setSlice n { x with pub := x.pub ++ [v] }).relieve part n bs.length

/-- The bytes of a range at a bus address with one held write over them. -/
def overlay (addr : Nat) (b : List Byte) (v : PubWrite) : List Byte :=
  (rangeFrom 0 b.length).map (fun i =>
    if v.addr ≤ addr + i && addr + i < v.addr + v.bytes.length then v.bytes.getD (addr + i - v.addr) 0 else b.getD i 0)

/-- What a device read of a host window sees: what the host gives, with the held writes over it (07 R125). Neither the read of
a ring entry nor an atomic sees those: they are the host's own (07 R121) (DEDUCED, log 43). -/
def HostReq.sees (r : HostReq) (b : List Byte) : List Byte :=
  match r.ask, r.atomic with
  | .packetRead _ _, _ => b
  | _, some _ => b
  | _, none => r.heldOver.foldl (overlay r.addr) b

/-! ### Requests at a home slice -/

/-- A packet of a kind that has arrived: a request or an answer. -/
def State.arrivedAs (s : State) (kind : Nat) (answer : Bool) : Option (Nat × Packet) :=
  match mget s.packets s.subj.a with
  | none => none
  | some p =>
    match p.loc with
    | .arrived t => if p.kind = kind && p.answer == answer && decide (t ≤ s.now) then some (s.subj.a, p) else none
    | _ => none

/-- A packet that q holds for arrived before a time and has not been taken: arrivals of a kind act in the order in which they
came (04 R76, 05 R93, 16 R369). -/
def State.arrivedBefore (s : State) (id t : Nat) (q : Packet → Bool) : Bool :=
  s.packets.any (fun e => e.1 ≠ id && q e.2 && !s.isHeld e.1 &&
    match e.2.loc with
    | .arrived t' => decide (t' < t)
    | _ => false)

/-- When a packet arrived. -/
def Packet.arrivedAt (p : Packet) : Nat :=
  match p.loc with
  | .arrived t => t
  | _ => 0

/-- What a packet asks a link for is on its way. -/
def State.onLink (s : State) (id : Nat) : Bool :=
  s.hostReqs.any (fun r => r.2.ask == .packet id) || s.peerReqs.any (fun r => r.2.ask == .packet id)

/-- A request of the same source to the same home arrived earlier and has not left the ordering queue (03 R58). -/
def State.queuedBehind (s : State) (id : Nat) (p : Packet) : Bool :=
  s.packets.any (fun e =>
    e.1 ≠ id && e.2.src == p.src && e.2.dst == p.dst && !e.2.answer && decide (e.2.stamp < p.stamp) &&
      !s.onLink e.1 && !s.isHeld e.1 &&
      match e.2.loc with
      | .arrived _ => true
      | _ => false)

/-- A request packet becomes its answer, and takes its place in the outbound order of its home. -/
def State.answerWith (s : State) (id : Nat) (p : Packet) (kind flits : Nat) (body : Body) : State :=
  let (n, s) := s.newId
  let q : Packet :=
    { p with kind := kind, src := p.dst, dst := p.src, flits := flits, side := false, vc := 0, loc := .agent
             answer := true, relayed := false, stamp := n, body := body }
  { s with packets := mset s.packets id q }

/-- KIND and length of the answer to an access (05 R85). -/
def answerKind : AccKind → Nat × Nat
  | .load => (1, 2)
  | _ => (4, 1)

/-- An access has performed with a result: its packet becomes the answer. -/
def State.performed (s : State) (id : Nat) (p : Packet) (a : Access) (result : Nat) : State :=
  let (kind, flits) := answerKind a.kind
  (s.answerWith id p kind flits (.access { a with performed := true, result := result })).enterOutbound

/-- The link request of an access of a partition to a host or peer window. A write to a page with PW = 0 performs when the
host or the peer's home has it (07 R128, 25 R351) (DEDUCED, log 50). -/
def State.askAccess (s : State) (id part : Nat) (a : Access) : State :=
  let (rid, s) := s.askLink part a.pa a.size (.packet id)
  let fill (r : HostReq) : HostReq :=
    match a.kind with
    | .atomic op ty => { r with atomic := some (op, ty, a.data, a.data2) }
    | .store => { r with write := true, data := natToBytes a.size a.data }
    | _ => r
  { s with hostReqs := mupd s.hostReqs rid fill, peerReqs := mupd s.peerReqs rid fill }

/-- An access performs at its home slice, or goes on to the host or the peer. -/
def State.atHome (s : State) (id : Nat) (p : Packet) (a : Access) : State :=
  if s.noTarget a.pa then
    let (r, s) := s.performLost a
    s.performed id p a r
  else
    match region a.pa with
    | .peer _ => s.askAccess id p.part a
    | .host _ =>
      if a.kind = .store && a.pw then
        (s.hostStore p.part (siteNumber p.dst) a.pa (natToBytes a.size a.data)).performed id p a 0
      else s.askAccess id p.part a
    | _ =>
      if s.lockedOut a || s.thingHeld (.request id) then s
      else match if a.kind = .binapp then s.binHeld a else none with
        | some cl => s.holdThing cl p.ctx (.request id)
        | none =>
          match s.performHere a with
          | none => s
          | some (r, s) => s.performed id p a r

/-- A request packet of a kind performs at its home. -/
def State.serve (s : State) (kind : Nat) : State :=
  match s.arrivedAs kind false with
  | none => s
  | some (id, p) =>
    match p.body with
    | .access a => if s.queuedBehind id p || s.onLink id then s else s.atHome id p a
    | _ => s

/-- READ_REQUEST: the packet that State.subj names performs at its home slice. -/
def execReadRequest (s : State) : Host.Outcome State Fault Refusal := .next (s.serve 0)

/-- WRITE. -/
def execWrite (s : State) : Host.Outcome State Fault Refusal := .next (s.serve 2)

/-- ATOMIC_REQUEST. -/
def execAtomicRequest (s : State) : Host.Outcome State Fault Refusal := .next (s.serve 3)

/-! ### Images and shadows (08 R131, R133, R134; 11 R195) -/

/-- Places in a wave's saved state. -/
def saveMask : Nat := 0x400
def saveBitmap : Nat := 0x5A0

/-- The diversion entry that catches a return owed to a wave. -/
def State.regsEntry (s : State) (t : WTag) : Option DivEntry := s.wgEntry t.cl t.ctx t.wgslot .regs

/-- Writes lane bytes of a register of an evicted wave, and sets its arrival bit. -/
def State.imageLane (s : State) (t : WTag) (r lane n x : Nat) : Except (Nat × Nat) State :=
  let a := s.backingAddr (s.ctxOf t.ctx) t.cl t.wgx t.wnum r + 4 * lane
  match s.hwWrite t.cl t.ctx a (natToBytes n x) with
  | .error e => .error e
  | .ok s =>
    let b := s.saveArea t.cl t.ctx t.row + saveBitmap + r / 8
    match s.readArea t.cl t.ctx b 1 with
    | .error e => .error e
    | .ok (v, s) => s.hwWrite t.cl t.ctx b (natToBytes 1 (Nat.lor (bytesToNat v) (2 ^ (r % 8))))

/-- Writes a returned value into the register image of an evicted wave. -/
def State.imageWrite (s : State) (t : WTag) (d : Dest) (x : Nat) : Except (Nat × Nat) State :=
  let save := s.saveArea t.cl t.ctx t.row
  match d with
  | .none => .ok s
  | .lane r lane wide =>
    match s.imageLane t r lane 4 (x % 2 ^ 32) with
    | .error e => .error e
    | .ok s => if wide then s.imageLane t (r + 1) lane 4 (x / 2 ^ 32 % 2 ^ 32) else .ok s
  | .scalar .zs => .ok s
  | .scalar (.s n) => s.hwWrite t.cl t.ctx (save + 8 * n.toNat) (natToBytes 8 x)
  | .scalar (.q n) =>
    -- the entry goes to the queue image; how many there are is kept with the workgroup
    match s.awayOf t.cl t.ctx t.wgx with
    | none => .ok s
    | some a =>
      let g := a.2.wg
      let q := g.queues.getD n.toNat { depth := 0, entries := [] }
      let s := s.updAway t.cl a.1 (fun a =>
        { a with wg := { g with queues := g.queues.set n.toNat { q with entries := q.entries ++ [0] } } })
      s.hwWrite t.cl t.ctx (s.areaOf t.cl t.ctx + queueAreaOff + g.queueOff n.toNat q.entries.length) (natToBytes 8 x)
  | .mask r => s.hwWrite t.cl t.ctx (save + saveMask + 16 * r) (natToBytes 16 x)

/-- Lands a value owed to a wave: in its registers, in its image, or nowhere once it has ended; none where the arrival is
held. -/
def State.landValue (s : State) (t : WTag) (d : Dest) (x : Nat) : Option State :=
  match s.regsEntry t with
  | some e =>
    if e.state = .active then
      match s.imageWrite t d x with
      | .ok s' => some s'
      | .error f => some (s.shadowFail t.cl t.ctx t.wgx f 3)
    else none
  | none =>
    match s.residentOf t with
    | some w => some (s.landResident t w d x)
    | none => some s

/-- The value of an access as its destination takes it. -/
def Access.value (a : Access) : Nat :=
  match a.kind with
  | .load => extendTo64 a.size a.signed a.result
  | .atomic _ _ => a.result % 2 ^ (8 * a.size)
  | _ => a.result

/-- An access to a vault performs there or on its shadow; none where it is held (08 R134, R137). -/
def State.vaultAccess (s : State) (a : Access) : Option (Nat × State) :=
  match s.landing a.tag.ctx a.pa a.size (a.kind ≠ .store) (AccessKind.isWrite a.kind) with
  | .at pa => some (s.performAt pa a)
  | .held _ => none
  | .lost cl e c va => some (0, s.entryFail cl e (c, va) (if AccessKind.isWrite a.kind then 3 else 0))

/-- Bytes written to a vault by an engine land there or on their shadow; none where they are held. -/
def State.vaultStore (s : State) (ctx pa : Nat) (put : Nat → State → State) (n : Nat) : Option State :=
  match s.landing ctx pa n false true with
  | .at pa => some (put pa s)
  | .held _ => none
  | .lost cl e c va => some (s.entryFail cl e (c, va) 3)

/-! ### Registers of the control space that an access reaches (01 R24: firmware alone) -/

/-- What becomes of an arrival: done, or held at a cluster's ingress. -/
inductive Arrival where
  | done (s : State)
  | heldAt (cl : Nat) (s : State)

/-- What an arrival leaves behind. -/
def Arrival.state : Arrival → Nat → State
  | .done s, _ => s.enterOutbound
  | .heldAt cl s, id => (s.holdArrival cl id).enterOutbound

/-- Removes a thing in flight. -/
def State.dropPacket (s : State) (id : Nat) : State := { s with packets := mdel s.packets id }
def State.dropLateral (s : State) (id : Nat) : State := { s with laterals := mdel s.laterals id }

/-- An access that has performed lands: its value and its counter. -/
def State.landAccess (s : State) (a : Access) (drop : State → State) : Arrival :=
  match s.landValue a.tag a.dest a.value with
  | none => .heldAt a.tag.cl s
  | some s => .done ((drop s).opStep a.op)

/-- An add to a semaphore of a cluster: its own cluster's, or one relayed (16 R284, R369). -/
def State.arriveAdd (s : State) (a : Access) (done : State → State) : Arrival :=
  if s.semWaits a.size a.tag.ctx then .heldAt a.size s
  else .done (done (s.semAdd a.size a.tag.ctx a.va a.data))

/-- A mailbox's answer reaches the sender. -/
def State.arriveMail (s : State) (id op : Nat) (t : WTag) (d : SReg) (code : Nat) : Arrival :=
  match s.landValue t (.scalar d) code with
  | none => .heldAt t.cl s
  | some s => .done ((s.dropPacket id).opStep op)

/-! ### LOD feedback answers (04 R71, R76) -/

/-- The status lane of a VLDL as its wave or image holds it, with DROP set. -/
def State.setDrop (s : State) (t : WTag) (r lane : Nat) : Option State :=
  let bit : Nat := 32
  match s.regsEntry t with
  | some e =>
    if e.state = .active then
      let a := s.backingAddr (s.ctxOf t.ctx) t.cl t.wgx t.wnum r + 4 * lane
      match s.readArea t.cl t.ctx a 4 with
      | .error f => some (s.shadowFail t.cl t.ctx t.wgx f 0)
      | .ok (b, s) =>
        match s.imageLane t r lane 4 (Nat.lor (bytesToNat b) bit) with
        | .ok s' => some s'
        | .error f => some (s.shadowFail t.cl t.ctx t.wgx f 3)
    else none
  | none =>
    match s.residentOf t with
    | none => some s
    | some w =>
      if r < w.bound then some (s.landLane t w r lane (w.lane r lane ||| BitVec.ofNat 32 bit))
      else
        match s.readArea t.cl w.ctx (s.backingAddr (s.ctxOf w.ctx) t.cl w.wgx w.wnum r + 4 * lane) 4 with
        | .error f => some (s.hwFault t.cl w.ctx f.1 f.2 0 0 w.pc)
        | .ok (b, s) => some (s.landLane t w r lane (BitVec.ofNat 32 (bytesToNat b) ||| BitVec.ofNat 32 bit))

/-- An answer to a feedback report: to a lane, or to a page of an LOD-mode copy. -/
def State.arriveReport (s : State) (id : Nat) (r : LodReport) : Arrival :=
  match r.job with
  | some (j, page) =>
    .done ({ s with jobs := mupd s.jobs j (fun j =>
      { j with resolved := mupd j.resolved page (fun g => { g with awaited := false, drop := r.dropped }) }) }.dropPacket id)
  | none =>
    match r.status, r.dropped with
    | .lane n lane _, true =>
      match s.setDrop r.tag n lane with
      | none => .heldAt r.tag.cl s
      | some s => .done ((s.dropPacket id).opStep r.op)
    | _, _ =>
      match s.landValue r.tag .none 0 with
      | none => .heldAt r.tag.cl s
      | some s => .done ((s.dropPacket id).opStep r.op)

/-! ### Traversal results (24 R336, R341) -/

/-- What reading a word of a traversal's node finds. -/
inductive NodeRead where
  | word (x : Word) (s : State)
  | fault (cause : Nat)
  | link (pa : Nat)
  | held (cl : Nat) (s : State)
  | later

/-- Reads word k of a node at its home: each word by itself, the old value or the new (24 R336, 06 R102). -/
def State.readNode (s : State) (t : Traversal) (k : Nat) : NodeRead :=
  match s.translate t.tag.cl t.tag.ctx ((t.addr + 4 * k) % 2 ^ 64) .read with
  | .error c => .fault c
  | .ok (pa, attr) =>
    match region pa with
    | .host _ | .peer _ => .link pa
    | _ =>
      match s.readFor t.tag.ctx pa 4 with
      | .poison => .fault causeDataError
      | .held cl s => .held cl s
      | .bytes bs s =>
        match s.moveLines (usesOf pa 4 (fun _ => .read (attrCa attr))) with
        | none => .later
        | some s => .word (BitVec.ofNat 32 (bytesToNat bs)) s

/-- The words of a node. -/
def wordsOf (bs : List Byte) : Nat → List Word
  | 0 => []
  | n + 1 => BitVec.ofNat 32 (bytesToNat (bs.take 4)) :: wordsOf (bs.drop 4) n

/-- Lands the words of a result in consecutive registers of a lane. -/
def State.landWords (s : State) (t : WTag) (lane : Nat) : Nat → List Word → Option State
  | _, [] => some s
  | r, w :: rest =>
    match s.landValue t (.lane r lane false) w.toNat with
    | none => none
    | some s => s.landWords t lane (r + 1) rest

/-- A traversal's result lands; a fault gives a miss and a record (JOB 3) (DEDUCED, log 44). -/
def State.landTraversal (s : State) (id : Nat) (t : Traversal) (words : List Word) (fault : Option (Nat × Nat)) : Arrival :=
  match s.landWords t.tag t.lane t.dst words with
  | none => .heldAt t.tag.cl s
  | some s =>
    let s := { s with traversals := mdel s.traversals id }.opStep t.op
    match fault with
    | none => .done s
    | some f => .done (s.newFault t.tag 3 f.1 0 f.2 0 t.iaddr 0)

/-- The words of its node that a request has yet to read. -/
def Traversal.missing (t : Traversal) : List Nat :=
  (rangeFrom 0 (nodeBytes t.triangle / 4)).filter (fun k => (mget t.got k).isNone)

/-- The words after word k, among some in rising order, that follow it in its page. -/
def Traversal.runFrom (t : Traversal) (k : Nat) (l : List Nat) : List Nat :=
  (((rangeFrom k l.length).zip l).filter (fun x => x.1 == x.2 && (t.addr + 4 * x.2) / 4096 == (t.addr + 4 * k) / 4096)).map Prod.snd

/-- A word of a node has been read, or what it met instead: a fault ends the request, with the node's own address (02 R27); a
link is asked for the words of run. -/
def State.tookWord (s : State) (id : Nat) (t : Traversal) (k : Nat) (run : List Nat) : NodeRead → Arrival
  | .word x s => .done { s with traversals := mset s.traversals id { t with got := mset t.got k x } }
  | .fault c => s.landTraversal id t t.miss (some (c, t.addr))
  | .held cl s => .heldAt cl s
  | .later => .done s
  | .link pa =>
    let s := { s with traversals := mset s.traversals id { t with asked := run } }
    .done (s.askLink (s.partOfCtx t.tag.ctx) pa (4 * run.length) (.traversalRead id)).2

/-- A traversal request reads the words of its node that are missing, in order, and lands. -/
def State.readWords (id : Nat) : List Nat → Traversal → State → Arrival
  | [], t, s =>
    s.landTraversal id t (t.result ((rangeFrom 0 (nodeBytes t.triangle / 4)).map (fun k => mgetD t.got k 0))) none
  | k :: rest, t, s =>
    match s.readNode t k with
    | .word x s =>
      let t := { t with got := mset t.got k x }
      State.readWords id rest t { s with traversals := mset s.traversals id t }
    | r => s.tookWord id t k (t.runFrom k (k :: rest)) r

/-- A traversal request that waits for nothing reads one word of its node, or all that are missing, and answers. -/
def State.arriveTraversal (s : State) (id : Nat) (t : Traversal) (only : Option Nat) : Arrival :=
  if !t.asked.isEmpty || t.after.any s.isPending then .done s
  else match only with
    | none => State.readWords id t.missing t s
    | some k => if t.missing.contains k then s.tookWord id t k [k] (s.readNode t k) else .done s

/-! ### Engine data (20 R304, R305; 07 R122) -/

/-- One addend's sum in FP32, flushed, with the flags (07 R122). -/
def addElement (s : State) (pa : Nat) (bs : List Byte) : List Byte × FFlags :=
  let (w, f) := planeAdd (BitVec.ofNat 32 (memNat s.mem pa 4)) (BitVec.ofNat 32 (bytesToNat bs))
  (natToBytes 4 w.toNat, f)

/-- Writes the parts of an engine write, in order: those of one packet perform in one instant (DESIGN CHOICE, log 114). -/
def State.putParts (s : State) (pa : Nat) (parts : List (Nat × List Byte)) : State :=
  parts.foldl (fun s x => s.homeStore (pa + x.1) x.2) s

/-- Bytes from an engine write's first to its last. -/
def CopyWrite.span (w : CopyWrite) : Nat := w.parts.foldl (fun m p => max m (p.1 + p.2.length)) 0

/-- The lines that an engine write uses, with the caching class of its page (03 R57). -/
def CopyWrite.uses (w : CopyWrite) : List (Nat × LineUse) :=
  let bytesIn (l : Nat) : Nat :=
    ((w.parts.filter (fun x => (w.pa + x.1) / 64 == l)).map (fun x => x.2.length)).foldl (· + ·) 0
  if sliceHomed w.pa then
    ((linesOf w.pa w.span).filter (fun l => bytesIn l ≠ 0)).map (fun l => (l, .write w.ca (decide (64 ≤ bytesIn l))))
  else []

/-- ORs flags into the drain flags of a wave (20 R315), resident or away. -/
def State.raiseDrain (s : State) (t : WTag) (f : FFlags) : State :=
  match s.residentOf t with
  | some _ => s.updWave t.cl t.row (fun w => { w with drainFlags := w.drainFlags ||| f })
  | none =>
    match s.awayOf t.cl t.ctx t.wgx with
    | none => s
    | some a =>
      let s := s.updAway t.cl a.1 (fun a =>
        { a with waves := mupd a.waves t.row (fun w => { w with drainFlags := w.drainFlags ||| f }) })
      let save := s.saveArea t.cl t.ctx t.row + 0x600
      match s.readArea t.cl t.ctx save 1 with
      | .error e => s.shadowFail t.cl t.ctx t.wgx e 0
      | .ok (b, s) =>
        match s.hwWrite t.cl t.ctx save (natToBytes 1 (Nat.lor (bytesToNat b) f.toNat)) with
        | .ok s' => s'
        | .error e => s.shadowFail t.cl t.ctx t.wgx e 3

/-- A job whose every access has performed counts complete on CP, and its records go to its wave where it names no
semaphore (02 R38; 16 R274). -/
def State.settleJob (s : State) (id : Nat) : State :=
  match mget s.jobs id with
  | none => s
  | some j =>
    if !j.done then s
    else
      let s := if j.sem.isNone then j.faults.foldl (fun s r => s.giveRecord j.owner r) s else s
      let s := j.cpOps.foldl State.opStep s
      let j := { j with cpOps := [], faults := if j.sem.isNone then [] else j.faults }
      { s with jobs := mset s.jobs id j }

/-! ### Reading an element of a job (05 R85, R98; 07 R114) -/

/-- Replaces a job. -/
def State.setJob (s : State) (id : Nat) (j : Job) : State := { s with jobs := mset s.jobs id j }

/-- A job stops at an element, and is complete once what it has sent has performed. -/
def State.stopJob (s : State) (id cause access va n : Nat) : State := (s.failJob id cause access va n).settleJob id

/-- The site a job's data comes from: a slice for copies and gathers, the cluster's own pipes for the rest. -/
def Job.site (j : Job) (piece : Nat) : Nat :=
  match j.kind with
  | .copy _ _ _ | .multicast _ _ _ _ _ | .lodCopy _ _ _ _ _ _ _ | .gather _ _ _ _ _ => sliceSite piece
  | .line _ _ _ _ | .drain _ _ _ _ _ _ | .store _ | .planeLoad _ _ => clusterSite j.owner.cl

/-- The site of a destination. -/
def State.destSite (s : State) (part pa own : Nat) : Nat :=
  match region pa with
  | .vault n => clusterSite n
  | .hbm _ | .safe _ | .cxl _ | .host _ | .peer _ => sliceSite (s.homeOf part pa)
  | .checkpoint | .control | .reserved => own

/-- An element's source has been read: its bytes, as its destination takes them. -/
def JobKind.taken : JobKind → List Byte → List Byte × FFlags
  | .planeLoad _ ef, bs =>
    let (w, f) := loadElement ef (bytesToNat bs)
    (natToBytes 4 w.toNat, f)
  | _, bs => (bs, 0)

/-- Changes an element that is on its way. -/
def Job.setFlight (j : Job) (f : Flight) : Job :=
  { j with flight := j.flight.map (fun g => if g.n = f.n then f else g) }

/-- An element on its way has its bytes at the site that its job's data comes from. -/
def State.haveRead (s : State) (id : Nat) (j : Job) (f : Flight) (bs : List Byte) : State :=
  let (b, fl) := j.kind.taken bs
  s.setJob id (j.setFlight { f with src := none, coming := false, data := b, flags := fl })

/-- Engine data within a site, or between two clusters, needs no packet (03 R47). -/
def nearSites (a b : Nat) : Bool := a == b || (siteIsCluster a && siteIsCluster b)

/-- An element's source has been read at a site, and the piece that reads it counts it (03 R52). Its bytes go on to the site
that the job's data comes from, each element in a packet of copy data of its own (05 R85) (DESIGN CHOICE, log 112). -/
def State.tookElement (s : State) (id : Nat) (j : Job) (f : Flight) (site : Nat) (bs : List Byte) : State :=
  let piece := j.pieceOf j.owner.cl f.n
  let j := j.noteRead piece 1
  let goal := j.site piece
  if nearSites site goal then s.haveRead id j f bs
  else
    let (pid, s) := s.newId
    let p : Packet :=
      { kind := 6, src := site, dst := goal, part := s.partOfCtx j.owner.ctx, ctx := j.owner.ctx, flits := 2, stamp := pid
        body := .element id f.n bs }
    { s with packets := mset s.packets pid p }.setJob id (j.setFlight { f with src := none, coming := true })

/-- The bytes of an element have come to the site that its job's data comes from. -/
def State.elementCame (s : State) (id n : Nat) (bs : List Byte) : State :=
  match mget s.jobs id with
  | none => s
  | some j =>
    match j.flight.find? (fun f => f.n == n && f.coming) with
    | none => s
    | some f => s.haveRead id j f bs

/-- Reads the source of an element on its way: in memory, in a vault or its shadow, or over a link. A source whose target has
gone since it was translated is NO_TARGET (03 R61). A read whose home is to fetch the line waits for line tokens (05 R98). -/
def State.readFlight (s : State) (id : Nat) (j : Job) (f : Flight) (va pa attr : Nat) : State :=
  let n := j.kind.size f.n
  let site := s.destSite (s.partOfCtx j.owner.ctx) pa (j.site (j.pieceOf j.owner.cl f.n))
  if s.noTarget pa then s.stopJob id causeNoTarget 0 va f.n
  else match region pa with
  | .host _ | .peer _ =>
    match f.got with
    | some (true, bs) => s.tookElement id j f site bs
    | some (false, _) => s.stopJob id causeDataError 0 va f.n
    | none =>
      if f.asked.isSome then s
      else
        let (rid, s) := s.askLink (s.partOfCtx j.owner.ctx) pa n (.jobRead id f.n)
        s.setJob id (j.setFlight { f with asked := some rid })
  | _ =>
    match s.readFor j.owner.ctx pa n with
    | .poison => s.stopJob id causeDataError 0 va f.n
    | .held cl s => s.holdThing cl j.owner.ctx (.element id f.n)
    | .bytes bs s' =>
      match s'.moveLines (usesOf pa n (fun _ => .read (attrCa attr))) with
      | none => s
      | some s => s.tookElement id j f site bs

/-- An element whose read an ingress held is read again. -/
def State.rereadElement (s : State) (id n : Nat) : State :=
  match mget s.jobs id with
  | none => s
  | some j =>
    match j.flight.find? (fun f => f.n == n) with
    | some f =>
      match f.src with
      | some (va, pa, attr) => s.readFlight id j f va pa attr
      | none => s
    | none => s

/-- Elements of a piece have landed. -/
def State.landed (s : State) (job piece count : Nat) : State :=
  { s with jobs := mupd s.jobs job (fun j => { j with pieces := mupd j.pieces piece (fun n => n - count) }) }.settleJob job

/-- Flags of an engine write go to every wave of its job. -/
def State.jobFlags (s : State) (job : Nat) (f : FFlags) : State :=
  if f = 0 then s
  else match mget s.jobs job with
    | none => s
    | some j => j.tags.foldl (fun s t => s.raiseDrain t f) s

/-- An element of a plane load lands in its cell, or in the PLANE shadow of its workgroup (22 R328); none where the ingress
holds it. -/
def State.landCell (s : State) (t : WTag) (cell : Nat) (bs : List Byte) (f : FFlags) : Option State :=
  let r := cell / 4096
  let c := cell % 4096
  match s.wgEntry t.cl t.ctx t.wgslot .plane with
  | none =>
    let k := s.cluster t.cl
    let put (p : Plane) : Plane :=
      if p.ctx = t.ctx && p.wgslot = t.wgslot then
        { p with cells := msetD p.cells cell 0 (BitVec.ofNat 32 (bytesToNat bs)), flags := raiseAt p.flags c f }
      else p
    some (s.setCluster t.cl { k with plane := k.plane.map put })
  | some e =>
    if e.state ≠ .active then none
    else
      let fa := e.shadow + 80 * c + 67
      match s.readArea t.cl t.ctx fa 1 with
      | .error x => some (s.shadowFail t.cl t.ctx t.wgx x 0)
      | .ok (b, s) =>
        let writes := [(e.shadow + 80 * c + 4 * r, bs), (fa, natToBytes 1 (Nat.lor (bytesToNat b) f.toNat))]
        match writes.foldlM (fun s x => s.hwWrite t.cl t.ctx x.1 x.2) s with
        | .ok s' => some s'
        | .error x => some (s.shadowFail t.cl t.ctx t.wgx x 3)

/-- The drain tile that an engine write is a packet of. -/
def State.tileOfWrite (s : State) (w : CopyWrite) : Option (Nat × AddTile) :=
  s.addTiles.find? (fun t => t.2.job == w.job && t.2.pa == w.pa && t.2.va == w.va && decide (0 < t.2.packets))

/-- A packet of a drain tile reaches its home: its addends join those that came before. -/
def State.collectAdd (s : State) (ctx : Nat) (w : CopyWrite) : State :=
  match s.tileOfWrite w with
  | some (id, t) =>
    let t := { t with packets := t.packets - 1, parts := t.parts ++ w.parts, count := t.count + w.count, born := min t.born w.born }
    { s with addTiles := mset s.addTiles id t }
  | none =>
    let (id, s) := s.newId
    let t : AddTile :=
      { job := w.job, piece := w.piece, ctx := ctx, va := w.va, pa := w.pa, ca := w.ca, packets := w.tile - 1
        parts := w.parts, count := w.count, born := w.born }
    { s with addTiles := mset s.addTiles id t }

/-- The next addend of a drain tile is applied at its place, or is lost with its shadow: the flags raised and the old value. It
waits where the ingress of a cluster holds it, or where line tokens do not cover the line's moves at its port. The home has
written back and dropped the line before the port adds, again if a plain access has brought it back (07 R120, R122; 05 R98). -/
def State.applyAdd (s : State) (t : AddTile) (off : Nat) (bs : List Byte) : Except (Option Nat) (FFlags × List Byte × State) :=
  let pa := t.pa + off
  let cached := (mget (s.slice (s.homeOf 0 pa)).lines (pa / 64)).isSome
  match if t.line = pa / 64 + 1 && !cached then some s else s.moveLines (usesOf pa 4 (fun _ => .port)) with
  | none => .error none
  | some s =>
    match s.landing t.ctx pa 4 true true with
    | .held cl => .error (some cl)
    | .lost cl e c va => .ok (0, natToBytes 4 0, s.entryFail cl e (c, va) 3)
    | .at a =>
      let (out, f) := addElement s a bs
      .ok (f, memRead s.mem a 4, s.homeStore a out)

/-- Engine data whose destination has no target any more is not written, and its job has a record (03 R61) (DESIGN CHOICE,
log 90). -/
def State.copyLost (s : State) (job access va : Nat) : State :=
  match mget s.jobs job with
  | none => s
  | some j => s.recordJob job j causeNoTarget access va j.pos

/-- A drain tile has been applied: its elements have landed, or the peer that sent it is answered with the old values. -/
def State.endTile (s : State) (id : Nat) (t : AddTile) : State :=
  let s := { s with addTiles := mdel s.addTiles id }
  match t.peer with
  | some (link, tag) => s.post (.peerAnswer link tag true t.olds)
  | none => s.landed t.job t.piece t.count

/-- A drain tile goes on to a peer's memory port as one request (07 R122) (DESIGN CHOICE, log 51). -/
def State.askTile (s : State) (id : Nat) (t : AddTile) : State :=
  let (rid, s) := s.askLink (s.partOfCtx t.ctx) t.pa (4 * t.parts.length) (.tile id)
  let adds := t.parts.map (fun x => (x.1, bytesToNat x.2))
  { s with
    peerReqs := mupd s.peerReqs rid (fun r => { r with adds := adds }), addTiles := mset s.addTiles id { t with away := true } }

/-- A drain tile at its home: its next element is updated, in turn, once all its packets are there and no other drain tile
is under way in its page; the last one ends it (07 R122, R123). -/
def State.stepTile (s : State) (id : Nat) (t : AddTile) : State :=
  if t.packets ≠ 0 || t.away || s.thingHeld (.addend id) || (!t.started && s.pageLocked t.pa) then s
  else if s.noTarget t.pa then (s.copyLost t.job 2 t.va).endTile id t
  else match region t.pa with
  | .peer _ => s.askTile id t
  | _ =>
    match t.parts with
    | [] => s.endTile id t
    | (off, bs) :: rest =>
      match s.applyAdd t off bs with
      | .error none => s
      | .error (some cl) => s.holdThing cl t.ctx (.addend id)
      | .ok (f, old, s) =>
        let s := s.jobFlags t.job f
        let t := { t with parts := rest, started := true, line := (t.pa + off) / 64 + 1, olds := t.olds ++ old }
        if rest.isEmpty then s.endTile id t else { s with addTiles := mset s.addTiles id t }

/-- The flags of addends that a peer's memory port has added to what stood there (07 R122). -/
def HostReq.addFlags (r : HostReq) (b : List Byte) : FFlags :=
  ((rangeFrom 0 r.adds.length).zip r.adds).foldl (fun f e =>
    f ||| (planeAdd (BitVec.ofNat 32 (bytesToNat ((b.drop (4 * e.1)).take 4))) (BitVec.ofNat 32 e.2.2)).2) 0

/-- A peer has answered for a drain tile. -/
def State.tileAnswered (s : State) (id : Nat) (r : HostReq) (ok : Bool) (b : List Byte) : State :=
  match mget s.addTiles id with
  | none => s
  | some t => (if ok then s.jobFlags t.job (r.addFlags b) else s).endTile id t

/-- The writes that engine data makes of a host or of a peer's home, one for each part. -/
def State.askParts (s : State) (id part : Nat) (w : CopyWrite) : State :=
  w.parts.foldl (fun s x =>
    let (rid, s) := s.askLink part (w.pa + x.1) x.2.length (.packet id)
    let fill (r : HostReq) : HostReq := { r with write := true, data := x.2 }
    { s with hostReqs := mupd s.hostReqs rid fill, peerReqs := mupd s.peerReqs rid fill }) s

/-- Engine data performs at its destination. -/
def State.arriveCopy (s : State) (id : Nat) (p : Packet) (w : CopyWrite) : Arrival :=
  let done (s : State) : Arrival := .done (((s.dropPacket id).jobFlags w.job w.flags).landed w.job w.piece w.count)
  match w.cell with
  | some c =>
    let t := ((mget s.jobs w.job).map Job.owner).getD
      { ctx := p.ctx, cl := siteNumber p.dst, wgslot := 64, wgx := 64, row := 0, wnum := 0, stage := 0, launch := 0 }
    match s.landCell t c ((w.parts.map Prod.snd).headD []) w.flags with
    | none => .heldAt (siteNumber p.dst) s
    | some s => .done ((s.dropPacket id).landed w.job w.piece w.count)
  | none =>
    if s.noTarget w.pa then done (s.copyLost w.job (if w.add then 2 else 1) w.va)
    else match region w.pa with
      | .peer _ =>
        if w.add then .done ((s.dropPacket id).collectAdd p.ctx w)
        else .done (if s.onLink id then s else s.askParts id p.part w)
      | .host _ =>
        if w.pw then done (w.parts.foldl (fun s x => s.hostStore p.part (siteNumber p.dst) (w.pa + x.1) x.2) s)
        else .done (if s.onLink id then s else s.askParts id p.part w)
      | .vault cl =>
        if w.add then .done ((s.dropPacket id).collectAdd p.ctx w)
        else match s.vaultStore p.ctx w.pa (fun pa s => s.putParts pa w.parts) w.span with
          | none => .heldAt cl s
          | some s => done s
      | _ =>
        if w.add then .done ((s.dropPacket id).collectAdd p.ctx w)
        else match s.moveLines w.uses with
          | none => .done s
          | some s => done (s.putParts w.pa w.parts)

/-- Multicast data reaches a destination cluster's ingress (20 R305). -/
def State.arriveMulticast (s : State) (id : Nat) (p : Packet) (job piece first off : Nat) (parts : List (Nat × List Byte)) :
    Arrival :=
  let cl := siteNumber p.dst
  let pa := vaultBase + cl * vaultBytes + off
  let n := parts.foldl (fun m x => max m (x.1 + x.2.length)) 0
  if s.holdsSlot cl p.ctx || (s.vaultEntry cl p.ctx off).isSome then
    match s.vaultStore p.ctx pa (fun pa s => s.putParts pa parts) n with
    | none => .heldAt cl s
    | some s => .done ((s.dropPacket id).landed job piece parts.length)
  else .done (((s.dropPacket id).refuseDest job cl ((s.vaultVa cl p.ctx + off) % 2 ^ 64) first).landed job piece parts.length)

/-! ### Arrivals in general -/

/-- Reads and writes of registers that a firmware access makes: what stands there, and what a write leaves. They are
supplied by the register file of the control space. -/
def State.arriveLateral (ctl : State → Access → Nat × State) (s : State) (id : Nat) (a : Access) : Arrival :=
  if a.kind = .semRel then s.arriveAdd a (fun s => (s.dropLateral id).opStep a.op)
  else if a.performed then s.landAccess a (fun s => s.dropLateral id)
  else
    let out : Option (Nat × State) :=
      match region a.pa with
      | .vault _ => s.vaultAccess a
      | .control => some (ctl s a)
      | _ => some (s.performAt a.pa a)
    if s.lockedOut a then .done s
    else match out with
    | none => .heldAt ((a.pa - vaultBase) / vaultBytes) s
    | some (r, s) =>
      let a := { a with performed := true, result := r }
      { s with laterals := mset s.laterals id a }.landAccess a (fun s => s.dropLateral id)

/-- An answer or engine data in a packet reaches its destination. -/
def State.arrivePacket (s : State) (id : Nat) (p : Packet) : Arrival :=
  match p.body with
  | .access a =>
    if a.kind = .semRel then
      if p.answer then .done ((s.dropPacket id).opStep a.op)
      else s.arriveAdd a (fun s => s.answerWith id p 0xA 1 (.access { a with performed := true }))
    else s.landAccess a (fun s => s.dropPacket id)
  | .mail op t d _ _ code => s.arriveMail id op t d code
  | .copy w => s.arriveCopy id p w
  | .multicast job piece first off parts => s.arriveMulticast id p job piece first off parts
  | .lod r => s.arriveReport id r
  | .element job n bs => .done ((s.dropPacket id).elementCame job n bs)

/-! ### Answers and packets at their destination -/

/-- A packet that has arrived and is held nowhere lands. -/
def State.land (s : State) (kind : Nat) (answer : Bool) : State :=
  match s.arrivedAs kind answer with
  | none => s
  | some (id, p) => if s.isHeld id then s else (s.arrivePacket id p).state id

/-- READ_RESPONSE at the cluster. -/
def execReadResponse (s : State) : Host.Outcome State Fault Refusal := .next (s.land 1 true)

/-- ACKNOWLEDGEMENT: an acknowledgement, an atomic's result, or a mailbox's acceptance. -/
def execAcknowledgement (s : State) : Host.Outcome State Fault Refusal := .next (s.land 4 true)

/-- MAILBOX_REFUSAL. -/
def execMailboxRefusal (s : State) : Host.Outcome State Fault Refusal := .next (s.land 8 true)

/-- SEMAPHORE_ADD_ANSWER. -/
def execSemaphoreAddAnswer (s : State) : Host.Outcome State Fault Refusal := .next (s.land 0xA true)

/-- LOD_FEEDBACK_ANSWER. -/
def execLodFeedbackAnswer (s : State) : Host.Outcome State Fault Refusal := .next (s.land 9 true)

/-- COPY_DATA at its destination: requests of one source to one home keep their order; or the next element of the drain tile
that State.subj names there. -/
def execCopyData (s : State) : Host.Outcome State Fault Refusal :=
  match mget s.addTiles s.subj.a with
  | some t => .next (s.stepTile s.subj.a t)
  | none =>
    match s.arrivedAs 6 false with
    | none => .next s
    | some (id, p) => if s.queuedBehind id p then .next s else .next (s.land 6 false)

/-- MULTICAST_COPY_DATA at a destination cluster. -/
def execMulticastCopyData (s : State) : Host.Outcome State Fault Refusal := .next (s.land 7 false)

/-- A wave's add to its own cluster's file comes after those it made before, but for one that the ingress holds (16 R369). -/
def State.addBehind (s : State) (id : Nat) (a : Access) : Bool :=
  s.laterals.any (fun x => decide (x.1 < id) && x.2.kind == .semRel && x.2.tag == a.tag && !s.isHeld x.1)

/-- SEMAPHORE_ADD: a relayed add at its cluster, in order of arrival, or an add of the own cluster whose point has been
reached. -/
def execSemaphoreAdd (s : State) : Host.Outcome State Fault Refusal :=
  let id := s.subj.a
  match mget s.laterals id with
  | some a =>
    if a.kind ≠ .semRel || s.isHeld id || a.after.any s.isPending || s.addBehind id a then .next s
    else .next ((s.arriveAdd a (fun s => (s.dropLateral id).opStep a.op)).state id)
  | none =>
    match s.arrivedAs 0xA false with
    | none => .next s
    | some (id, p) =>
      if s.arrivedBefore id p.arrivedAt (fun q => q.kind == 0xA && !q.answer && q.dst == p.dst) then .next s
      else .next (s.land 0xA false)

/-- MAILBOX_PACKET at its slice (05 R93). -/
def execMailboxPacket (s : State) : Host.Outcome State Fault Refusal :=
  match s.arrivedAs 5 false with
  | none => .next s
  | some (id, p) =>
    match p.body with
    | .mail op t d mbox bytes _ =>
      if s.arrivedBefore id p.arrivedAt (fun q => q.kind == 5 && !q.answer && q.dst == p.dst) then .next s
      else
        let n := siteNumber p.dst
        let x := s.slice n
        let answer (kind code : Nat) (s : State) : Host.Outcome State Fault Refusal :=
          .next (s.answerWith id p kind 1 (.mail op t d mbox [] code))
        match (mget x.mboxes mbox).filter (fun m => m.ctx == p.ctx && !x.failed) with
        | none => answer 8 2 s
        | some m =>
          if 16 ≤ m.packets.length then answer 8 1 s
          else
            let vcByte := bytesToNat ((bytes.drop 7).take 1)
            let bytes := bytes.take 7 ++ natToBytes 1 (vcByte / 16 * 16 + p.vc * 4 + vcByte % 4) ++ bytes.drop 8
            answer 4 0 (s.setSlice n { x with mboxes := mset x.mboxes mbox { m with packets := m.packets ++ [bytes] } })
    | _ => .next s

/-! ### LOD feedback at its homes (04 R73 to R77) -/

/-- Answers a report at the slice a packet stands at. -/
def State.answerReport (s : State) (id : Nat) (p : Packet) (r : LodReport) (dropped : Bool) : State :=
  let s := s.answerWith id p 9 1 (.lod { r with dropped := dropped })
  { s with packets := mupd s.packets id (fun p => { p with dst := r.origin }) }

/-- The header of an Eddy ring: ENTRIES, LOG2N, PRODUCE, CONSUME, OVERFLOW. -/
structure EddyHeader where
  entries : Nat
  log2n : Nat
  produce : Nat
  consume : Nat
  overflow : Nat
  deriving DecidableEq, Repr

/-- The header that 64 bytes hold; none where it is malformed. -/
def eddyHeader (b : List Byte) : Option EddyHeader :=
  let w (i : Nat) : Nat := bytesToNat ((b.drop (8 * i)).take 8)
  if tbit (w 0) 5 || w 0 % 32 < 4 || 24 < w 0 % 32 || 2 ^ 32 ≤ w 1 || 2 ^ 32 ≤ w 2 || 2 ^ 32 ≤ w 3 ||
      bytesToNat (b.drop 32) ≠ 0 then none
  else some { entries := w 0 / 64 * 64, log2n := w 0 % 32, produce := w 1, consume := w 2, overflow := w 3 }

/-- Where a ring's header lies and the caching class of its page, or the cause (DEDUCED, log 42). A table entry that is not
64-byte aligned counts as a malformed header (DESIGN CHOICE, log 91). -/
def State.eddyAt (s : State) (cl ctx va : Nat) : Except Nat (Nat × Nat) :=
  if va % 64 ≠ 0 then .error causeLodDescriptor
  else match s.translate cl ctx va .write with
    | .error c => .error c
    | .ok (pa, attr) => if sliceHomed pa then .ok (pa, attrCa attr) else .error causeLodDescriptor

/-- Where an entry of a ring lies, in device memory, and the caching class of its page, or the cause. -/
def State.eddyEntry (s : State) (cl ctx va : Nat) : Except Nat (Nat × Nat) :=
  match s.translate cl ctx va .write with
  | .error c => .error c
  | .ok (pa, attr) =>
    match region pa with
    | .hbm _ | .safe _ | .cxl _ | .vault _ => .ok (pa, attrCa attr)
    | _ => .error causeLodDescriptor

/-- The virtual address of the header of a report's ring; 0 where the table has none. -/
def State.eddyVa (s : State) (r : LodReport) : Nat := ((s.ctxOf r.tag.ctx).eddy.getD r.ring 0).toNat

/-- Two keys name the same page of a resource (04 R73). -/
def LodKey.same (k l : LodKey) : Bool :=
  k.ctx == l.ctx && k.resource == l.resource && k.level == l.level && k.px == l.px && k.py == l.py

/-- LOD_FEEDBACK_REPORT at the home of the map word: the filter, then on to the ring's home. -/
def execLodFeedbackReport (s : State) : Host.Outcome State Fault Refusal :=
  match s.arrivedAs 9 false with
  | none => .next s
  | some (id, p) =>
    match p.body with
    | .lod r =>
      if r.filtered then .next s
      else
        let n := siteNumber p.dst
        let x := s.slice n
        let key : LodKey := { ctx := r.tag.ctx, resource := r.resource, level := r.level, px := r.px, py := r.py, word := r.word }
        if x.lod.any key.same then .next (s.answerReport id p r false)
        else
          let kept := if 256 ≤ x.lod.length then x.lod.drop 1 else x.lod
          let s := s.setSlice n { x with lod := kept ++ [key] }
          let va := s.eddyVa r
          if va = 0 then .next (s.answerReport id p r true)
          else
            match s.eddyAt r.tag.cl r.tag.ctx va with
            -- IADDR of the record: (DESIGN CHOICE, log 104)
            | .error c => .next ((s.hwFault r.tag.cl r.tag.ctx c va 3 0 0).answerReport id p r true)
            | .ok (pa, _) =>
              let (m, s) := s.newId
              let q : Packet :=
                { p with src := p.dst, dst := sliceSite (s.homeOf p.part pa), side := false, vc := 0, loc := .agent
                         stamp := m, body := .lod { r with filtered := true } }
              .next { s with packets := mset s.packets id q }
    | _ => .next s

/-- The 16 bytes of an Eddy ring entry (04 R75). -/
def LodReport.entry (r : LodReport) (seq : Nat) : List Byte :=
  natToBytes 4 r.resource ++ natToBytes 2 r.px ++ natToBytes 2 r.py ++ natToBytes 1 (r.level % 16) ++
    natToBytes 1 r.delivered ++ natToBytes 1 r.tag.cl ++ natToBytes 1 0 ++ natToBytes 4 seq

/-- What becomes of an append: done, the report dropped or not; or the ingress of a cluster holds the entry. -/
inductive Append where
  | done (dropped : Bool) (s : State)
  | held (cl : Nat)

/-- Appends a report to its ring (04 R76, R77; 08 R135). A poisoned header is a fault record of DATA_ERROR with ACCESS 0 (DESIGN
CHOICE, log 91). The records name no instruction: IADDR is 0 (DESIGN CHOICE, log 104). -/
def State.eddyAppend (s : State) (r : LodReport) : Append :=
  let cl := r.tag.cl
  let ctx := r.tag.ctx
  let va := s.eddyVa r
  match if va = 0 then .error 0 else s.eddyAt cl ctx va with
  | .error c => .done true (if va = 0 then s else s.hwFault cl ctx c va 3 0 0)
  | .ok (pa, ca) =>
    if s.poisoned pa 64 then .done true (s.hwFault cl ctx causeDataError va 0 0 0)
    else
      let s := s.charge (usesOf pa 64 (fun _ => .write ca false))
      match eddyHeader (memRead s.mem pa 64) with
      | none => .done true (s.hwFault cl ctx causeLodDescriptor va 3 0 0)
      | some h =>
        if 2 ^ h.log2n ≤ (h.produce + 2 ^ 32 - h.consume) % 2 ^ 32 then
          .done true (s.homeStore (pa + 24) (natToBytes 4 (min (h.overflow + 1) (2 ^ 32 - 1))))
        else
          let eva := (h.entries + h.produce % 2 ^ h.log2n * 16) % 2 ^ 64
          match s.eddyEntry cl ctx eva with
          | .error c => .done true (s.hwFault cl ctx c eva 3 0 0)
          | .ok (epa, eca) =>
            match s.vaultStore ctx epa (fun a s => (s.chargeWrite epa 16 eca).homeStore a (r.entry h.produce)) 16 with
            | none => .held ((epa - vaultBase) / vaultBytes)
            | some s => .done false (s.homeStore (pa + 8) (natToBytes 4 ((h.produce + 1) % 2 ^ 32)))

/-- A report is appended and answered, or held. -/
def State.appendReport (s : State) (id : Nat) (p : Packet) (r : LodReport) : State :=
  if s.thingHeld (.request id) then s
  else match s.eddyAppend r with
    | .held cl => s.holdThing cl p.ctx (.request id)
    | .done dropped s => s.answerReport id p r dropped

/-- EDDY_APPEND at the home of the ring's header. -/
def execEddyAppend (s : State) : Host.Outcome State Fault Refusal :=
  match s.arrivedAs 9 false with
  | none => .next s
  | some (id, p) =>
    match p.body with
    | .lod r =>
      let before (q : Packet) : Bool :=
        q.kind == 9 && !q.answer && q.dst == p.dst &&
          match q.body with
          | .lod r => r.filtered
          | _ => false
      if !r.filtered || s.arrivedBefore id p.arrivedAt before then .next s else .next (s.appendReport id p r)
    | _ => .next s

/-- A request that an ingress held for an access it makes to a vault goes on at its home. -/
def State.goOn (s : State) (id : Nat) : State :=
  match mget s.packets id with
  | none => s
  | some p =>
    match p.body with
    | .access a => s.atHome id p a
    | .lod r => s.appendReport id p r
    | _ => s

/-- KEY_AGE_OUT: the key that State.subj names (slice, place in the filter) ages out. -/
def execKeyAgeOut (s : State) : Host.Outcome State Fault Refusal :=
  let x := s.slice s.subj.a
  .next (if s.subj.b < x.lod.length then s.setSlice s.subj.a { x with lod := x.lod.eraseIdx s.subj.b } else s)

/-- TRAVERSAL_RESULT: the request that State.subj names reads its node, and its result lands; or, where b is not 0, it reads word
b - 1 of its node. -/
def execTraversalResult (s : State) : Host.Outcome State Fault Refusal :=
  let id := s.subj.a
  match mget s.traversals id with
  | none => .next s
  | some t => if s.isHeld id then .next s else .next ((s.arriveTraversal id t (if s.subj.b = 0 then none else some (s.subj.b - 1))).state id)

end Sys2Proof.Machine
end

