-- ==== Sys2Proof/Machine/Scalar.lean ====
section
/-!
DEFINITION. The scalar instructions (14 R240 to R244).
-/
namespace Sys2Proof.Machine

/-- SMOV. -/
def execSmov (h : Hints) (d a : SReg) (s : State) : Host.Outcome State Fault Refusal :=
  run h 0 8 s fun s => do
    let (x, s) ← readS s a
    writeS s d x

/-- SMOVI, 96-bit form: the immediate sign-extended (14 R241). -/
def execSmovi (h : Hints) (d : SReg) (imm : Word) (s : State) : Host.Outcome State Fault Refusal :=
  run h 0 12 s fun s => writeS s d (sext imm)

/-- SMOVI, 128-bit form: the immediate whole. -/
def execSmovi128 (h : Hints) (d : SReg) (imm : DWord) (s : State) : Host.Outcome State Fault Refusal :=
  run h 0 16 s fun s => writeS s d imm

/-- Bits [127:64] of the exact product (14 R240). -/
def mulHigh (n : Bool) (x y : DWord) : DWord := BitVec.ofInt 64 ((scalarVal n x * scalarVal n y) / 2 ^ 64)

/-- SDIV (14 R242). -/
def divOp (n : Bool) (x y : DWord) : DWord :=
  if y = 0 then BitVec.allOnes 64 else BitVec.ofInt 64 ((scalarVal n x).tdiv (scalarVal n y))

/-- SREM (14 R242). -/
def remOp (n : Bool) (x y : DWord) : DWord :=
  if y = 0 then x else BitVec.ofInt 64 ((scalarVal n x).tmod (scalarVal n y))

/-- The shifts: a count of 64 or more shifts everything out (14 R243). -/
def shlOp (x y : DWord) : DWord := if y.toNat < 64 then x <<< y.toNat else 0
def shrOp (x y : DWord) : DWord := if y.toNat < 64 then x >>> y.toNat else 0
def sarOp (x y : DWord) : DWord := x.sshiftRight (min y.toNat 64)

/-- SMIN and SMAX. -/
def minOp (n : Bool) (x y : DWord) : DWord := if scalarVal n x ≤ scalarVal n y then x else y
def maxOp (n : Bool) (x y : DWord) : DWord := if scalarVal n x ≤ scalarVal n y then y else x

/-- SCMP. -/
def cmpOp (n : Bool) (p : IntPred) (x y : DWord) : DWord := if intPred p (scalarVal n x) (scalarVal n y) then 1 else 0

/-- SADD (14 R240). -/
def execSadd (h : Hints) (d a b : SReg) (s : State) : Host.Outcome State Fault Refusal :=
  scalarOp h 8 d a (.reg b) (· + ·) s

def execSadd96 (h : Hints) (d a : SReg) (imm : Word) (s : State) : Host.Outcome State Fault Refusal :=
  scalarOp h 12 d a (.imm imm) (· + ·) s

/-- SSUB (14 R240). -/
def execSsub (h : Hints) (d a b : SReg) (s : State) : Host.Outcome State Fault Refusal :=
  scalarOp h 8 d a (.reg b) (· - ·) s

def execSsub96 (h : Hints) (d a : SReg) (imm : Word) (s : State) : Host.Outcome State Fault Refusal :=
  scalarOp h 12 d a (.imm imm) (· - ·) s

/-- SMUL (14 R240). -/
def execSmul (h : Hints) (d a b : SReg) (s : State) : Host.Outcome State Fault Refusal :=
  scalarOp h 8 d a (.reg b) (· * ·) s

def execSmul96 (h : Hints) (d a : SReg) (imm : Word) (s : State) : Host.Outcome State Fault Refusal :=
  scalarOp h 12 d a (.imm imm) (· * ·) s

/-- SMULH (14 R240). -/
def execSmulh (h : Hints) (n : Bool) (d a b : SReg) (s : State) : Host.Outcome State Fault Refusal :=
  scalarOp h 8 d a (.reg b) (mulHigh n) s

def execSmulh96 (h : Hints) (n : Bool) (d a : SReg) (imm : Word) (s : State) : Host.Outcome State Fault Refusal :=
  scalarOp h 12 d a (.imm imm) (mulHigh n) s

/-- SDIV (14 R240). -/
def execSdiv (h : Hints) (n : Bool) (d a b : SReg) (s : State) : Host.Outcome State Fault Refusal :=
  scalarOp h 8 d a (.reg b) (divOp n) s

def execSdiv96 (h : Hints) (n : Bool) (d a : SReg) (imm : Word) (s : State) : Host.Outcome State Fault Refusal :=
  scalarOp h 12 d a (.imm imm) (divOp n) s

/-- SREM (14 R240). -/
def execSrem (h : Hints) (n : Bool) (d a b : SReg) (s : State) : Host.Outcome State Fault Refusal :=
  scalarOp h 8 d a (.reg b) (remOp n) s

def execSrem96 (h : Hints) (n : Bool) (d a : SReg) (imm : Word) (s : State) : Host.Outcome State Fault Refusal :=
  scalarOp h 12 d a (.imm imm) (remOp n) s

/-- SAND (14 R240). -/
def execSand (h : Hints) (d a b : SReg) (s : State) : Host.Outcome State Fault Refusal :=
  scalarOp h 8 d a (.reg b) (· &&& ·) s

def execSand96 (h : Hints) (d a : SReg) (imm : Word) (s : State) : Host.Outcome State Fault Refusal :=
  scalarOp h 12 d a (.imm imm) (· &&& ·) s

/-- SOR (14 R240). -/
def execSor (h : Hints) (d a b : SReg) (s : State) : Host.Outcome State Fault Refusal :=
  scalarOp h 8 d a (.reg b) (· ||| ·) s

def execSor96 (h : Hints) (d a : SReg) (imm : Word) (s : State) : Host.Outcome State Fault Refusal :=
  scalarOp h 12 d a (.imm imm) (· ||| ·) s

/-- SXOR (14 R240). -/
def execSxor (h : Hints) (d a b : SReg) (s : State) : Host.Outcome State Fault Refusal :=
  scalarOp h 8 d a (.reg b) (· ^^^ ·) s

def execSxor96 (h : Hints) (d a : SReg) (imm : Word) (s : State) : Host.Outcome State Fault Refusal :=
  scalarOp h 12 d a (.imm imm) (· ^^^ ·) s

/-- SSHL (14 R240). -/
def execSshl (h : Hints) (d a b : SReg) (s : State) : Host.Outcome State Fault Refusal :=
  scalarOp h 8 d a (.reg b) shlOp s

def execSshl96 (h : Hints) (d a : SReg) (imm : Word) (s : State) : Host.Outcome State Fault Refusal :=
  scalarOp h 12 d a (.imm imm) shlOp s

/-- SSHR (14 R240). -/
def execSshr (h : Hints) (d a b : SReg) (s : State) : Host.Outcome State Fault Refusal :=
  scalarOp h 8 d a (.reg b) shrOp s

def execSshr96 (h : Hints) (d a : SReg) (imm : Word) (s : State) : Host.Outcome State Fault Refusal :=
  scalarOp h 12 d a (.imm imm) shrOp s

/-- SSAR (14 R240). -/
def execSsar (h : Hints) (d a b : SReg) (s : State) : Host.Outcome State Fault Refusal :=
  scalarOp h 8 d a (.reg b) sarOp s

def execSsar96 (h : Hints) (d a : SReg) (imm : Word) (s : State) : Host.Outcome State Fault Refusal :=
  scalarOp h 12 d a (.imm imm) sarOp s

/-- SMIN (14 R240). -/
def execSmin (h : Hints) (n : Bool) (d a b : SReg) (s : State) : Host.Outcome State Fault Refusal :=
  scalarOp h 8 d a (.reg b) (minOp n) s

def execSmin96 (h : Hints) (n : Bool) (d a : SReg) (imm : Word) (s : State) : Host.Outcome State Fault Refusal :=
  scalarOp h 12 d a (.imm imm) (minOp n) s

/-- SMAX (14 R240). -/
def execSmax (h : Hints) (n : Bool) (d a b : SReg) (s : State) : Host.Outcome State Fault Refusal :=
  scalarOp h 8 d a (.reg b) (maxOp n) s

def execSmax96 (h : Hints) (n : Bool) (d a : SReg) (imm : Word) (s : State) : Host.Outcome State Fault Refusal :=
  scalarOp h 12 d a (.imm imm) (maxOp n) s

/-- SCMP (14 R240). -/
def execScmp (h : Hints) (n : Bool) (p : IntPred) (d a b : SReg) (s : State) : Host.Outcome State Fault Refusal :=
  scalarOp h 8 d a (.reg b) (cmpOp n p) s

def execScmp96 (h : Hints) (n : Bool) (p : IntPred) (d a : SReg) (imm : Word) (s : State) : Host.Outcome State Fault Refusal :=
  scalarOp h 12 d a (.imm imm) (cmpOp n p) s

/-- SSEL reads all three operands (14 R244). -/
def execSsel (h : Hints) (d a b c : SReg) (s : State) : Host.Outcome State Fault Refusal :=
  run h 0 8 s fun s => do
    let (x, s) ← readS s a
    let (y, s) ← readS s b
    let (z, s) ← readS s c
    writeS s d (if z ≠ 0 then x else y)

/-- Number of 1 bits among the lowest n bits. -/
def popCount (x : Nat) : Nat → Nat
  | 0 => 0
  | n + 1 => popCount x n + (if tbit x n then 1 else 0)

/-- Leading zero bits of a number of n bits. -/
def leadingZeros (x : Nat) : Nat → Nat
  | 0 => 0
  | n + 1 => if tbit x n then 0 else leadingZeros x n + 1

/-- SPOPC. -/
def execSpopc (h : Hints) (d a : SReg) (s : State) : Host.Outcome State Fault Refusal :=
  run h 0 8 s fun s => do
    let (x, s) ← readS s a
    writeS s d (BitVec.ofNat 64 (popCount x.toNat 64))

/-- SCLZ. -/
def execSclz (h : Hints) (d a : SReg) (s : State) : Host.Outcome State Fault Refusal :=
  run h 0 8 s fun s => do
    let (x, s) ← readS s a
    writeS s d (BitVec.ofNat 64 (leadingZeros x.toNat 64))

end Sys2Proof.Machine
end

