-- ==== Sys2Proof/Machine/MaskOps.lean ====
section
/-!
DEFINITION. The lane-mask instructions (14 R245, R246).
-/
namespace Sys2Proof.Machine

/-- A mask instruction of two masks. -/
def maskOp (h : Hints) (d a b : KReg) (f : Mask → Mask → Mask) (s : State) : Host.Outcome State Fault Refusal :=
  run h 0 8 s fun s => do
    let x ← readK s a
    let y ← readK s b
    writeK s d (f x y)

/-- KAND. -/
def execKand (h : Hints) (d a b : KReg) (s : State) : Host.Outcome State Fault Refusal := maskOp h d a b (· &&& ·) s
/-- KOR. -/
def execKor (h : Hints) (d a b : KReg) (s : State) : Host.Outcome State Fault Refusal := maskOp h d a b (· ||| ·) s
/-- KXOR. -/
def execKxor (h : Hints) (d a b : KReg) (s : State) : Host.Outcome State Fault Refusal := maskOp h d a b (· ^^^ ·) s
/-- KANDN. -/
def execKandn (h : Hints) (d a b : KReg) (s : State) : Host.Outcome State Fault Refusal :=
  maskOp h d a b (fun x y => x &&& ~~~y) s

/-- KNOT. -/
def execKnot (h : Hints) (d a : KReg) (s : State) : Host.Outcome State Fault Refusal :=
  run h 0 8 s fun s => do
    let x ← readK s a
    writeK s d (~~~x)

/-- KMOV. -/
def execKmov (h : Hints) (d a : KReg) (s : State) : Host.Outcome State Fault Refusal :=
  run h 0 8 s fun s => do
    let x ← readK s a
    writeK s d x

/-- A mask instruction with a scalar result. -/
def maskToScalar (h : Hints) (d : SReg) (a : KReg) (f : Mask → DWord) (s : State) :
    Host.Outcome State Fault Refusal :=
  run h 0 8 s fun s => do
    let x ← readK s a
    writeS s d (f x)

/-- KPOPC. -/
def execKpopc (h : Hints) (d : SReg) (a : KReg) (s : State) : Host.Outcome State Fault Refusal :=
  maskToScalar h d a (fun m => BitVec.ofNat 64 (popCount m.toNat 128)) s

/-- The lowest set lane of a mask; G when there is none. -/
def firstLane (m : Mask) : Nat := (firstBelow (fun i => m.getLsbD i) 128 0).getD gWidth

/-- KFIRST. -/
def execKfirst (h : Hints) (d : SReg) (a : KReg) (s : State) : Host.Outcome State Fault Refusal :=
  maskToScalar h d a (fun m => BitVec.ofNat 64 (firstLane m)) s

/-- KRANK writes every lane (14 R246). -/
def execKrank (h : Hints) (d : VReg) (a : KReg) (s : State) : Host.Outcome State Fault Refusal :=
  run h 0 8 s fun s => do
    let m ← readK s a
    writeV s d.toNat (fun l => some (BitVec.ofNat 32 (popCount m.toNat l)))

/-- KTOS: word 0 or 1 of the mask. -/
def execKtos (h : Hints) (d : SReg) (a : KReg) (hi : Bool) (s : State) : Host.Outcome State Fault Refusal :=
  maskToScalar h d a (fun m => m.extractLsb' (if hi then 64 else 0) 64) s

/-- KFROMS: the other word of the mask keeps its value. -/
def execKfroms (h : Hints) (d : KReg) (a : SReg) (hi : Bool) (s : State) : Host.Outcome State Fault Refusal :=
  run h 0 8 s fun s => do
    let (x, s) ← readS s a
    let m ← readK s d
    let m' : Mask := if hi then x ++ m.extractLsb' 0 64 else m.extractLsb' 64 64 ++ x
    writeK s d m'

/-- KCMPS: each lane number against the scalar. -/
def execKcmps (h : Hints) (n : Bool) (p : IntPred) (d : KReg) (a : SReg) (s : State) :
    Host.Outcome State Fault Refusal :=
  run h 0 8 s fun s => do
    let (x, s) ← readS s a
    writeK s d (maskOf (fun l => intPred p (l : Int) (scalarVal n x)))

end Sys2Proof.Machine
end

