-- ==== Sys2Proof/Machine/VectorInt.lean ====
section
/-!
DEFINITION. The vector integer instructions (15 R250 to R255).
-/
namespace Sys2Proof.Machine

/-- VMOV. -/
def moveOp (h : Hints) (len : Nat) (k : KReg) (wide : Bool) (d : VReg) (a : Second VReg) (s : State) :
    Host.Outcome State Fault Refusal :=
  run h 1 len s fun s => do
    let act ← active s k
    let x ← readV2 s wide act a
    writeVW s wide d.toNat (onActive act x)

def execVmov (h : Hints) (k : KReg) (wide : Bool) (d a : VReg) (s : State) : Host.Outcome State Fault Refusal :=
  moveOp h 8 k wide d (.reg a) s

def execVmov96 (h : Hints) (k : KReg) (wide : Bool) (d : VReg) (imm : Word) (s : State) :
    Host.Outcome State Fault Refusal :=
  moveOp h 12 k wide d (.imm imm) s

/-- VMOVS: the scalar in every active lane. -/
def execVmovs (h : Hints) (k : KReg) (wide : Bool) (d : VReg) (a : SReg) (s : State) :
    Host.Outcome State Fault Refusal :=
  run h 1 8 s fun s => do
    let act ← active s k
    let (x, s) ← readS s a
    writeVW s wide d.toNat (onActive act (fun _ => x.toNat))

/-- An instruction that computes an exact number from two and narrows it (15 R251). -/
def typedOp (h : Hints) (floor len : Nat) (k : KReg) (ty : VType) (sat : Bool) (d a : VReg) (b : Second VReg)
    (f : Int → Int → Int) (s : State) : Host.Outcome State Fault Refusal :=
  vectorOp h floor len k ty.is64 d a b (fun x y => typeResult ty sat (f (typeVal ty x) (typeVal ty y))) s

/-- The high half of a product (15 R251). -/
def highOp (ty : VType) (x y : Int) : Int := x * y / 2 ^ typeWidth ty

/-- VADD (15 R251). -/
def execVadd (h : Hints) (k : KReg) (ty : VType) (sat : Bool) (d a b : VReg) (s : State) :
    Host.Outcome State Fault Refusal :=
  typedOp h 1 8 k ty sat d a (.reg b) (· + ·) s

def execVadd96 (h : Hints) (k : KReg) (ty : VType) (sat : Bool) (d a : VReg) (imm : Word) (s : State) :
    Host.Outcome State Fault Refusal :=
  typedOp h 1 12 k ty sat d a (.imm imm) (· + ·) s

/-- VSUB (15 R251). -/
def execVsub (h : Hints) (k : KReg) (ty : VType) (sat : Bool) (d a b : VReg) (s : State) :
    Host.Outcome State Fault Refusal :=
  typedOp h 1 8 k ty sat d a (.reg b) (· - ·) s

def execVsub96 (h : Hints) (k : KReg) (ty : VType) (sat : Bool) (d a : VReg) (imm : Word) (s : State) :
    Host.Outcome State Fault Refusal :=
  typedOp h 1 12 k ty sat d a (.imm imm) (· - ·) s

/-- VMUL (15 R251). -/
def execVmul (h : Hints) (k : KReg) (ty : VType) (sat : Bool) (d a b : VReg) (s : State) :
    Host.Outcome State Fault Refusal :=
  typedOp h 2 8 k ty sat d a (.reg b) (· * ·) s

def execVmul96 (h : Hints) (k : KReg) (ty : VType) (sat : Bool) (d a : VReg) (imm : Word) (s : State) :
    Host.Outcome State Fault Refusal :=
  typedOp h 2 12 k ty sat d a (.imm imm) (· * ·) s

/-- VMULH (15 R251). -/
def execVmulh (h : Hints) (k : KReg) (ty : VType) (d a b : VReg) (s : State) :
    Host.Outcome State Fault Refusal :=
  typedOp h 2 8 k ty false d a (.reg b) (highOp ty) s

def execVmulh96 (h : Hints) (k : KReg) (ty : VType) (d a : VReg) (imm : Word) (s : State) :
    Host.Outcome State Fault Refusal :=
  typedOp h 2 12 k ty false d a (.imm imm) (highOp ty) s

/-- VMIN (15 R251). -/
def execVmin (h : Hints) (k : KReg) (ty : VType) (d a b : VReg) (s : State) :
    Host.Outcome State Fault Refusal :=
  typedOp h 1 8 k ty false d a (.reg b) min s

def execVmin96 (h : Hints) (k : KReg) (ty : VType) (d a : VReg) (imm : Word) (s : State) :
    Host.Outcome State Fault Refusal :=
  typedOp h 1 12 k ty false d a (.imm imm) min s

/-- VMAX (15 R251). -/
def execVmax (h : Hints) (k : KReg) (ty : VType) (d a b : VReg) (s : State) :
    Host.Outcome State Fault Refusal :=
  typedOp h 1 8 k ty false d a (.reg b) max s

def execVmax96 (h : Hints) (k : KReg) (ty : VType) (d a : VReg) (imm : Word) (s : State) :
    Host.Outcome State Fault Refusal :=
  typedOp h 1 12 k ty false d a (.imm imm) max s

/-- VMAD: one exact result (15 R251). -/
def execVmad (h : Hints) (k : KReg) (ty : VType) (sat : Bool) (d a b c : VReg) (s : State) :
    Host.Outcome State Fault Refusal :=
  run h 2 8 s fun s => do
    let act ← active s k
    let x ← readVW s ty.is64 a.toNat act
    let y ← readVW s ty.is64 b.toNat act
    let z ← readVW s ty.is64 c.toNat act
    writeVW s ty.is64 d.toNat (onActive act (fun l =>
      typeResult ty sat (typeVal ty (x l) * typeVal ty (y l) + typeVal ty (z l))))

/-- VAND (15 R251). -/
def execVand (h : Hints) (k : KReg) (wide : Bool) (d a b : VReg) (s : State) : Host.Outcome State Fault Refusal :=
  vectorOp h 1 8 k wide d a (.reg b) Nat.land s

def execVand96 (h : Hints) (k : KReg) (wide : Bool) (d a : VReg) (imm : Word) (s : State) :
    Host.Outcome State Fault Refusal :=
  vectorOp h 1 12 k wide d a (.imm imm) Nat.land s

/-- VOR (15 R251). -/
def execVor (h : Hints) (k : KReg) (wide : Bool) (d a b : VReg) (s : State) : Host.Outcome State Fault Refusal :=
  vectorOp h 1 8 k wide d a (.reg b) Nat.lor s

def execVor96 (h : Hints) (k : KReg) (wide : Bool) (d a : VReg) (imm : Word) (s : State) :
    Host.Outcome State Fault Refusal :=
  vectorOp h 1 12 k wide d a (.imm imm) Nat.lor s

/-- VXOR (15 R251). -/
def execVxor (h : Hints) (k : KReg) (wide : Bool) (d a b : VReg) (s : State) : Host.Outcome State Fault Refusal :=
  vectorOp h 1 8 k wide d a (.reg b) Nat.xor s

def execVxor96 (h : Hints) (k : KReg) (wide : Bool) (d a : VReg) (imm : Word) (s : State) :
    Host.Outcome State Fault Refusal :=
  vectorOp h 1 12 k wide d a (.imm imm) Nat.xor s

/-- The shifts of w-bit patterns; a count of w or more shifts everything out (15 R252). -/
def laneShl (w x n : Nat) : Nat := if n < w then x * 2 ^ n % 2 ^ w else 0
def laneShr (w x n : Nat) : Nat := if n < w then x / 2 ^ n else 0
def laneSar (w x n : Nat) : Nat := ((signedOf w x / 2 ^ (min n w)) % 2 ^ w).toNat

/-- A shift: a register count is a single 32-bit register under every type (15 R252). -/
def shiftOp (h : Hints) (len : Nat) (k : KReg) (wide : Bool) (d a : VReg) (b : Second VReg)
    (f : Nat → Nat → Nat → Nat) (s : State) : Host.Outcome State Fault Refusal :=
  run h 1 len s fun s => do
    let act ← active s k
    let x ← readVW s wide a.toNat act
    let n ← match b with
      | .reg r => readVW s false r.toNat act
      | .imm i => pure (fun _ => immBits wide i)
    writeVW s wide d.toNat (onActive act (fun l => f (if wide then 64 else 32) (x l) (n l)))

/-- VSHL (15 R252). -/
def execVshl (h : Hints) (k : KReg) (wide : Bool) (d a b : VReg) (s : State) : Host.Outcome State Fault Refusal :=
  shiftOp h 8 k wide d a (.reg b) laneShl s

def execVshl96 (h : Hints) (k : KReg) (wide : Bool) (d a : VReg) (imm : Word) (s : State) :
    Host.Outcome State Fault Refusal :=
  shiftOp h 12 k wide d a (.imm imm) laneShl s

/-- VSHR (15 R252). -/
def execVshr (h : Hints) (k : KReg) (ty : VType) (d a b : VReg) (s : State) : Host.Outcome State Fault Refusal :=
  shiftOp h 8 k ty.is64 d a (.reg b) laneShr s

def execVshr96 (h : Hints) (k : KReg) (ty : VType) (d a : VReg) (imm : Word) (s : State) :
    Host.Outcome State Fault Refusal :=
  shiftOp h 12 k ty.is64 d a (.imm imm) laneShr s

/-- VSAR (15 R252). -/
def execVsar (h : Hints) (k : KReg) (ty : VType) (d a b : VReg) (s : State) : Host.Outcome State Fault Refusal :=
  shiftOp h 8 k ty.is64 d a (.reg b) laneSar s

def execVsar96 (h : Hints) (k : KReg) (ty : VType) (d a : VReg) (imm : Word) (s : State) :
    Host.Outcome State Fault Refusal :=
  shiftOp h 12 k ty.is64 d a (.imm imm) laneSar s

/-- VCMP (15 R254). -/
def execVcmp (h : Hints) (k : KReg) (ty : VType) (p : IntPred) (d : KReg) (a b : VReg) (s : State) :
    Host.Outcome State Fault Refusal :=
  vectorCmp h 1 8 k ty.is64 d a (.reg b) (fun x y => intPred p (typeVal ty x) (typeVal ty y)) s

def execVcmp96 (h : Hints) (k : KReg) (ty : VType) (p : IntPred) (d : KReg) (a : VReg) (imm : Word) (s : State) :
    Host.Outcome State Fault Refusal :=
  vectorCmp h 1 12 k ty.is64 d a (.imm imm) (fun x y => intPred p (typeVal ty x) (typeVal ty y)) s

/-- VSEL (15 R254). -/
def execVsel (h : Hints) (k : KReg) (wide : Bool) (d a b : VReg) (c : KReg) (s : State) :
    Host.Outcome State Fault Refusal :=
  run h 1 8 s fun s => do
    let act ← active s k
    let x ← readVW s wide a.toNat act
    let y ← readVW s wide b.toNat act
    let m ← readK s c
    writeVW s wide d.toNat (onActive act (fun l => if m.getLsbD l then x l else y l))

/-- A vector instruction of one operand. -/
def unaryOp (h : Hints) (k : KReg) (wide : Bool) (d a : VReg) (f : Nat → Nat) (s : State) :
    Host.Outcome State Fault Refusal :=
  run h 1 8 s fun s => do
    let act ← active s k
    let x ← readVW s wide a.toNat act
    writeVW s wide d.toNat (onActive act (fun l => f (x l)))

/-- VCLZ (15 R252). -/
def execVclz (h : Hints) (k : KReg) (wide : Bool) (d a : VReg) (s : State) : Host.Outcome State Fault Refusal :=
  unaryOp h k wide d a (fun x => leadingZeros x (if wide then 64 else 32)) s

/-- VPOPC (15 R252). -/
def execVpopc (h : Hints) (k : KReg) (wide : Bool) (d a : VReg) (s : State) : Host.Outcome State Fault Refusal :=
  unaryOp h k wide d a (fun x => popCount x (if wide then 64 else 32)) s

/-- The carry out of VADDC (15 R253). -/
def carryOut (ty : VType) (x y cin : Nat) : Bool :=
  if ty.signed then
    let z := typeVal ty x + typeVal ty y + cin
    decide (z < typeMin ty) || decide (typeMax ty < z)
  else decide (2 ^ typeWidth ty ≤ x + y + cin)

/-- VADDC: active lanes add with and leave a carry in kC (15 R253). -/
def execVaddc (h : Hints) (k : KReg) (ty : VType) (d a b : VReg) (c : KReg) (s : State) :
    Host.Outcome State Fault Refusal :=
  run h 1 8 s fun s => do
    let act ← active s k
    let x ← readVW s ty.is64 a.toNat act
    let y ← readVW s ty.is64 b.toNat act
    let m ← readK s c
    let cin (l : Nat) : Nat := if m.getLsbD l then 1 else 0
    let s ← writeVW s ty.is64 d.toNat (onActive act (fun l => (x l + y l + cin l) % 2 ^ typeWidth ty))
    writeK s c (maskOf (fun l => if act l then carryOut ty (x l) (y l) (cin l) else m.getLsbD l))

end Sys2Proof.Machine
end

