-- ==== Sys2Proof/Machine/VectorFloat.lean ====
section
/-!
DEFINITION. The vector floating-point instructions (15 R256 to R263).
-/
namespace Sys2Proof.Machine

/-- Reads a vector second operand of .f32. -/
def readF2 (s : State) (act : Nat → Bool) : Second VReg → Attempt (Nat → Word)
  | .reg r => readV s r.toNat act
  | .imm x => .ok (fun _ => x)

/-- Writes the active lanes' results and raises their flags (15 R247, R249). -/
def writeF (s : State) (act : Nat → Bool) (d : VReg) (f : Nat → Word × FFlags) : Attempt State := do
  let s ← writeV s d.toNat (onActive act (fun l => (f l).1))
  pure (s.raiseLanes (fun l => if act l then (f l).2 else 0))

/-- A floating-point instruction of two operands. -/
def floatOp (h : Hints) (floor len : Nat) (k : KReg) (d a : VReg) (b : Second VReg)
    (f : Word → Word → Word × FFlags) (s : State) : Host.Outcome State Fault Refusal :=
  run h floor len s fun s => do
    let act ← active s k
    let x ← readV s a.toNat act
    let y ← readF2 s act b
    writeF s act d (fun l => f (x l) (y l))

/-- A floating-point instruction of one operand. -/
def floatUnary (h : Hints) (floor : Nat) (k : KReg) (d a : VReg) (f : Word → Word × FFlags) (s : State) :
    Host.Outcome State Fault Refusal :=
  run h floor 8 s fun s => do
    let act ← active s k
    let x ← readV s a.toNat act
    writeF s act d (fun l => f (x l))

/-- FADD (15 R257). -/
def execFadd (h : Hints) (k : KReg) (rm : Rnd) (d a b : VReg) (s : State) : Host.Outcome State Fault Refusal :=
  floatOp h 3 8 k d a (.reg b) (f32add rm) s

def execFadd96 (h : Hints) (k : KReg) (rm : Rnd) (d a : VReg) (imm : Word) (s : State) :
    Host.Outcome State Fault Refusal :=
  floatOp h 3 12 k d a (.imm imm) (f32add rm) s

/-- FSUB (15 R257). -/
def execFsub (h : Hints) (k : KReg) (rm : Rnd) (d a b : VReg) (s : State) : Host.Outcome State Fault Refusal :=
  floatOp h 3 8 k d a (.reg b) (f32sub rm) s

def execFsub96 (h : Hints) (k : KReg) (rm : Rnd) (d a : VReg) (imm : Word) (s : State) :
    Host.Outcome State Fault Refusal :=
  floatOp h 3 12 k d a (.imm imm) (f32sub rm) s

/-- FMUL (15 R257). -/
def execFmul (h : Hints) (k : KReg) (rm : Rnd) (d a b : VReg) (s : State) : Host.Outcome State Fault Refusal :=
  floatOp h 3 8 k d a (.reg b) (f32mul rm) s

def execFmul96 (h : Hints) (k : KReg) (rm : Rnd) (d a : VReg) (imm : Word) (s : State) :
    Host.Outcome State Fault Refusal :=
  floatOp h 3 12 k d a (.imm imm) (f32mul rm) s

/-- FMIN (15 R258). -/
def execFmin (h : Hints) (k : KReg) (d a b : VReg) (s : State) : Host.Outcome State Fault Refusal :=
  floatOp h 3 8 k d a (.reg b) (f32minmax false) s

def execFmin96 (h : Hints) (k : KReg) (d a : VReg) (imm : Word) (s : State) :
    Host.Outcome State Fault Refusal :=
  floatOp h 3 12 k d a (.imm imm) (f32minmax false) s

/-- FMAX (15 R258). -/
def execFmax (h : Hints) (k : KReg) (d a b : VReg) (s : State) : Host.Outcome State Fault Refusal :=
  floatOp h 3 8 k d a (.reg b) (f32minmax true) s

def execFmax96 (h : Hints) (k : KReg) (d a : VReg) (imm : Word) (s : State) :
    Host.Outcome State Fault Refusal :=
  floatOp h 3 12 k d a (.imm imm) (f32minmax true) s

/-- FFMA rounds once (15 R257). -/
def execFfma (h : Hints) (k : KReg) (rm : Rnd) (d a b c : VReg) (s : State) : Host.Outcome State Fault Refusal :=
  run h 3 8 s fun s => do
    let act ← active s k
    let x ← readV s a.toNat act
    let y ← readV s b.toNat act
    let z ← readV s c.toNat act
    writeF s act d (fun l => f32fma rm (x l) (y l) (z l))

/-- FCMP (15 R259). -/
def floatCmp (h : Hints) (len : Nat) (k : KReg) (p : FloatPred) (d : KReg) (a : VReg) (b : Second VReg) (s : State) :
    Host.Outcome State Fault Refusal :=
  run h 3 len s fun s => do
    let act ← active s k
    let x ← readV s a.toNat act
    let y ← readF2 s act b
    let s ← writeK s d (maskOf (fun l => act l && (f32cmp p (x l) (y l)).1))
    pure (s.raiseLanes (fun l => if act l then (f32cmp p (x l) (y l)).2 else 0))

def execFcmp (h : Hints) (k : KReg) (p : FloatPred) (d : KReg) (a b : VReg) (s : State) :
    Host.Outcome State Fault Refusal :=
  floatCmp h 8 k p d a (.reg b) s

def execFcmp96 (h : Hints) (k : KReg) (p : FloatPred) (d : KReg) (a : VReg) (imm : Word) (s : State) :
    Host.Outcome State Fault Refusal :=
  floatCmp h 12 k p d a (.imm imm) s

/-- FDIV (15 R257). -/
def execFdiv (h : Hints) (k : KReg) (rm : Rnd) (d a b : VReg) (s : State) : Host.Outcome State Fault Refusal :=
  floatOp h 4 8 k d a (.reg b) (f32div rm) s

/-- FSQRT (15 R257). -/
def execFsqrt (h : Hints) (k : KReg) (rm : Rnd) (d a : VReg) (s : State) : Host.Outcome State Fault Refusal :=
  floatUnary h 4 k d a (f32sqrt rm) s

/-- FRCP (15 R260). -/
def execFrcp (h : Hints) (k : KReg) (d a : VReg) (s : State) : Host.Outcome State Fault Refusal :=
  floatUnary h 4 k d a f32rcp s

/-- FRSQ (15 R260). -/
def execFrsq (h : Hints) (k : KReg) (d a : VReg) (s : State) : Host.Outcome State Fault Refusal :=
  floatUnary h 4 k d a f32rsq s

/-- FEXP2 (15 R260). -/
def execFexp2 (h : Hints) (k : KReg) (d a : VReg) (s : State) : Host.Outcome State Fault Refusal :=
  floatUnary h 4 k d a f32exp2 s

/-- FLOG2 (15 R260). -/
def execFlog2 (h : Hints) (k : KReg) (d a : VReg) (s : State) : Host.Outcome State Fault Refusal :=
  floatUnary h 4 k d a f32log2 s

/-- FCVT (15 R261). -/
def execFcvt (h : Hints) (k : KReg) (sat : Bool) (rm : Rnd) (dt st : Conv) (d a : VReg) (s : State) :
    Host.Outcome State Fault Refusal :=
  floatUnary h 2 k d a (f32cvt dt st rm sat) s

/-- FCLASS (15 R262). -/
def execFclass (h : Hints) (k : KReg) (d a : VReg) (s : State) : Host.Outcome State Fault Refusal :=
  floatUnary h 2 k d a (fun x => (f32class x, 0)) s

/-- FRND (15 R262). -/
def execFrnd (h : Hints) (k : KReg) (rm : Rnd) (d a : VReg) (s : State) : Host.Outcome State Fault Refusal :=
  floatUnary h 2 k d a (f32rnd rm) s

end Sys2Proof.Machine
end

