-- ==== Sys2Proof/Machine/CrossLane.lean ====
section
/-!
DEFINITION. The cross-lane instructions and REORDER (15 R264 to R270).
-/
namespace Sys2Proof.Machine

/-- Lane j of a register as a source; zero from lane G up (15 R264). -/
def srcLane (v : Nat → Nat) (j : Nat) : Nat := if j < gWidth then v j else 0

/-- A lane selection of VSHUF (15 R266). -/
def shuffleLane (sel : LaneSel) (i x : Nat) : Nat :=
  match sel with
  | .lidx => x
  | .lrot => (i + x) % gWidth
  | .lxor => Nat.xor i x % gWidth

/-- VSHUF. -/
def execVshuf (h : Hints) (k : KReg) (wide : Bool) (sel : LaneSel) (d a b : VReg) (s : State) :
    Host.Outcome State Fault Refusal :=
  run h 2 8 s fun s => do
    let act ← active s k
    let j ← readVW s false b.toNat act
    let from' := (activeList act).map (fun l => shuffleLane sel l (j l))
    let x ← readVW s wide a.toNat from'.contains
    writeVW s wide d.toNat (onActive act (fun l => srcLane x (shuffleLane sel l (j l))))

/-- VROT. -/
def execVrot (h : Hints) (k : KReg) (wide : Bool) (d a : VReg) (b : SReg) (s : State) :
    Host.Outcome State Fault Refusal :=
  run h 2 8 s fun s => do
    let act ← active s k
    let (n, s) ← readS s b
    let from' := (activeList act).map (fun l => (l + n.toNat) % gWidth)
    let x ← readVW s wide a.toNat from'.contains
    writeVW s wide d.toNat (onActive act (fun l => srcLane x ((l + n.toNat) % gWidth)))

/-- VBCAST. -/
def execVbcast (h : Hints) (k : KReg) (wide : Bool) (d a : VReg) (b : SReg) (s : State) :
    Host.Outcome State Fault Refusal :=
  run h 2 8 s fun s => do
    let act ← active s k
    let (n, s) ← readS s b
    let x ← readVW s wide a.toNat (fun l => l == n.toNat && !(activeList act).isEmpty)
    writeVW s wide d.toNat (onActive act (fun _ => srcLane x n.toNat))

/-- The integer type of a reduction; .f32 has none and is not asked. -/
def redInt : RedType → VType
  | .i32 => .i32
  | .n32 => .n32
  | .i64 => .i64
  | .n64 => .n64
  | .f32 => .n32

/-- A floating-point result as a pattern with flags. -/
def wordNat (x : Word × FFlags) : Nat × FFlags := (x.1.toNat, x.2)

/-- Fold of an accumulator and a value (15 R267). -/
def foldVal (ty : RedType) (op : RedOp) (rm : Rnd) (acc x : Nat) : Nat × FFlags :=
  let t := redInt ty
  let a := BitVec.ofNat 32 acc
  let b := BitVec.ofNat 32 x
  match op with
  | .add => (typeResult t false (typeVal t acc + typeVal t x), 0)
  | .and => (Nat.land acc x, 0)
  | .or => (Nat.lor acc x, 0)
  | .xor => (Nat.xor acc x, 0)
  | .fadd => wordNat (f32add rm a b)
  | .min =>
    if ty = .f32 then wordNat (f32minmax false a b)
    else (if typeVal t acc ≤ typeVal t x then acc else x, 0)
  | .max =>
    if ty = .f32 then wordNat (f32minmax true a b)
    else (if typeVal t acc ≤ typeVal t x then x else acc, 0)

/-- First of 15 R267. -/
def firstVal (ty : RedType) (x : Nat) : Nat × FFlags :=
  if ty = .f32 then
    match f32val (BitVec.ofNat 32 x) with
    | .nan sg => (nanF32.toNat, if sg then flNV else 0)
    | _ => (x, 0)
  else (x, 0)

/-- The fold over lanes i, i + 1, …, n of them: for each active lane the accumulator after it and its flags. A head
begins anew. -/
def foldLanes (ty : RedType) (op : RedOp) (rm : Rnd) (act head : Nat → Bool) (v : Nat → Nat) :
    Nat → Nat → Option Nat → List (Nat × Nat × FFlags)
  | 0, _, _ => []
  | n + 1, i, acc =>
    let acc := if head i then none else acc
    if act i then
      let r := match acc with
        | none => firstVal ty (v i)
        | some a => foldVal ty op rm a (v i)
      (i, r) :: foldLanes ty op rm act head v n (i + 1) (some r.1)
    else foldLanes ty op rm act head v n (i + 1) acc

/-- The entry of a lane in a fold. -/
def foldAt (l : List (Nat × Nat × FFlags)) (i : Nat) : Option (Nat × FFlags) :=
  (l.find? (fun e => e.1 == i)).map Prod.snd

/-- The flags of a fold's lanes. -/
def foldFlags (l : List (Nat × Nat × FFlags)) (i : Nat) : FFlags := ((foldAt l i).map Prod.snd).getD 0

/-- VSCAN. -/
def execVscan (h : Hints) (k : KReg) (ty : RedType) (op : RedOp) (rm : Rnd) (d a : VReg) (s : State) :
    Host.Outcome State Fault Refusal :=
  run h 2 8 s fun s => do
    let act ← active s k
    let x ← readVW s ty.is64 a.toNat act
    let l := foldLanes ty op rm act (fun _ => false) x gWidth 0 none
    let s ← writeVW s ty.is64 d.toNat (fun i => (foldAt l i).map Prod.fst)
    pure (s.raiseLanes (foldFlags l))

/-- The identity VRED writes when no lane is active (15 R267). -/
def redIdentity (ty : RedType) : RedOp → Nat
  | .add | .or | .xor | .fadd => 0
  | .and => 2 ^ typeWidth (redInt ty) - 1
  | .min => if ty = .f32 then infF32.toNat else typeResult (redInt ty) false (typeMax (redInt ty))
  | .max => if ty = .f32 then infF32.toNat + 2 ^ 31 else typeResult (redInt ty) false (typeMin (redInt ty))

/-- Extend of 15 R267. -/
def redExtend (ty : RedType) (x : Nat) : DWord :=
  if ty = .i32 then (BitVec.ofNat 32 x).signExtend 64 else BitVec.ofNat 64 x

/-- VRED. -/
def execVred (h : Hints) (k : KReg) (ty : RedType) (op : RedOp) (rm : Rnd) (d : SReg) (a : VReg) (s : State) :
    Host.Outcome State Fault Refusal :=
  run h 2 8 s fun s => do
    let act ← active s k
    let x ← readVW s ty.is64 a.toNat act
    let l := foldLanes ty op rm act (fun _ => false) x gWidth 0 none
    let r := match l.getLast? with
      | some e => e.2.1
      | none => redIdentity ty op
    let s ← writeS s d (redExtend ty r)
    pure (s.raiseLanes (foldFlags l))

/-- The head of a lane's segment: the greatest head at or below it; lane 0 always begins one (15 R267). -/
def segHead (head : Nat → Bool) : Nat → Nat
  | 0 => 0
  | i + 1 => if head (i + 1) then i + 1 else segHead head i

/-- VSEGRED. -/
def execVsegred (h : Hints) (k : KReg) (ty : RedType) (op : RedOp) (rm : Rnd) (d a : VReg) (b : KReg) (s : State) :
    Host.Outcome State Fault Refusal :=
  run h 2 8 s fun s => do
    let act ← active s k
    let x ← readVW s ty.is64 a.toNat act
    let m ← readK s b
    let head (i : Nat) : Bool := m.getLsbD i
    let l := foldLanes ty op rm act head x gWidth 0 none
    let last (i : Nat) : Option Nat :=
      ((l.filter (fun e => segHead head e.1 == segHead head i)).getLast?).map (fun e => e.2.1)
    let s ← writeVW s ty.is64 d.toNat (fun i => if act i then last i else none)
    pure (s.raiseLanes (foldFlags l))

/-- VCOMP (15 R268). -/
def execVcomp (h : Hints) (k : KReg) (wide : Bool) (d a : VReg) (s : State) : Host.Outcome State Fault Refusal :=
  run h 2 8 s fun s => do
    let act ← active s k
    let x ← readVW s wide a.toNat act
    let l := activeList act
    writeVW s wide d.toNat (fun i => (l[i]?).map x)

/-! ### Waves that complete together -/

/-- A value read as another wave of the cluster. -/
def readAs {α : Type} (s : State) (row : Nat) (f : State → Attempt α) : Attempt α := f (s.asRow row)

/-- A change made as another wave of the cluster. -/
def writeAs (s : State) (row : Nat) (f : State → Attempt State) : Attempt State := do
  let t ← f (s.asRow row)
  pure { t with cur := s.cur }

/-- Another wave completes the instruction with which it arrived (10 R176, 15 R270). -/
def State.completeAs (s : State) (row : Nat) (h : Hints) (len : Nat) : State :=
  let t := s.asRow row
  { t.issueDone h t.w.phase (some ((t.w.pc + len) % 2 ^ 64)) with cur := s.cur }

/-- A trap taken by every one of some rows. -/
def State.trapRows (s : State) (cl : Nat) (rows : List Nat) (cause : Nat) : State :=
  rows.foldl (fun s row =>
    match s.waveAt? cl row with
    | some w =>
      s.takeTrap cl row { cause := cause, iaddr := w.pc, resume := w.pc, progress := if cause = 0x13 then 0 else w.rows.toNat }
    | none => s) s

/-- GANG_MISMATCH of every arrived member: the other rows trap too. -/
def gangMismatch {α : Type} (s : State) (others : List Nat) : Attempt α :=
  let pc := s.w.pc
  .error (.trap (fun o =>
      let k := o.cluster o.cur.1
      let o := o.setCluster o.cur.1 { k with latch := k.latch.filter (fun r => !(others.contains r) && r ≠ o.cur.2) }
      o.trapRows o.cur.1 others 0x13)
    { cause := 0x13, iaddr := pc, resume := pc })

/-- The row of a wave of the workgroup, by its number. -/
def State.rowOf (s : State) (n : Nat) : Option Nat := s.wg.rows[n]?

/-- The wave numbers set in a list of members. -/
def membersOf (m : Nat) : List Nat := (rangeFrom 0 16).filter (tbit m)

/-! ### REORDER (15 R269, R270) -/

/-- A record on its way through the crossbar: its key and the values of the listed registers. -/
structure CrossRec where
  key : Nat
  vals : List Nat

/-- What a wave's attempt is held for, if anything: whether it would trap is left open. -/
def holdsOf {α : Type} : Attempt α → Attempt Unit
  | .error (.held why note) => .error (.held why note)
  | .error (.trap _ _) | .ok _ => .ok ()

/-- The key and the listed registers of a wave in its active lanes. -/
def crossValues (s : State) (k : KReg) (a : Nat) (wide : Bool) (regs : List VReg) :
    Attempt ((Nat → Bool) × (Nat → Word) × List (Nat → Nat)) := do
  let act ← active s k
  let key ← readV s a act
  let vals ← regs.mapM (fun r => readVW s wide r.toNat act)
  pure (act, key, vals)

/-- The positions and records one member contributes. A member whose spilled register cannot be read takes that fault itself,
and the others wait for it to come again (DEDUCED, log 35). -/
def memberRecords (s : State) (arrive : State → State) (row : Nat) (k a : Nat) (wide : Bool) (regs : List VReg) :
    Attempt (List ((Nat × Nat) × CrossRec)) :=
  match readAs s row (fun s => crossValues s (BitVec.ofNat 4 k) a wide regs) with
  | .ok (act, key, vals) =>
    .ok ((activeList act).map (fun l => ((row, l), { key := (key l).toNat % 65536, vals := vals.map (fun v => v l) })))
  | .error (.held why note) => holdWith why (fun o => { note (o.asRow row) with cur := o.cur })
  | .error (.trap note r) =>
    if row = s.cur.2 then .error (.trap note r) else holdWith .sync (fun o => arrive (({ note (o.asRow row) with cur := o.cur }).takeTrap o.cur.1 row r))

/-- Writes sorted records to the positions of one member: register number j of the list. -/
def placeRecords (s : State) (row : Nat) (wide : Bool) (placed : List ((Nat × Nat) × CrossRec)) :
    List (Nat × VReg) → Attempt State
  | [] => .ok s
  | (j, r) :: t => do
    let s ← writeAs s row fun s =>
      writeVW s wide r.toNat (fun l =>
        ((placed.find? (fun p => p.1 == (row, l))).map (fun p => p.2.vals.getD j 0)))
    placeRecords s row wide placed t

/-- Units of the instruction with which the other members arrived. -/
def arrivalUnits (s : State) (rows : List Nat) (floor : Nat) : Nat :=
  rows.foldl (fun acc row =>
    match (s.waveAt? s.cur.1 row).bind Wave.arrived with
    | some i => acc + ({ floor := floor } : Cost).unit i.hints
    | none => acc) 0

/-- The REORDER with which another wave has arrived: hints, mask, width, key register and registers. -/
def reorderOf (s : State) (row : Nat) : Option (Hints × KReg × Bool × VReg × List VReg) :=
  match s.waveAt? s.cur.1 row with
  | none => none
  | some w =>
    match w.arrived with
    | some (.reorder h k wide a _ regs) => some (h, k, wide, a, regs)
    | _ => none

/-- The members other than the executing wave that a REORDER's list names, as rows. -/
def reorderOthers (s : State) (list : Nat) : List Nat :=
  ((membersOf list).filter (fun n => n ≠ s.w.wnum)).filterMap s.rowOf

/-- The rows that have arrived with a wave which now arrives, by a list that names it and that is complete, though it is not
the wave's own list: its last arrival finds that the members differ (15 R270). -/
def otherCrossing (s : State) (list : Nat) (lists : SMap Nat) : List Nat :=
  let complete (l : Nat) : Bool := (membersOf l).all (fun n =>
    n == s.w.wnum || (s.rowOf n).any (fun r => (mget lists r).isSome))
  let hit := lists.filter (fun e => e.1 ≠ s.cur.2 && e.2 ≠ list && tbit e.2 s.w.wnum && complete e.2)
  (hit.flatMap (fun e => (membersOf e.2).filterMap s.rowOf)).eraseDups.filter (fun r => r ≠ s.cur.2)

/-- REORDER. -/
def execReorder (h : Hints) (k : KReg) (wide : Bool) (a : VReg) (b : SReg) (regs : List VReg) (s : State) :
    Host.Outcome State Fault Refusal :=
  let cost (s : State) : Cost :=
    let list := ((s.peekS s.w s.cur.1 b).getD 0).toNat % 65536
    { floor := 4, extra := arrivalUnits s (reorderOthers s list) 4 }
  runWith h cost 16 true s fun s0 => do
    let (lv, s) ← readS s0 b
    let list := lv.toNat % 65536
    let me := s.w
    if !tbit list me.wnum || (membersOf list).any (fun n => (s.rowOf n).isNone || s.wg.exited.contains n) then
      gangMismatch s []
    else do
      let arrive (o : State) : State := o.updW (fun w => { w with arrived := some (.reorder h k wide a b regs) })
      holdsOf (crossValues s0 k a.toNat wide regs)
      let lists ← crossLists s0 [(s0.cur.2, b)] s0.cur.1 me.wgslot
      let strays := otherCrossing s list lists
      let others := reorderOthers s list
      let arrived := others.filterMap (fun row => (reorderOf s row).map (fun m => (row, m)))
      if !strays.isEmpty then gangMismatch s strays
      else if arrived.length < others.length then
        holdWith .sync arrive
      else if arrived.any (fun m => m.2.2.2.1 ≠ wide || m.2.2.2.2.1 ≠ a || mget lists m.1 ≠ some list ||
            m.2.2.2.2.2 ≠ regs) ||
          others.any (fun row => ((s.waveAt? s.cur.1 row).map Wave.stage) ≠ some me.stage) then
        gangMismatch s others
      else do
        let rows := (membersOf list).filterMap s.rowOf
        let maskOfRow (row : Nat) : Nat :=
          if row = s.cur.2 then k.toNat else ((reorderOf s row).map (fun m => m.2.1.toNat)).getD 0
        let parts ← rows.mapM (fun row => memberRecords s arrive row (maskOfRow row) a.toNat wide regs)
        let all := parts.flatten
        let sorted := sortBy (fun r => r.key) (all.map Prod.snd)
        let placed := (all.map Prod.fst).zip sorted
        let numbered := (rangeFrom 0 regs.length).zip regs
        let s ← rows.foldlM (fun s row => placeRecords s row wide placed numbered) s
        -- the other members pop the queue their list came from, and complete
        others.foldlM (fun s row => do
          let s ← writeAs s row (fun s =>
            match s.w.arrived with
            | some (.reorder _ _ _ _ b' _) => do
              let (_, s) ← readS s b'
              pure s
            | _ => .ok s)
          match reorderOf s row with
          | some m => pure (s.completeAs row m.1 16)
          | none => pure s) s

end Sys2Proof.Machine
end

