-- ==== Sys2Proof/Machine/Tiles.lean ====
section
/-!
DEFINITION. Tile allocation, tile fills and read-outs, shape records, copies and gathers at issue (16 R292, R293; 20 R299
to R307).
-/
namespace Sys2Proof.Machine

/-! ### TALLOC and TFREE -/

/-- Tile numbers that workgroups of a context away from the cluster keep reserved (08 R140). -/
def Cluster.reservedTiles (k : Cluster) (ctx : Nat) : List Nat :=
  k.away.flatMap (fun a => if a.2.wg.ctx == ctx then a.2.tileNums else [])

/-- The slot number of a context on a cluster. -/
def Cluster.slotOf (k : Cluster) (ctx : Nat) : Nat := ((k.slots.find? (fun x => x.2.ctx == ctx)).map Prod.fst).getD 0

/-- TALLOC of n granules at a byte offset of the workgroup's range. -/
def tileAlloc (s : State) (d : SReg) (off n : Nat) : Attempt State :=
  if off % 4096 ≠ 0 then unitTrap s causeMisaligned
  else if n < 1 || 256 < n || s.vlen < off + n * 4096 then tileTrap s
  else
    let k := s.cluster s.cur.1
    let kept := k.reservedTiles s.w.ctx
    match firstBelow (fun i => (mget k.tiles i).isNone && !kept.contains i) 256 0 with
    | none => writeS s d (BitVec.allOnes 64)
    | some i => do
      let t : Tile :=
        { size := n, base := s.wg.vaultLo + off / 4096, owner := s.w.wgslot, ctx := s.w.ctx
          cslot := k.slotOf s.w.ctx, pend := 0, state := .ready }
      writeS (s.setCluster s.cur.1 { k with tiles := mset k.tiles i t }) d (BitVec.ofNat 64 i)

def execTalloc (h : Hints) (d a b : SReg) (s : State) : Host.Outcome State Fault Refusal :=
  run h 1 8 s fun s => do
    let (x, s) ← readS s a
    let (n, s) ← readS s b
    tileAlloc s d x.toNat n.toNat

def execTalloc96 (h : Hints) (d a : SReg) (imm : Word) (s : State) : Host.Outcome State Fault Refusal :=
  run h 1 12 s fun s => do
    let (x, s) ← readS s a
    tileAlloc s d x.toNat imm.toNat

/-- TFREE. -/
def execTfree (h : Hints) (a : SReg) (s : State) : Host.Outcome State Fault Refusal :=
  run h 1 8 s fun s => do
    let (x, s) ← readS s a
    let _ ← tileNeed s x.toNat
    let k := s.cluster s.cur.1
    pure (s.setCluster s.cur.1 { k with tiles := mdel k.tiles x.toNat })

/-! ### TLD and TST -/

/-- A job record with what every kind of job starts with. -/
def newJob (s : State) (kind : JobKind) (code : Nat) (sem : Option (BitVec 6)) (total : Nat) : Job :=
  { kind := kind, code := code, tags := [s.tag], iaddr := s.w.pc, sem := sem.map BitVec.toNat
    total := total, pieces := [] }

/-- TLD and TST (16 R293). -/
def tileMove (h : Hints) (fill : Bool) (o : Order) (sc : Scope) (a b c : SReg) (off : Word) (sem : Option (BitVec 6))
    (s : State) : Host.Outcome State Fault Refusal :=
  run h 1 16 s fun s => do
    let (tn, s) ← readS s a
    let (mem, s) ← readS s b
    let (len, s) ← readS s c
    let t ← tileNeed s tn.toNat
    let n := len.toNat
    if n = 0 || n % 64 ≠ 0 || off.toNat % 64 ≠ 0 || t.bytes < off.toNat + n then tileTrap s
    else if mem.toNat % 64 ≠ 0 then memTrap s causeMisaligned (if fill then .read else .write) mem.toNat 0
    else do
      jobRoom s
      let tile := (s.tileBase s.cur.1 t + off.toNat) % 2 ^ 64
      let m := (mem.toNat, mem.toNat + n)
      let v := (tile, tile + n)
      let j := newJob s (if fill then .line mem.toNat tile (n / 64) true else .line tile mem.toNat (n / 64) false) 0 sem
        (n / 64)
      let j := if fill then { j with fill := some tn.toNat, reads := [m], writes := [v] }
        else { j with readOut := some tn.toNat, reads := [v], writes := [m] }
      pure (s.issueJob o sc [s.tag] j)

def execTld (h : Hints) (o : Order) (sc : Scope) (a b c : SReg) (off : Word) (sem : Option (BitVec 6)) (s : State) :
    Host.Outcome State Fault Refusal :=
  tileMove h true o sc a b c off sem s

def execTst (h : Hints) (o : Order) (sc : Scope) (a b c : SReg) (off : Word) (sem : Option (BitVec 6)) (s : State) :
    Host.Outcome State Fault Refusal :=
  tileMove h false o sc a b c off sem s

/-! ### Shape records (20 R301, R302) -/

/-- A shape record as its fields. -/
structure Shape where
  e : Extent
  lod : Bool
  valid : Bool
  level : Nat
  x0 : Nat
  y0 : Nat
  statusA : Nat
  deriving DecidableEq, Repr

/-- The fields that 64 bytes hold. -/
def shapeOf (b : List Byte) : Shape :=
  let w (i : Nat) : Nat := bytesToNat ((b.drop (8 * i)).take 8)
  let sg (x : Nat) : Int := signedOf 32 x
  { e := { esz := 2 ^ bits (w 0) 10 9, n0 := bits (w 0) 31 16 + 1, n1 := bits (w 0) 47 32 + 1
           n2 := bits (w 0) 63 48 + 1, s1 := sg (bits (w 1) 31 0), s2 := sg (bits (w 1) 63 32)
           d1 := sg (bits (w 2) 31 0), d2 := sg (bits (w 2) 63 32) }
    lod := tbit (w 0) 8, valid := tbit (w 0) 0, level := bits (w 3) 35 32, x0 := bits (w 3) 15 0
    y0 := bits (w 3) 31 16, statusA := w 4 }

/-- The lowest failing status of a record, or 0 (20 R302). -/
def shapeStatus (b : List Byte) : Nat :=
  let w (i : Nat) : Nat := bytesToNat ((b.drop (8 * i)).take 8)
  let r := shapeOf b
  let e := r.e
  let odd (x : Int) : Bool := x % e.esz ≠ 0
  let row := e.n0 * e.esz
  if bits (w 0) 15 11 ≠ 0 || bits (w 0) 7 1 ≠ 0 || bits (w 3) 63 36 ≠ 0 || bytesToNat (b.drop 40) ≠ 0 ||
      (!r.lod && bytesToNat ((b.drop 24).take 16) ≠ 0) then 1
  else if odd e.s1 || odd e.s2 || odd e.d1 || odd e.d2 then 2
  else if 2 ^ 30 < e.count * e.esz then 3
  else if if 1 < e.n1 || 1 < e.n2 then row % 64 ≠ 0 else row % 4 ≠ 0 then 4
  else if r.lod && (e.esz ≠ 4 || e.n2 ≠ 1 || e.s1 ≠ 0 || e.s2 ≠ 0 || r.statusA = 0) then 5
  else 0

/-- MKSHAPE. -/
def execMkshape (h : Hints) (d a : SReg) (b : VReg) (disp : Word) (s : State) : Host.Outcome State Fault Refusal :=
  run h 1 16 s fun s => do
    let v ← readV s b.toNat (fun l => decide (l < 16))
    let (base, s) ← readS s a
    let va := scalarAddr base disp
    let checked ← scalarCheck s va 64 .write none
    if !sliceHomed checked.pa then memTrap s causeMalformed .write va 0
    else do
      counterRoom s Op.st
      let fields := (rangeFrom 0 16).flatMap (fun l => natToBytes 4 (v l).toNat)
      let st := shapeStatus fields
      let x := bytesToNat fields
      let x := x / 2 * 2 + (if st = 0 then 1 else 0)
      let s ← writeS s d (BitVec.ofNat 64 st)
      pure (issueLanes s .rlx .wave .store 64 false { tag := s.tag, st := true, left := 0 }
        [{ checked with acc := { checked.acc with data := x } }])

/-- XCOPY's snapshot of its record with the checks of 20 R303, steps 1 and 2, and those of MKSHAPE (07 R119). -/
def shapeRead (s : State) (va : Nat) (lod : Bool) : Attempt (Shape × State) := do
  let c ← scalarCheck s va 64 .read none
  if !sliceHomed c.pa then memTrap s causeMalformed .read va 0
  else do
    match ← readNow s c.pa 64 (attrCa c.attr) with
    | (none, _) => memTrap s causeDataError .read va 0
    | (some b, s') =>
      let r := shapeOf b
      if !r.valid || r.lod != lod || shapeStatus b ≠ 0 then memTrap s causeMalformed .read va 0 else pure (r, s')

/-! ### XCOPY and XGATHER at issue -/

/-- Holds a tile if one is named. -/
def tileNeed? (s : State) (t : Option Byte) : Attempt (Option Tile) :=
  match t with
  | none => .ok none
  | some n => do
    let t ← tileNeed s n.toNat
    pure (some t)

/-- The elements of bounds lie within a tile. -/
def inTile (t : Option Tile) (off : Nat) (b : Int × Int) : Bool :=
  match t with
  | none => true
  | some t => decide (0 ≤ (off : Int) + b.1) && decide ((off : Int) + b.2 ≤ t.bytes)

/-- The clusters that a row and a column mask name (05 R94). -/
def maskClusters (rows cols : Nat) : List Nat :=
  (rangeFrom 0 128).filter (fun n => tbit rows (clusterRow n) && tbit cols (clusterCol n))

/-- A column bit is set for a column outside the context's partition (05 R95). -/
def State.strayColumn (s : State) (part cols : Nat) : Bool :=
  (rangeFrom 0 16).any (fun c => tbit cols c && s.partOfCol c ≠ some part)

/-- Source pages of an LOD-mode copy: how many stand in a row, and the page of element (x, y) in row-major order. -/
def lodPagesX (x0 n0 : Nat) : Nat := (x0 + n0 - 1) / 128 - x0 / 128 + 1
def lodPagesY (y0 n1 : Nat) : Nat := (y0 + n1 - 1) / 128 - y0 / 128 + 1
def lodPageOf (x0 y0 n0 x y : Nat) : Nat := (y / 128 - y0 / 128) * lodPagesX x0 n0 + (x / 128 - x0 / 128)

/-- Element n of an LOD-mode copy in its level; a status byte's element is the first of its page. -/
def lodElement (e : Extent) (x0 y0 n : Nat) : Nat × Nat :=
  if n < e.count then (x0 + n % e.n0, y0 + n / e.n0 % e.n1)
  else
    let p := n - e.count
    let px := x0 / 128 + p % lodPagesX x0 e.n0
    let py := y0 / 128 + p / lodPagesX x0 e.n0
    (max x0 (128 * px), max y0 (128 * py))

/-- Streamers of the elements of an LOD-mode copy, from the pages of the level asked for and, where those lie in a vault, of the
destination (20 R304). -/
def State.lodHomes (s : State) (desc : LodDesc) (kind : JobKind) (e : Extent) (level x0 y0 total : Nat) : SMap Nat :=
  let cl := s.cur.1
  (rangeFrom 0 total).map (fun n =>
    let (x, y) := lodElement e x0 y0 n
    (n, streamerOf cl (some (s.pageHome cl s.w.ctx (desc.elemAddr level x y) .read))
      ((kind.dst n).map (fun va => s.pageHome cl s.w.ctx va .write))))

/-- The checks of an LOD-mode copy on its descriptor and rectangle (20 R303, step 6): the descriptor's bytes. -/
def lodCopyDesc (s : State) (va : Nat) (r : Shape) : Attempt (List Byte × LodDesc × State) := do
  let (b, d, s') ← lodDescriptor s va 0
  if d.nlm1 < r.level || d.width r.level < r.x0 + r.e.n0 || d.height r.level < r.y0 + r.e.n1 then
    memTrap s causeLodDescriptor .read va 0
  else pure (b, d, s')

/-- XCOPY (DEDUCED, log 28) (DEDUCED, log 29). A destination tile that holds the wave is looked at before the source tile
(DESIGN CHOICE, log 89). -/
def execXcopy (h : Hints) (mc lod : Bool) (o : Order) (sc : Scope) (sem : Option (BitVec 6)) (a b c : SReg)
    (rowMask colMask : BitVec 16) (dtile stile : Option Byte) (s : State) : Host.Outcome State Fault Refusal :=
  run h 1 16 s fun s => do
    let (rec, s) ← readS s a
    let (src, s) ← readS s b
    let (dst, s) ← readS s c
    let dt ← tileNeed? s dtile
    let st ← tileNeed? s stile
    let (r, s) ← shapeRead s rec.toNat lod
    let e := r.e
    let need (tile : Bool) : Nat := if tile || mc then 64 else e.esz
    if src.toNat % need st.isSome ≠ 0 then operandTrap s stile.isSome causeMisaligned .read src.toNat
    else if dst.toNat % need dt.isSome ≠ 0 then operandTrap s (mc || dtile.isSome) causeMisaligned .write dst.toNat
    else if !inTile st src.toNat e.srcBounds then tileTrap s
    else if !inTile dt dst.toNat e.dstBounds || (dtile.isSome && dtile == stile) ||
        (mc && (decide ((dst.toNat : Int) + e.dstBounds.1 < 0) ||
          decide ((vaultBytes : Int) < (dst.toNat : Int) + e.dstBounds.2))) then tileTrap s
    else if s.strayColumn (s.partOfCtx s.w.ctx) colMask.toNat then unitTrap s causeIsolation
    else do
      let cl := s.cur.1
      let base (t : Option Tile) (x : Nat) : Nat :=
        match t with
        | some t => (s.tileBase cl t + x) % 2 ^ 64
        | none => x
      let srcVa := base st src.toNat
      let dstVa := base dt dst.toNat
      let job (kind : JobKind) (total : Nat) : Job :=
        { newJob s kind 0 sem total with
          fill := dtile.map BitVec.toNat, readOut := stile.map BitVec.toNat
          reads := span srcVa e.srcBounds, writes := span dstVa e.dstBounds }
      if lod then
        let (bytes, desc, s) ← lodCopyDesc s src.toNat r
        jobRoom s
        let pages := lodPagesX r.x0 e.n0 * lodPagesY r.y0 e.n1
        let total := e.count + pages
        let frames := desc.offset (desc.nlm1 + 1) * 65536
        let kind : JobKind := .lodCopy bytes dstVa e r.level r.x0 r.y0 r.statusA
        let j := { job kind total with
          srcHome := s.lodHomes desc kind e r.level r.x0 r.y0 total, resource := desc.resource
          reads := [(desc.data, desc.data + frames)]
          writes := span dstVa e.dstBounds ++ [(r.statusA, r.statusA + pages)] }
        pure (s.issueJob o sc [s.tag] j)
      else if mc then
        jobRoom s
        let ds := maskClusters rowMask.toNat colMask.toNat
        let j := { job (.multicast srcVa dst.toNat e rowMask.toNat colMask.toNat) e.count with
          writes := ds.flatMap (fun n => span ((s.vaultVa n s.w.ctx + dst.toNat) % 2 ^ 64) e.dstBounds) }
        pure (s.issueJob o sc [s.tag] j)
      else
        jobRoom s
        pure (s.issueJob o sc [s.tag] (job (.copy srcVa dstVa e) e.count))

/-- XGATHER. -/
def execXgather (h : Hints) (o : Order) (sc : Scope) (sem : Option (BitVec 6)) (a : SReg) (b : VReg) (c : SReg)
    (count : BitVec 16) (esz : BitVec 2) (dt : Bool) (dtile : Byte) (limit : Word) (s : State) :
    Host.Outcome State Fault Refusal :=
  run h 1 16 s fun s => do
    let (base, s) ← readS s a
    let (dst, s) ← readS s c
    let t ← tileNeed? s (if dt then some dtile else none)
    let v ← readV s b.toNat (fun l => decide (l < count.toNat))
    let e := 2 ^ esz.toNat
    let n := count.toNat
    if base.toNat % e ≠ 0 then memTrap s causeMisaligned .read base.toNat 0
    else if dst.toNat % e ≠ 0 then operandTrap s dt causeMisaligned .write dst.toNat
    else if !inTile t dst.toNat (0, (n * e : Nat)) then tileTrap s
    else do
      jobRoom s
      let dstVa := match t with
        | some t => (s.tileBase s.cur.1 t + dst.toNat) % 2 ^ 64
        | none => dst.toNat
      let idx := (rangeFrom 0 n).map (fun l => (v l).toNat)
      let j := { newJob s (.gather base.toNat dstVa e limit.toNat idx) 1 sem n with
        fill := if dt then some dtile.toNat else none
        reads := span base.toNat (0, (limit.toNat * e : Nat)), writes := span dstVa (0, (n * e : Nat)) }
      pure (s.issueJob o sc [s.tag] j)

end Sys2Proof.Machine
end

