-- ==== Sys2Proof/Machine/Matrix.lean ====
section
/-!
DEFINITION. The Millrace: gangs and the rendezvous latch, the claim of the array, MGANG, MWLOAD, MMUL, MDRAIN and MSTAT
(10 R176, R177, R182; 11 R196; 20 R308 to R316, R370).
-/
namespace Sys2Proof.Machine

/-! ### The array -/

/-- The array at a claim (20 R308): .i8.nosc, KBM1 11, everything else zero. -/
def Mill.fresh (ctx wgslot : Nat) : Mill :=
  { ctx := ctx, wgslot := wgslot, weights := [], scales := [], fmtByte := 0x0A, kbm1 := 11, banks := []
    flags0 := 0, flags1 := 0 }

/-- The format byte of 20 R300. -/
def formatByte (f : Fmt) (scf : ScaleFmt) : Byte :=
  let sc : BitVec 2 := match scf with
    | .nosc => 0
    | .e8 => 1
    | .s8 => 2
  sc ++ BitVec.ofBool f.u ++ BitVec.ofBool f.x ++ f.code

/-- The element and scale formats of a format byte. -/
def formatOf (b : Byte) : Fmt × ScaleFmt :=
  ({ code := b.extractLsb' 0 4, x := b.getLsbD 4, u := b.getLsbD 5 },
    match (b.extractLsb' 6 2).toNat with
    | 1 => .e8
    | 2 => .s8
    | _ => .nosc)

/-- A workgroup still lives on its cluster. -/
def State.resides (s : State) (cl ctx wgslot : Nat) : Bool :=
  match mget (s.cluster cl).wgs wgslot with
  | some g => g.ctx == ctx
  | none => false

/-- The array is open to a wave: free, its workgroup's own, or held by a workgroup that is away (20 R308). -/
def State.millOpen (s : State) (cl : Nat) (w : Wave) : Bool :=
  match (s.cluster cl).mill with
  | none => true
  | some m => (m.ctx == w.ctx && m.wgslot == w.wgslot) || !s.resides cl m.ctx m.wgslot

/-- The array holds the state of a workgroup. -/
def State.myMill (s : State) (cl ctx wgslot : Nat) : Option Mill :=
  match (s.cluster cl).mill with
  | some m => if m.ctx == ctx && m.wgslot == wgslot then some m else none
  | none => none

/-- The state of a workgroup put aside on a cluster (11 R196). -/
def State.savedMill (s : State) (cl ctx wgslot : Nat) : Option Mill :=
  ((s.ctxOf ctx).mills.find? (fun m => m.1 == cl && m.2.wgslot == wgslot)).map Prod.snd

def State.setMill (s : State) (cl : Nat) (m : Option Mill) : State := s.setCluster cl { s.cluster cl with mill := m }

/-! ### Gangs and the latch (10 R176, R177) -/

/-- MGANG (20 R309). -/
def execMgang (h : Hints) (a : SReg) (s : State) : Host.Outcome State Fault Refusal :=
  run h 1 8 s fun s => do
    needFeature s 1 (.mgang h a)
    let (x, s) ← readS s a
    let m := x.toNat % 65536
    let n := (membersOf m).length
    if m = 0 || (tbit m s.w.wnum && decide (2 ≤ n) && decide (n ≤ 6) &&
        (membersOf m).all (fun i => decide (i < s.wg.rows.length))) then
      pure (s.updW (fun w => { w with gang := BitVec.ofNat 16 m }))
    else plainTrap s 0x13

/-- A matrix instruction without its hints and scalar operands, and those operands. -/
def matrixKey : Instr → Option (Instr × List SReg)
  | .mwload _ a b c f scf kb ta tile =>
    some (.mwload { s := 0, y := false, e := 0 } .zs .zs .zs f scf kb ta tile, [a, b, c])
  | .mmul _ d a b c f scf mm kb acc ta tile =>
    some (.mmul { s := 0, y := false, e := 0 } d .zs .zs .zs f scf mm kb acc ta tile, [a, b, c])
  | .mdrain _ add o sc d a b sem fmt mm dt tile =>
    some (.mdrain { s := 0, y := false, e := 0 } add o sc d .zs .zs sem fmt mm dt tile, [a, b])
  | _ => none

/-- What the latch compares between members: the instruction, the operands' values, %gang and %row_progress. -/
def latchKeys (s : State) (rows : List (Nat × Instr)) :
    Attempt (List (Instr × List DWord × BitVec 16 × BitVec 32)) := do
  let keys := rows.filterMap (fun x => (matrixKey x.2).map (fun k => (x.1, k)))
  let (vals, _) ← readScalars s (keys.map (fun k => (k.1, k.2.2)))
  pure ((keys.zip vals).map (fun x =>
    let w := (s.waveAt? s.cur.1 x.1.1).getD Wave.zero
    (x.1.2.1, x.2.2, w.gang, w.rows)))

/-- The waves waiting at the latch that list a wave which now arrives with another %gang fault (10 R177). -/
def State.failStrays (s : State) : State :=
  let cl := s.cur.1
  let me := s.w
  let hit := (s.cluster cl).waves.filter (fun x =>
    x.1 ≠ s.cur.2 && x.2.ctx == me.ctx && x.2.wgslot == me.wgslot && (x.2.arrived.bind matrixKey).isSome &&
      tbit x.2.gang.toNat me.wnum && x.2.gang ≠ me.gang)
  s.trapRows cl (hit.map Prod.fst) 0x13

/-- The wave arrives at the latch. -/
def State.arriveLatch (s : State) (i : Instr) : State :=
  let k := s.cluster s.cur.1
  let s := if k.latch.contains s.cur.2 then s
    else s.setCluster s.cur.1 { k with latch := k.latch ++ [s.cur.2] }
  s.updW (fun w => { w with arrived := some i })

/-- It is the turn of the gang of some rows: no gang that arrived before it can be served. -/
def State.latchTurn (s : State) (rows : List Nat) : Bool :=
  let cl := s.cur.1
  ((s.cluster cl).latch.takeWhile (fun r => !rows.contains r)).all (fun r =>
    match s.waveAt? cl r with
    | some w => !s.millOpen cl w
    | none => true)

/-- Passes the latch: the rows of the gang's other members, all arrived with the same instruction (10 R176, R177). s0 is
the state before the wave read its operands. -/
def latchGate (s0 s : State) (i : Instr) : Attempt (List Nat × State) :=
  let cl := s.cur.1
  let me := s.w
  let members := if me.gang = 0 then [me.wnum] else membersOf me.gang.toNat
  let wait (o : State) : State := (o.failStrays).arriveLatch i
  if members.any (fun n => n ≠ me.wnum && s.wg.exited.contains n) then gangMismatch s []
  else
    let others := (members.filter (fun n => n ≠ me.wnum)).filterMap s.rowOf
    let arrived := others.filterMap (fun r => ((s.waveAt? cl r).bind Wave.arrived).map (fun i => (r, i)))
    let matrix := arrived.filter (fun x => (matrixKey x.2).isSome)
    if matrix.length < others.length then holdWith .sync wait
    else
      match latchKeys s0 ((s0.cur.2, i) :: matrix) with
      | .error _ => holdWith .sync wait
      | .ok keys =>
        if keys.any (fun k => some k ≠ keys.head?) then gangMismatch s others
        else if !s.latchTurn (s.cur.2 :: others) then holdWith .sync wait
        else if !s.millOpen cl me then holdWith .sync wait
        else
          let s := s.failStrays
          let k := s.cluster cl
          .ok (others, s.setCluster cl { k with latch := k.latch.filter (fun r => !(s.cur.2 :: others).contains r) })

/-- The other members of a gang pop the queues their operands came from, and proceed (10 R176) (DEDUCED, log 35). -/
def completeGang (others : List Nat) (s : State) : Attempt State :=
  others.foldlM (fun s row => do
    match (s.waveAt? s.cur.1 row).bind Wave.arrived with
    | none => pure s
    | some i =>
      let regs := ((matrixKey i).map Prod.snd).getD []
      let s ← writeAs s row (fun s => regs.foldlM (fun s r => do
        let (_, s) ← readS s r
        pure s) s)
      pure (s.completeAs row i.hints 16)) s

/-- A fault of MWLOAD or MMUL is exact in every member, with %row_progress at the rows completed (20 R314). -/
def gangFault {α : Type} (s : State) (others : List Nat) (cause va rows : Nat) (commit : State → State) : Attempt α :=
  let cl := s.cur.1
  let setRows (o : State) (r : Nat) : State := o.updWave cl r (fun w => { w with rows := BitVec.ofNat 32 rows })
  let rec' (pc : Nat) : TrapRec :=
    { cause := cause, iaddr := pc, resume := pc, vaddr := va, progress := rows, access := Kind.read.code }
  .error (.trap (fun o =>
    let o := setRows (others.foldl setRows (commit o)) o.cur.2
    others.foldl (fun o r =>
      match o.waveAt? cl r with
      | some w => o.takeTrap cl r (rec' w.pc)
      | none => o) o) (rec' s.w.pc))

/-! ### Operand rows (02 R36, 20 R310, R311) -/

/-- One run of bytes of an operand within a page: virtual and physical address, length, and caching class. -/
structure Run where
  va : Nat
  pa : Nat
  len : Nat
  ca : Nat

/-- The runs that n bytes from va translate to, or the cause and address that fail. -/
def State.operandRuns (s : State) : Nat → Nat → Nat → Except (Nat × Nat) (List Run)
  | 0, _, _ => .ok []
  | fuel + 1, va, n =>
    if n = 0 then .ok []
    else
      let here := min n (4096 - va % 4096)
      match s.translate s.cur.1 s.w.ctx va .read with
      | .error c => .error (c, va)
      | .ok (pa, attr) =>
        match s.operandRuns fuel ((va + here) % 2 ^ 64) (n - here) with
        | .error e => .error e
        | .ok t => .ok ({ va := va, pa := pa, len := here, ca := attrCa attr } :: t)

/-- Operand bytes, as the runs they lie in. -/
def State.operand (s : State) (va n : Nat) : Except (Nat × Nat) (List Run) := s.operandRuns (n / 4096 + 2) va n

/-- The bytes of runs, or the address at which a data error is met. Runs behind a link are waited for, and so are those
whose vault range is on its way to its shadow (08 R134). -/
def readRuns (s : State) : List Run → Attempt (Except Nat (List Byte) × State)
  | [] => .ok (.ok [], s)
  | r :: t => do
    let (bs, s) ← (match region r.pa with
      | .host _ | .peer _ => do
        let b ← linkRead s r.pa r.len
        pure (b, s)
      | _ =>
        match s.readFor s.w.ctx r.pa r.len with
        | .bytes b s => .ok (some b, s)
        | .poison => .ok (none, s)
        | .held _ _ => hold .dep : Attempt (Option (List Byte) × State))
    match bs with
    | none => pure (.error r.va, s)
    | some bs => do
      match ← readRuns s t with
      | (.error e, s) => pure (.error e, s)
      | (.ok rest, s) => pure (.ok (bs ++ rest), s)

/-- The bytes of several lists of runs. -/
def readAll (s : State) : List (List Run) → Attempt (List (Except Nat (List Byte)) × State)
  | [] => .ok ([], s)
  | r :: t => do
    let (b, s) ← readRuns s r
    let (rest, s) ← readAll s t
    pure (b :: rest, s)

/-- Synchronous reads wait for the members' own earlier writes to the bytes, for jobs whose write footprint overlaps them,
and for their turn in the outbound order of the cluster (06 R104, R105; 20 R314). The state has their lines moved:
the attempt as a whole waits until tokens cover them (DESIGN CHOICE, log 27). -/
def operandsReady (s : State) (others : List Nat) (runs : List Run) : Attempt State := do
  let tags := s.tag :: others.filterMap (fun r => (s.waveAt? s.cur.1 r).map (fun w => w.tag s.cur.1 r))
  let mine := tags.flatMap (fun t => ((s.pendingOf t).filter (fun x =>
    runs.any (fun r => x.2.touches r.pa r.len))).map Prod.fst)
  afterAll s (s.orderAfter false ++ mine)
  runs.forM (fun r => homeTurn s r.pa)
  let foot := runs.map (fun r => (r.va, r.va + r.len))
  if (s.jobsOn s.cur.1 s.w.ctx).any (fun j => linesMeet j.2.writes foot) then hold .dep
  else .ok (s.charge (runs.flatMap (fun r => usesOf r.pa r.len (fun _ => .read r.ca))))

/-- Codes of a format from bytes (09 R151). -/
def codesOf (f : Fmt) (bs : List Byte) : List Nat :=
  match fmtWidth f with
  | 4 => bs.flatMap (fun b => [b.toNat % 16, b.toNat / 16])
  | 16 => (rangeFrom 0 (bs.length / 2)).map (fun i => bytesToNat ((bs.drop (2 * i)).take 2))
  | _ => bs.map BitVec.toNat

/-- Bytes of n elements. -/
def fmtBytes (f : Fmt) (n : Nat) : Nat := n * fmtWidth f / 8

/-! ### Arithmetic (20 R311, R312) -/

/-- F of BlockAlign. -/
def alignF (f : Fmt) : Int := if f.code = 1 || f.code = 2 then 16 else 12

/-- Floor(log2 |x|) of a finite nonzero value. -/
def magLog : FVal → Option Int
  | .fin _ m e => if m = 0 then none else some ((Nat.log2 m : Int) + e)
  | _ => none

/-- x × 2^k truncated toward zero. -/
def truncScaled (k : Int) : FVal → Int
  | .fin neg m e =>
    let d := e + k
    let q : Nat := if 0 ≤ d then m <<< d.toNat else m >>> (-d).toNat
    if neg then -(q : Int) else q
  | _ => 0

/-- The greater of two levels, if there are any. -/
def maxOpt (a b : Option Int) : Option Int :=
  match a, b with
  | some x, some y => some (max x y)
  | some x, none => some x
  | none, y => y

/-- BlockAlign. -/
def blockAlign (f : Fmt) (x : List FVal) : List Int × Int :=
  match x.foldl (fun acc v => maxOpt acc (magLog v)) none with
  | none => (x.map (fun _ => 0), 0)
  | some t =>
    let k := alignF f - 2 - t
    (x.map (truncScaled k), -k)

/-- One term of a block as 20 R312 sees it. -/
inductive Term where
  | fine | nan | inf (neg : Bool)
  deriving DecidableEq, Repr

/-- A term of two elements under scales that are zero or not; a NaN term here is one that raises NV (DEDUCED, log 36). -/
def blockTerm (zeroScale : Bool) (a b : FVal) : Term :=
  let zero (v : FVal) : Bool := v.isZero
  match a, b with
  | .inf x, .inf y => if zeroScale then .nan else .inf (x != y)
  | .inf x, .fin n _ _ => if zeroScale || zero b then .nan else .inf (x != n)
  | .fin n _ _, .inf y => if zeroScale || zero a then .nan else .inf (n != y)
  | _, _ => .fine

/-- BlockValue of weights that stand aligned: a binary32 value and flags. The scales are none where they are NaN. -/
def blockValueAt (fa : Fmt) (a w : List FVal) (aligned : List Int × Int) (sa sw : Option (Nat × Int)) : Word × FFlags :=
  let signalling := (a ++ w).any FVal.isSNaN
  match sa, sw with
  | some (ma, xa), some (mw, xw) =>
    if (a ++ w).any FVal.isNaN then (nanF32, if signalling then flNV else 0)
    else
      let terms := (a.zip w).map (fun p => blockTerm (ma == 0 || mw == 0) p.1 p.2)
      if terms.contains .nan then (nanF32, flNV)
      else if terms.contains (.inf true) && terms.contains (.inf false) then (nanF32, flNV)
      else if terms.contains (.inf false) then (infF32, 0)
      else if terms.contains (.inf true) then (infF32 ||| 0x80000000, 0)
      else
        let (qa, ea) := blockAlign fa a
        let (qw, ew) := aligned
        let sum := (qa.zip qw).foldl (fun acc p => acc + p.1 * p.2) 0
        let m := sum.natAbs * ma * mw
        if m = 0 then (0, 0)
        else
          -- a value that underflows to zero is +0 too
          let r := f32of .rne (.fin (decide (sum < 0)) m (ea + ew + xa + xw), 0)
          (if r.1 = 0x80000000 then 0 else r.1, r.2)
  | _, _ => (nanF32, if signalling then flNV else 0)

/-- BlockValue. -/
def blockValue (fa fw : Fmt) (a w : List FVal) (sa sw : Option (Nat × Int)) : Word × FFlags :=
  blockValueAt fa a w (blockAlign fw w) sa sw

/-- The stationary weights of block b in column n as their codes have them. -/
def Mill.codeBlock (m : Mill) (b n : Nat) : List FVal :=
  let f := (formatOf m.fmtByte).1
  (rangeFrom (24 * b) 24).map (fun k =>
    if b ≤ m.kbm1 then elemValue f (mgetD m.weights (256 * k + n) 0) else .fin false 0 0)

/-- Those weights in aligned fixed point, with their block exponent. -/
def Mill.aligned (m : Mill) (b n : Nat) : List Int × Int :=
  let (q, e) := blockAlign (formatOf m.fmtByte).1 (m.codeBlock b n)
  (((rangeFrom (24 * b) 24).zip q).map (fun x => (mget m.fixed (256 * x.1 + n)).getD x.2), e)

/-- The stationary weights of block b in column n. -/
def Mill.block (m : Mill) (b n : Nat) : List FVal :=
  let e := (m.aligned b n).2
  ((rangeFrom (24 * b) 24).zip (m.codeBlock b n)).map (fun x =>
    match mget m.fixed (256 * x.1 + n) with
    | some q => .fin (decide (q < 0)) q.natAbs e
    | none => x.2)

/-- One column of one row: the accumulator after every block, and the flags raised. -/
def mulColumn (m : Mill) (fa : Fmt) (blocks : List (Nat × List FVal × Option (Nat × Int))) (n : Nat) (acc : Word) :
    Word × FFlags :=
  let scw := (formatOf m.fmtByte).2
  blocks.foldl (fun r (b, a, sa) =>
    let v := blockValueAt fa a (m.block b n) (m.aligned b n) sa (scaleValue scw (mgetD m.scales (256 * b + n) 0))
    let x := planeAdd r.1 v.1
    (x.1, r.2 ||| v.2 ||| x.2)) (acc, 0)

/-- One row: columns from n, k of them, into a bank. -/
def mulColumns (m : Mill) (fa : Fmt) (blocks : List (Nat × List FVal × Option (Nat × Int))) (key : Nat) (accum : Bool) :
    Nat → Nat → SMap Word → FFlags → SMap Word × FFlags
  | 0, _, banks, fl => (banks, fl)
  | k + 1, n, banks, fl =>
    let x := mulColumn m fa blocks n (if accum then mgetD banks (key + n) 0 else 0)
    mulColumns m fa blocks key accum k (n + 1) (msetD banks (key + n) 0 x.1) (fl ||| x.2)

def bankNumber : Bank → Nat
  | .acc0 => 0
  | .acc1 => 1

/-- Raises flags of a bank. -/
def Mill.raise (m : Mill) (d : Bank) (fl : FFlags) : Mill :=
  match d with
  | .acc0 => { m with flags0 := m.flags0 ||| fl }
  | .acc1 => { m with flags1 := m.flags1 ||| fl }

/-- Row m of MMUL from its activation codes and scale bytes. -/
def mulRow (mill : Mill) (d : Bank) (f : Fmt) (scf : ScaleFmt) (kb row : Nat) (accum : Bool) (codes scales : List Nat) :
    Mill :=
  let blocks := (rangeFrom 0 kb).map (fun b =>
    (b, ((codes.drop (24 * b)).take 24).map (elemValue f), scaleValue scf (scales.getD b 0)))
  let (banks, fl) := mulColumns mill f blocks (65536 * bankNumber d + 256 * row) accum 256 0 mill.banks 0
  { mill with banks := banks }.raise d fl

/-! ### The claim of the array (11 R196, 20 R308) -/

/-- A bank as bytes, row by row. -/
def Mill.bankBytes (m : Mill) (b : Nat) : List Byte :=
  (rangeFrom 0 65536).flatMap (fun i => natToBytes 4 (mgetD m.banks (65536 * b + i) 0).toNat)

/-- The weights in aligned fixed point, row by row (20 R308, R310). -/
def Mill.alignedWeights (m : Mill) : List Int :=
  let cols := (rangeFrom 0 12).map (fun b => (rangeFrom 0 256).map (fun n => (m.aligned b n).1))
  (rangeFrom 0 288).flatMap (fun k => (rangeFrom 0 256).map (fun n => ((cols.getD (k / 24) []).getD n []).getD (k % 24) 0))

/-- Their bytes, two each. -/
def Mill.weightBytes (m : Mill) : List Byte := m.alignedWeights.flatMap (fun q => natToBytes 2 (q % 2 ^ 16).toNat)

/-- Numbers of n bytes each, k of them. -/
def numbersOf (n : Nat) : Nat → List Byte → List Nat
  | 0, _ => []
  | k + 1, b => bytesToNat (b.take n) :: numbersOf n k (b.drop n)

/-- The array with banks and weights as its save area holds them: acc0, acc1, then the weights (11 R196). -/
def Mill.fromArea (m : Mill) (b : List Byte) : Mill :=
  let banks := ((rangeFrom 0 131072).zip (numbersOf 4 131072 b)).filter (fun e => e.2 ≠ 0)
  let weights := (numbersOf 2 73728 (b.drop 0x80000)).map (signedOf 16)
  let fixed := ((rangeFrom 0 73728).zip (weights.zip m.alignedWeights)).filterMap (fun e =>
    ((mget m.fixed e.1).or (if e.2.1 = e.2.2 then none else some e.2.1)).map (fun _ => (e.1, e.2.1)))
  { m with banks := banks.map (fun e => (e.1, BitVec.ofNat 32 e.2)), fixed := fixed }

/-- The latched formats and scales: scale codes, then format byte, KBM1 and the flags of the banks, then the weight block
exponents (DESIGN CHOICE, log 38). -/
def Mill.formatBytes (m : Mill) : List Byte :=
  (rangeFrom 0 3072).flatMap (fun i => natToBytes 1 (mgetD m.scales i 0)) ++
    natToBytes 1 m.fmtByte.toNat ++ natToBytes 1 m.kbm1 ++ natToBytes 1 m.flags0.toNat ++ natToBytes 1 m.flags1.toNat ++
    (rangeFrom 0 12).flatMap (fun b => (rangeFrom 0 256).flatMap (fun n =>
      natToBytes 4 ((m.aligned b n).2 % 2 ^ 32).toNat))

/-- Puts the array's state aside for a holder that is away (11 R196). A write that fails leaves a JOB 6 record
(DESIGN CHOICE, log 38). -/
def State.saveMill (s : State) (cl : Nat) (m : Mill) : State :=
  let s := { s with ctxs := mupd s.ctxs m.ctx (fun c => { c with mills := c.mills ++ [(cl, m)] }) }
  let a := (s.ctxOf m.ctx).mrBase + s.clusterIndex cl * 0xC0000
  let put (s : State) (x : Nat × List Byte) : State :=
    match s.hwWrite cl m.ctx (a + x.1) x.2 with
    | .ok s => s
    | .error e => s.hwFault cl m.ctx e.1 e.2 3 0 0
  [(0, m.bankBytes 0), (0x40000, m.bankBytes 1), (0x80000, m.weightBytes), (0xA4000, m.formatBytes)].foldl put s

/-- The array as a workgroup's save area gives it back: the banks and the weights. The formats, scales and flags, and the codes of
weights that are not finite, come from what State keeps beside it, since no rule lays them out; an area that cannot be read
leaves a JOB 6 record (DESIGN CHOICE, log 38). -/
def State.restoredMill (s : State) (cl : Nat) (m : Mill) : Mill × State :=
  match s.readArea cl m.ctx ((s.ctxOf m.ctx).mrBase + s.clusterIndex cl * 0xC0000) 0xA4000 with
  | .ok (b, s) => (m.fromArea b, s)
  | .error e => (m, s.hwFault cl m.ctx e.1 e.2 0 0 0)

/-- The array becomes a workgroup's: a holder that is away has its state put aside, and the workgroup's own comes back, or is
as at a claim (11 R196, 20 R308). -/
def State.takeMill (s : State) (cl ctx slot : Nat) : State :=
  let s := match (s.cluster cl).mill with
    | some old => s.saveMill cl old
    | none => s
  let (m, s) := match s.savedMill cl ctx slot with
    | some m => s.restoredMill cl m
    | none => (Mill.fresh ctx slot, s)
  { s with ctxs := mupd s.ctxs ctx (fun c =>
      { c with mills := c.mills.filter (fun x => !(x.1 == cl && x.2.wgslot == slot)) }) }.setMill cl (some m)

/-- The workgroups that stand on a cluster and have the array's state put aside. -/
def State.millOwners (s : State) (cl : Nat) : List (Nat × Nat) :=
  ((s.cluster cl).wgs.filter (fun g => (s.savedMill cl g.2.ctx g.1).isSome)).map (fun g => (g.2.ctx, g.1))

/-- The state put aside of a workgroup that has resumed returns once no workgroup on the cluster holds the array (20 R308); of
several, the lowest workgroup slot's (DESIGN CHOICE, log 38). -/
def State.returnMill (s : State) (cl : Nat) : State :=
  let held := (s.cluster cl).mill.any (fun m => s.resides cl m.ctx m.wgslot)
  match s.millOwners cl with
  | (ctx, slot) :: _ => if held then s else s.takeMill cl ctx slot
  | [] => s

/-- The array as a workgroup has it when it claims it, and what the claim leaves. -/
def State.claimed (s : State) (cl : Nat) (w : Wave) : Mill × State :=
  match s.myMill cl w.ctx w.wgslot with
  | some m => (m, s)
  | none =>
    let s := s.takeMill cl w.ctx w.wgslot
    ((s.cluster cl).mill.getD (Mill.fresh w.ctx w.wgslot), s)

/-- Claims the array for the workgroup of the wave whose instruction runs; the wave waits while another holds it. -/
def claimMill (s : State) : Attempt (Mill × State) :=
  if (s.myMill s.cur.1 s.w.ctx s.w.wgslot).isNone && !s.millOpen s.cur.1 s.w then hold .sync
  else .ok (s.claimed s.cur.1 s.w)

/-- The array as an instruction that stops half-way leaves it: claimed, with what it had done. -/
def State.commitMill (m : Mill) (o : State) : State := ((o.claimed o.cur.1 o.w).2).setMill o.cur.1 (some m)

/-! ### Class and charge (20 R313) -/

/-- Units of one pass for a format. -/
def fmtUnits (f : Fmt) : Nat :=
  match f.code.toNat with
  | 1 => 1249
  | 2 => 696
  | 10 => 696
  | 11 => 696
  | 12 => 369
  | n => if n ≤ 6 then 369 else 696

/-- The format's bit of the view's leaf 0x05 (11 R198). -/
def formatOn (s : State) (f : Fmt) (i : Instr) : Attempt Unit :=
  let c := s.ctxOf s.w.ctx
  if ((c.view[5]?).getD (Config.deviceView.getD 5 0)).getLsbD f.code.toNat then .ok () else illegal s i

/-! ### MWLOAD and MMUL -/

/-- Scalar operands must be multiples of 64 (MISALIGNED). -/
def aligned64 (s : State) (offset : Bool) (x : DWord) (kind : Kind) : Attempt Unit :=
  if x.toNat % 64 ≠ 0 then operandTrap s offset causeMisaligned kind x.toNat else .ok ()

/-- The range of rows at a stride within a tile (TILE_STATE). -/
def rowsInTile (s : State) (t : Option Tile) (a st : DWord) (rows rowBytes : Nat) : Attempt Unit :=
  let last := st.toInt * (rows - 1 : Nat)
  match t with
  | none => .ok ()
  | some t => if inTile (some t) a.toNat (min 0 last, max 0 last + (rowBytes : Nat)) then .ok () else tileTrap s

/-- The address that an operand of rows names: S(A), or the tile's base plus the offset S(A). -/
def rowsBase (s : State) (t : Option Tile) (a : DWord) : Nat :=
  match t with
  | none => a.toNat
  | some t => (s.tileBase s.cur.1 t + a.toNat) % 2 ^ 64

/-- The address of an operand that MWLOAD or MMUL reads: the tile, the range within it, then the memory causes: a first
row that is not canonical, then the alignment (02 R34, 11 R186, 20 R310). -/
def operandBase (s : State) (ta : Bool) (tile : Byte) (a st : DWord) (rows rowBytes : Nat) : Attempt Nat := do
  let t ← tileNeed? s (if ta then some tile else none)
  rowsInTile s t a st rows rowBytes
  if !ta && !canonical a.toNat then memTrap s causeNonCanonical .read a.toNat 0
  else do
    aligned64 s ta a .read
    aligned64 s true st .read
    pure (rowsBase s t a)

/-- The address that MDRAIN writes to: the tile, then the alignment, then the range within the tile, as 20 R315 lists
them. -/
def drainBase (s : State) (dt : Bool) (tile : Byte) (a st : DWord) (rows rowBytes : Nat) : Attempt Nat := do
  let t ← tileNeed? s (if dt then some tile else none)
  aligned64 s dt a .write
  aligned64 s true st .write
  rowsInTile s t a st rows rowBytes
  pure (rowsBase s t a)

/-- Translates operands in order; a failure faults every member with %row_progress as it stands. -/
def operandAll (s : State) (others : List Nat) : List (Nat × Nat) → Attempt (List (List Run))
  | [] => .ok []
  | (va, n) :: t =>
    match s.operand va n with
    | .error e => gangFault s others e.1 e.2 s.w.rows.toNat id
    | .ok r => do
      let rest ← operandAll s others t
      pure (r :: rest)

/-- Loads the blocks of MWLOAD from block b on: weight rows and scales of each (DEDUCED, log 34). -/
def loadBlocks (s : State) (others : List Nat) (f : Fmt) (commit : Mill → State → State) (m : Mill) :
    List (Nat × List (List Run) × List Run) → Attempt (Mill × State)
  | [] => .ok (m, s)
  | (b, rows, scales) :: t => do
    let (rd, s) ← readAll s rows
    let (sc, s) ← readRuns s scales
    let bad := (rd ++ [sc]).filterMap (fun x => match x with
      | .error va => some va
      | .ok _ => none)
    match bad with
    | va :: _ => gangFault s others causeDataError va (24 * b) (commit m)
    | [] =>
      let bytes (x : Except Nat (List Byte)) : List Byte :=
        match x with
        | .ok bs => bs
        | .error _ => []
      let put (w : SMap Nat) (key : Nat) (codes : List Nat) : SMap Nat :=
        ((rangeFrom 0 256).zip codes).foldl (fun w e => msetD w (key + e.1) 0 e.2) w
      let weights := ((rangeFrom (24 * b) 24).zip rd).foldl (fun w e => put w (256 * e.1) (codesOf f (bytes e.2)))
        m.weights
      let scs := put m.scales (256 * b) ((bytes sc).map BitVec.toNat)
      let fixed := m.fixed.filter (fun e => decide (e.1 / 6144 ≠ b))
      loadBlocks s others f commit { m with weights := weights, scales := scs, fixed := fixed } t

/-- MWLOAD. -/
def execMwload (h : Hints) (a b c : SReg) (f : Fmt) (scf : ScaleFmt) (kbm1 : BitVec 4) (ta : Bool) (tile : Byte)
    (s : State) : Host.Outcome State Fault Refusal :=
  let i : Instr := .mwload h a b c f scf kbm1 ta tile
  let kb := kbm1.toNat + 1
  let cost (s : State) : Cost := { floor := 6, count := kb - s.w.rows.toNat / 24, pass := fmtUnits f }
  runWith h cost 16 true s fun s0 => do
    needFeature s0 1 i
    formatOn s0 f i
    let (x, s) ← readS s0 a
    let (st, s) ← readS s b
    let (sc, s) ← readS s c
    let rowBytes := fmtBytes f 256
    let base ← atProgress s.w.rows.toNat (operandBase s ta tile x st (24 * kb) rowBytes)
    let (others, s) ← latchGate s0 s i
    let start := s.w.rows.toNat / 24
    let rowsOf (b : Nat) : List (Nat × Nat) :=
      (rangeFrom (24 * b) 24).map (fun (k : Nat) => (addr base (st.toInt * k), rowBytes))
    let scaleOf (b : Nat) : List (Nat × Nat) := if scf = .nosc then [] else [((sc.toNat + 256 * b) % 2 ^ 64, 256)]
    let blocks := rangeFrom start (kb - start)
    let runs ← blocks.mapM (fun b => do
      let rows ← operandAll s others (rowsOf b)
      let scales ← operandAll s others (scaleOf b)
      pure (b, rows, scales.flatten))
    let s ← operandsReady s others (runs.flatMap (fun r => r.2.1.flatten ++ r.2.2))
    let (m, s) ← claimMill s
    let latched (m : Mill) : Mill := { m with fmtByte := formatByte f scf, kbm1 := kbm1.toNat }
    let m := if start = 0 then { m with weights := [], scales := [], fixed := [] } else m
    let (m, s) ← loadBlocks s others f (fun m => State.commitMill (latched m)) m runs
    let s := (s.setMill s.cur.1 (some (latched m))).updW (fun w => { w with rows := 0 })
    let s := others.foldl (fun s r => s.updWave s.cur.1 r (fun w => { w with rows := 0 })) s
    completeGang others s

/-- Computes the rows of MMUL in order from their runs (DEDUCED, log 39). -/
def mulRows (s : State) (others : List Nat) (d : Bank) (f : Fmt) (scf : ScaleFmt) (kb : Nat) (accum : Bool) (m : Mill) :
    List (Nat × List Run × List Run) → Attempt (Mill × State)
  | [] => .ok (m, s)
  | (row, act, scales) :: t => do
    let (av, s) ← readRuns s act
    let (sv, s) ← readRuns s scales
    let stop (va : Nat) : Attempt (Mill × State) := gangFault s others causeDataError va row (State.commitMill m)
    match av, sv with
    | .error va, _ => stop va
    | _, .error va => stop va
    | .ok ab, .ok sb =>
      mulRows s others d f scf kb accum (mulRow m d f scf kb row accum (codesOf f ab) (sb.map BitVec.toNat)) t

/-- MMUL. -/
def execMmul (h : Hints) (d : Bank) (a b c : SReg) (f : Fmt) (scf : ScaleFmt) (mm1 : Byte) (kbm1 : BitVec 4)
    (accum ta : Bool) (tile : Byte) (s : State) : Host.Outcome State Fault Refusal :=
  let i : Instr := .mmul h d a b c f scf mm1 kbm1 accum ta tile
  let kb := kbm1.toNat + 1
  let rows := mm1.toNat + 1
  let cost (s : State) : Cost :=
    let w := match s.myMill s.cur.1 s.w.ctx s.w.wgslot with
      | some m => m
      | none => (s.savedMill s.cur.1 s.w.ctx s.w.wgslot).getD (Mill.fresh s.w.ctx s.w.wgslot)
    { floor := 6, count := rows - s.w.rows.toNat, pass := max (fmtUnits f) (fmtUnits (formatOf w.fmtByte).1) }
  runWith h cost 16 true s fun s0 => do
    needFeature s0 1 i
    formatOn s0 f i
    let (x, s) ← readS s0 a
    let (st, s) ← readS s b
    let (sc, s) ← readS s c
    let rowBytes := fmtBytes f (24 * kb)
    let base ← atProgress s.w.rows.toNat (operandBase s ta tile x st rows rowBytes)
    let (others, s) ← latchGate s0 s i
    let start := s.w.rows.toNat
    let runs ← (rangeFrom start (rows - start)).mapM (fun (m : Nat) => do
      let act ← operandAll s others [(addr base (st.toInt * m), rowBytes)]
      let scales ← operandAll s others (if scf = .nosc then [] else [((sc.toNat + 12 * m) % 2 ^ 64, kb)])
      pure (m, act.flatten, scales.flatten))
    let s ← operandsReady s others (runs.flatMap (fun r => r.2.1 ++ r.2.2))
    let (m, s) ← claimMill s
    let (m, s) ← mulRows s others d f scf kb accum m runs
    let s := (s.setMill s.cur.1 (some m)).updW (fun w => { w with rows := 0 })
    let s := others.foldl (fun s r => s.updWave s.cur.1 r (fun w => { w with rows := 0 })) s
    completeGang others s

/-! ### MDRAIN and MSTAT -/

/-- MDRAIN. The bank is read out now; the job writes what was read (20 R315, R370) (DESIGN CHOICE, log 51). -/
def execMdrain (h : Hints) (add : Bool) (o : Order) (sc : Scope) (d : Bank) (a b : SReg) (sem : Option (BitVec 6))
    (ofmt : ElemFmt) (mm1 : Byte) (dt : Bool) (dtile : Byte) (s : State) : Host.Outcome State Fault Refusal :=
  let i : Instr := .mdrain h add o sc d a b sem ofmt mm1 dt dtile
  let rows := mm1.toNat + 1
  let cost (_ : State) : Cost := { floor := 6, count := (rows + 15) / 16, pass := 369 }
  runWith h cost 16 true s fun s0 => do
    needFeature s0 1 i
    let (x, s) ← readS s0 a
    let (st, s) ← readS s b
    let base ← drainBase s dt dtile x st rows (256 * efSize ofmt)
    jobRoom s
    let (others, s) ← latchGate s0 s i
    let (m, s) ← claimMill s
    let key := 65536 * bankNumber d
    let bank := (m.banks.filter (fun e => decide (key ≤ e.1) && decide (e.1 < key + 256 * rows))).map
      (fun e => (e.1 - key, e.2))
    let tags := sortBy WTag.wnum
      (s.tag :: others.filterMap (fun r => (s.waveAt? s.cur.1 r).map (fun w => w.tag s.cur.1 r)))
    let last := st.toInt * (rows - 1 : Nat)
    let foot := span base (min 0 last, max 0 last + (256 * efSize ofmt : Nat))
    let owner := (tags.head?.bind (fun t => s.waveAt? t.cl t.row)).getD s.w
    let j := { newJob s (.drain base st.toInt rows add ofmt bank) 2 sem (256 * rows) with
      iaddr := owner.pc, fill := if dt then some dtile.toNat else none
      reads := if add then foot else [], writes := foot }
    completeGang others (s.issueJob o sc tags j)

/-- Reads and clears the flags of a bank. -/
def Mill.bankFlags (m : Mill) (sel : Nat) : FFlags := if sel = 0 then m.flags0 else m.flags1
def Mill.clearBank (m : Mill) (sel : Nat) (clear : BitVec 5) : Mill :=
  if sel = 0 then { m with flags0 := m.flags0 &&& ~~~clear } else { m with flags1 := m.flags1 &&& ~~~clear }

/-- The array's state that MSTAT sees: the workgroup's own, in the array or put aside, otherwise the array as it stands; a
free array is as at a claim (DEDUCED, log 37). -/
def State.statMill (s : State) (cl : Nat) (w : Wave) : Mill :=
  ((s.myMill cl w.ctx w.wgslot).or ((s.savedMill cl w.ctx w.wgslot).or (s.cluster cl).mill)).getD (Mill.fresh 0 0)

/-- Changes that state where it is held. -/
def State.updStat (s : State) (cl : Nat) (w : Wave) (f : Mill → Mill) : State :=
  if (s.myMill cl w.ctx w.wgslot).isNone && (s.savedMill cl w.ctx w.wgslot).isSome then
    { s with ctxs := mupd s.ctxs w.ctx (fun c =>
      { c with mills := c.mills.map (fun x => if x.1 == cl && x.2.wgslot == w.wgslot then (x.1, f x.2) else x) }) }
  else s.setMill cl ((s.cluster cl).mill.map f)

/-- MSTAT (20 R316). -/
def execMstat (h : Hints) (d : SReg) (sel : BitVec 2) (clear : BitVec 5) (s : State) :
    Host.Outcome State Fault Refusal :=
  run h 1 8 s fun s => do
    needFeature s 1 (.mstat h d sel clear)
    let cl := s.cur.1
    let w := s.w
    let m := s.statMill cl w
    match sel.toNat with
    | 2 =>
      let s ← writeS s d (BitVec.ofNat 64 w.drainFlags.toNat)
      pure (s.updW (fun w => { w with drainFlags := w.drainFlags &&& ~~~clear }))
    | 3 =>
      let holds := (s.myMill cl w.ctx w.wgslot).isSome
      writeS s d (BitVec.ofNat 64 (m.fmtByte.toNat + 256 * m.kbm1 + (if holds then 65536 else 0)))
    | n =>
      let s ← writeS s d (BitVec.ofNat 64 (m.bankFlags n).toNat)
      pure (s.updStat cl w (fun m => m.clearBank n clear))

end Sys2Proof.Machine
end

