-- ==== Sys2Proof/Machine/System.lean ====
section
/-!
DEFINITION. Control and status registers, feature leaves, return from a handler and HALT (11 R188, R197, R198; 24 R342 to
R345).
-/
namespace Sys2Proof.Machine

/-- %wgid: Z, Y and X. -/
def wgidWord (g : Wg) : DWord := BitVec.ofNat 64 (g.z % 2 ^ 16 * 2 ^ 32 + g.y % 2 ^ 16 * 2 ^ 16 + g.x % 2 ^ 16)

/-- %pext of the plane the workgroup holds; zero if it holds none. -/
def State.pext (s : State) : DWord :=
  match s.myPlane with
  | some p => BitVec.ofNat 64 (p.hm1.toNat * 256 + p.wm1.toNat)
  | none => 0

/-- %tstat: INTRAP and CAUSE. -/
def Wave.tstat (w : Wave) : DWord := BitVec.ofNat 64 ((if w.intrap then 256 else 0) + w.cause.toNat)

/-- The value of a CSR as a wave reads it (11 R197). %lane has one in each lane, and this is lane 0's. -/
def State.readCsr (s : State) (c : Csr) : DWord :=
  let w := s.w
  match c with
  | .lane => 0
  | .wave => BitVec.ofNat 64 (waveWord w.wnum w.stage)
  | .wgid => wgidWord s.wg
  | .stage => BitVec.ofNat 64 w.stage
  | .ctx => BitVec.ofNat 64 w.ctx
  | .phase => w.phase.zeroExtend 64
  | .gang => w.gang.zeroExtend 64
  | .vbase => BitVec.ofNat 64 s.vbase
  | .vlen => BitVec.ofNat 64 s.vlen
  | .fflags => w.fflags
  | .pflags => s.pflags
  | .pext => s.pext
  | .rowProgress => w.rows.zeroExtend 64
  | .budget => BitVec.ofNat 64 (s.units s.cur.1 w.ctx % 2 ^ 32)
  | .tvec => w.tvec
  | .tstat => w.tstat
  | .tepc => w.tepc
  | .trec => BitVec.ofNat 64 (s.trapArea s.cur.1 w)

/-- The bits of %tvec and of %tepc that a write sets. -/
def tvecBits : DWord := 0xFFFFFFFFFFFFFFFD
def tepcBits : DWord := 0xFFFFFFFFFFFFFFFC

/-- A write of a CSR: read-only fields keep their values (24 R343). -/
def State.writeCsr (s : State) (c : Csr) (x : DWord) : State :=
  match c with
  | .fflags => s.updW (fun w => w.writeFflags x)
  | .pflags => s.writePflags x
  | .rowProgress => s.updW (fun w => { w with rows := x.extractLsb' 0 32 })
  | .tvec => s.updW (fun w => { w with tvec := x &&& tvecBits })
  | .tepc => s.updW (fun w => { w with tepc := x &&& tepcBits, recheck := false })
  | .lane | .wave | .wgid | .stage | .ctx | .phase | .gang | .vbase | .vlen | .pext | .budget | .tstat | .trec => s

/-- CSRR. -/
def execCsrr (h : Hints) (d : CsrDst) (c : Csr) (s : State) : Host.Outcome State Fault Refusal :=
  run h 0 8 s fun s => do
    if c = .pflags then flagsRaised s
    match d with
    | .sreg r => writeS s r (s.readCsr c)
    | .vreg r => writeV s r.toNat (fun l => some (BitVec.ofNat 32 l))

/-- CSRW. -/
def execCsrw (h : Hints) (c : Csr) (a : SReg) (s : State) : Host.Outcome State Fault Refusal :=
  run h 0 8 s fun s => do
    if c = .pflags then flagsRaised s
    let (x, s) ← readS s a
    pure (s.writeCsr c x)

/-- A feature leaf (11 R198). -/
def State.leaf (s : State) (n : Nat) : DWord :=
  if n < 8 then ((s.ctxOf s.w.ctx).view[n]?).getD (Config.deviceView.getD n 0)
  else if n = 0x100 then
    BitVec.ofNat 64 (((s.clustersOf (s.partOfCtx s.w.ctx)).filter (fun c => !(s.cluster c).retired)).length)
  else if n = 0x101 then BitVec.ofNat 64 s.cur.1
  else if n = 0x102 then BitVec.ofNat 64 Config.clockMHz
  else 0

def execFeat (h : Hints) (d a : SReg) (s : State) : Host.Outcome State Fault Refusal :=
  run h 0 8 s fun s => do
    let (x, s) ← readS s a
    writeS s d (s.leaf x.toNat)

def execFeat96 (h : Hints) (d : SReg) (imm : Word) (s : State) : Host.Outcome State Fault Refusal :=
  run h 0 12 s fun s => writeS s d (s.leaf imm.toNat)

/-- TRET: back to %tepc, or illegal outside a handler (11 R188). -/
def execTret (h : Hints) (s : State) : Host.Outcome State Fault Refusal :=
  runJump h s fun s => if s.w.intrap then .ok s.trapReturn else illegal s (.tret h)

/-- HALT: firmware's wave stops issuing once its system-scope point is reached (24 R345). -/
def execHalt (h : Hints) (s : State) : Host.Outcome State Fault Refusal :=
  run h 0 8 s fun s => do
    if s.w.ctx ≠ 0 then illegal s (.halt h)
    else
      waitPoint s .sys
      pure (s.updW (fun w => { w with halted := true }))

end Sys2Proof.Machine
end

