-- ==== Sys2Proof/Machine/Image.lean ====
section
/-!
DEFINITION. The layouts in which a cluster writes its state out: a wave's saved state, a tile-table entry, a lease row
(03 R51; 08 R131; 10 R168; 11 R195).
-/
namespace Sys2Proof.Machine

/-- The lane flags of a wave, five bits a lane. -/
def flagBits (m : SMap FFlags) : Nat := m.foldl (fun acc e => acc + e.2.toNat * 2 ^ (5 * e.1)) 0

/-- The flags that such a number holds. -/
def flagsFrom (n : Nat) : SMap FFlags :=
  (rangeFrom 0 128).filterMap (fun l =>
    let f : FFlags := BitVec.ofNat 5 (n >>> (5 * l))
    if f = 0 then none else some (l, f))

/-- BASE, B, sector, slot, stage and number of a wave. -/
def Wave.placeWord (w : Wave) (row : Nat) : Nat :=
  w.base + w.bound * 2 ^ 9 + row / 16 * 2 ^ 18 + row % 16 * 2 ^ 20 + w.stage * 2 ^ 24 + w.wnum * 2 ^ 28

/-- The saved state of a wave in a row: 2 KiB (11 R195). -/
def Wave.image (w : Wave) (row : Nat) : List Byte :=
  (rangeFrom 0 128).flatMap (fun i => natToBytes 8 (mgetD w.s i 0).toNat) ++
    (rangeFrom 0 16).flatMap (fun i => natToBytes 16 (w.mask (BitVec.ofNat 4 i)).toNat) ++
    natToBytes 8 w.pc ++ natToBytes 8 w.tvec.toNat ++ natToBytes 8 w.tepc.toNat ++ natToBytes 8 w.tstat.toNat ++
    natToBytes 8 w.gang.toNat ++ natToBytes 8 w.fflags.toNat ++ natToBytes 8 w.phase.toNat ++
    natToBytes 8 w.rows.toNat ++ natToBytes 8 (w.placeWord row) ++
    natToBytes 8 (w.dlvSeq % 2 ^ 32 + (if w.lostFlt then 2 ^ 32 else 0)) ++ natToBytes 80 (flagBits w.lflags) ++
    natToBytes 32 0 ++ (match w.pending with
      | some r => r.bytes
      | none => natToBytes 64 0) ++ natToBytes 8 w.drainFlags.toNat ++ natToBytes 504 0

/-- The word at an offset of an image. -/
def imageWord (b : List Byte) (off n : Nat) : Nat := bytesToNat ((b.drop off).take n)

/-- A wave with the registers and CSRs that an image holds. What the image does not hold stays. -/
def Wave.fromImage (w : Wave) (b : List Byte) : Wave :=
  let d (off : Nat) : DWord := BitVec.ofNat 64 (imageWord b off 8)
  let tstat := imageWord b 0x518 8
  let deliv := imageWord b 0x548 8
  { w with
    s := (rangeFrom 0 128).foldl (fun m i => msetD m i 0 (d (8 * i))) []
    k := (rangeFrom 1 15).foldl (fun m i => msetD m i 0 (BitVec.ofNat 128 (imageWord b (0x400 + 16 * i) 16))) []
    pc := imageWord b 0x500 8 / 4 * 4, tvec := d 0x508, tepc := d 0x510
    cause := BitVec.ofNat 8 tstat, intrap := tbit tstat 8
    gang := BitVec.ofNat 16 (imageWord b 0x520 8), fflagsEn := enOf (d 0x528)
    phase := BitVec.ofNat 4 (imageWord b 0x530 8), rows := BitVec.ofNat 32 (imageWord b 0x538 8)
    dlvSeq := deliv % 2 ^ 32, lostFlt := w.lostFlt || tbit deliv 32
    lflags := flagsFrom (imageWord b 0x550 80), drainFlags := BitVec.ofNat 5 (imageWord b 0x600 8) }

/-- STATE of a tile as a code. -/
def TileState.code : TileState → Nat
  | .empty => 0
  | .filling => 1
  | .ready => 2
  | .draining => 3

/-- A tile-table entry (03 R51). PEND has 8 bits and holds the low ones of a longer count (DEDUCED, log 41). -/
def Tile.word (t : Tile) : Nat :=
  (t.size - 1) * 2 ^ 44 + t.base * 2 ^ 32 + t.owner * 2 ^ 26 + t.cslot * 2 ^ 24 + t.pend % 256 * 2 ^ 16 + t.state.code

/-- The tile that an entry holds; none where it is EMPTY. Its context is the reader's. -/
def tileOf (ctx w : Nat) : Option Tile :=
  let state : Option TileState :=
    match w % 4 with
    | 1 => some .filling
    | 2 => some .ready
    | 3 => some .draining
    | _ => none
  state.map (fun st =>
    { size := bits w 51 44 + 1, base := bits w 43 32, owner := bits w 31 26, ctx := ctx, cslot := bits w 25 24
      pend := bits w 23 16, state := st })

/-- A lease row (10 R168). -/
def Cluster.leaseWord (k : Cluster) (row : Nat) : Nat :=
  match mget k.waves row with
  | none => 0
  | some w =>
    let slot := ((k.slots.find? (fun x => x.2.ctx == w.ctx)).map Prod.fst).getD 0
    (if w.draining then 2 else 1) * 2 ^ 30 + w.wgslot * 2 ^ 24 + slot * 2 ^ 22 + w.stage * 2 ^ 19 +
      (if w.spawned then 2 ^ 18 else 0)

end Sys2Proof.Machine
end

