-- ==== Sys2Proof/Machine/Registers.lean ====
section
/-!
DEFINITION. The registers of the control space, as words of 8 bytes: what they read and what a write does (00 R6; 07 R124; 25
R347, R348, R354, R355, R363), and the steps that are writes to them.
-/
namespace Sys2Proof.Machine

/-- A write to an 8-byte word: the bits written, and their values. -/
structure RegPut where
  mask : Nat
  value : Nat
  deriving DecidableEq, Repr

/-- A word with the bits written replaced. -/
def RegPut.onto (p : RegPut) (old : Nat) : Nat :=
  let keep : BitVec 64 := BitVec.ofNat 64 old &&& ~~~(BitVec.ofNat 64 p.mask)
  (keep ||| BitVec.ofNat 64 p.value).toNat

/-- The write touches bits [hi:lo]. -/
def RegPut.touches (p : RegPut) (hi lo : Nat) : Bool := bits p.mask hi lo ≠ 0

/-! ### Blocks (25 R347) -/

/-- A register word: its block and its offset there. -/
inductive RegPlace where
  | part (p off : Nat)
  | cluster (n off : Nat)
  | device (off : Nat)
  | unmapped
  deriving DecidableEq, Repr

def regPlace (pa : Nat) : RegPlace :=
  let o := pa - controlBase
  if pa < controlBase then .unmapped
  else if o < 0x10000000 then .part (o / 0x1000000) (o % 0x1000000)
  else if o < 0x10000000 + 128 * 0x10000 then .cluster ((o - 0x10000000) / 0x10000) (o % 0x10000)
  else if 0x20000000 ≤ o && o < 0x20100000 then .device (o - 0x20000000)
  else .unmapped

/-- The block of an address is one the agent reaches. -/
def RegPlace.reachedBy (agent : RegAgent) : RegPlace → Bool
  | .part p _ => reachesPart p agent
  | .cluster _ _ => reachesDevice agent
  | .device _ => reachesDevice agent
  | .unmapped => false

/-! ### Reads -/

/-- A register of a queue. -/
def RingQueue.reg (r : RingQueue) (off : Nat) : Nat :=
  match off with
  | 0x00 => r.ring / 64 * 64 + r.link % 2
  | 0x08 => r.slots
  | 0x10 => r.next
  | 0x18 => (if r.halted then 256 else 0) + r.status
  | _ => 0

/-- A register of the fault queue. -/
def Part.faultReg (p : Part) (off : Nat) : Nat :=
  match off with
  | 0x00 => p.fqRing / 64 * 64 + p.fqLink % 2
  | 0x08 => p.fqLog2n
  | 0x10 => p.fqProd
  | 0x18 => p.fqCons
  | 0x20 => p.fqLost
  | _ => 0

/-- A word of a publication window. -/
def PubWindow.reg (w : PubWindow) (off : Nat) : Nat :=
  match off with
  | 0x00 => w.base * 4096 + w.link * 2 + (if w.en then 1 else 0)
  | 0x08 => w.limit * 4096
  | 0x10 => w.vaddr / 8 * 8
  | 0x18 => w.early % 2 ^ 32 * 2 ^ 32 + w.version % 2 ^ 32
  | _ => 0

/-- A word of a partition block. -/
def State.partReg (s : State) (p off : Nat) : Nat :=
  if off = 0 then
    (if (mget s.parts p).any Part.ready then 1 else 0) + (if s.dev.recovery then 256 else 0)
  else match mget s.parts p with
    | none => 0
    | some x =>
      if 0x1000 ≤ off && off < 0x1200 then (mgetD x.queues ((off - 0x1000) / 0x40) {}).reg (off % 0x40)
      else if 0x1200 ≤ off && off < 0x1240 then x.cmdQ.reg (off % 0x40)
      else if 0x1240 ≤ off && off < 0x1280 then x.faultReg (off - 0x1240)
      else if 0x2000 ≤ off && off < 0x2200 then (mgetD x.windows ((off - 0x2000) / 0x20) {}).reg (off % 0x20)
      else 0

/-- A word of a cluster block. -/
def Cluster.reg (k : Cluster) (off : Nat) : Nat :=
  if off < 0x100 then k.leaseWord (off / 4) + k.leaseWord (off / 4 + 1) * 2 ^ 32
  else if off = 0x100 then k.waves.foldl (fun acc x => if x.2.halted then acc + 2 ^ x.1 else acc) 0
  else if off = 0x108 then k.hsel
  else if 0x1000 ≤ off && off < 0x1800 then
    match mget k.waves k.hsel with
    | some w => imageWord (w.image k.hsel) (off - 0x1000) 8
    | none => 0
  else 0

/-- Numbers of a width packed into a word, the first lowest. -/
def packed (width : Nat) : List Nat → Nat
  | [] => 0
  | x :: t => x % 2 ^ width + 2 ^ width * packed width t

/-- A word of the device block. -/
def State.deviceReg (s : State) (off : Nat) : Nat :=
  if 0x40 ≤ off && off < 0x80 then s.dev.cmdQ.reg (off - 0x40)
  else if 0x100 ≤ off && off < 0x200 then
    packed 16 ((rangeFrom ((off - 0x100) / 2) 4).map (fun i => mgetD s.dev.masks i 0))
  else if 0x1000 ≤ off && off < 0x1080 then
    packed 8 (((s.parts.flatMap (fun p => p.2.home)).drop (off - 0x1000)).take 8)
  else if 0x1100 ≤ off && off < 0x1110 then
    packed 1 ((rangeFrom (8 * (off - 0x1100)) 64).map (fun n => if (s.cluster n).retired then 1 else 0))
  else if 0x1200 ≤ off && off < 0x1210 then packed 16 ((s.dev.cxlCounts.drop ((off - 0x1200) / 2)).take 4)
  else 0

/-- A word of the control space; an unassigned one reads zero. -/
def State.reg (s : State) : RegPlace → Nat
  | .part p off => s.partReg p off
  | .cluster n off => (s.cluster n).reg off
  | .device off => s.deviceReg off
  | .unmapped => 0

/-! ### Writes -/

/-- A write to a word of a queue: RW fields, KICK and GO. -/
def State.putQueueReg (s : State) (part q off : Nat) (p : RegPut) : State :=
  let r := s.queue part q
  match off with
  | 0x00 =>
    let v := p.onto (r.reg 0)
    s.setQueue part q { r with ring := v / 64 * 64, link := v % 2 }
  | 0x08 => s.setQueue part q { r with slots := p.onto r.slots % 2 ^ 17 }
  | 0x20 => if p.touches 31 0 && s.queueReady part then (s.acceptKick part q (p.value % 2 ^ 32) none).2 else s
  | 0x28 =>
    if tbit p.value 32 && r.halted then
      s.setQueue part q { r with next := p.value % 2 ^ 32, halted := false, status := 0 }
    else s
  | _ => s

/-- Every cluster of a partition tries again to post the entries it kept (25 R354). -/
def State.retryPosts (s : State) (part : Nat) : State :=
  (s.clustersOf part).foldl (fun s cl =>
    let k := s.cluster cl
    if k.unposted.isEmpty then s
    else k.unposted.foldl (fun s e => s.postFaultKept part cl e) (s.setCluster cl { k with unposted := [] })) s

/-- CONS is written. -/
def State.putCons (s : State) (part v : Nat) : State :=
  { s with parts := mupd s.parts part (fun x => { x with fqCons := v % 2 ^ 32 }) }.retryPosts part

/-- A write to a word of the fault queue. -/
def State.putFaultReg (s : State) (part off : Nat) (p : RegPut) : State :=
  match mget s.parts part with
  | none => s
  | some x =>
    let v := p.onto (x.faultReg off)
    match off with
    | 0x00 => { s with parts := mset s.parts part { x with fqRing := v / 64 * 64, fqLink := v % 2 } }
    | 0x08 => { s with parts := mset s.parts part { x with fqLog2n := v % 32 } }
    | 0x18 => s.putCons part v
    | _ => s

/-- A write to a word of a publication window (07 R124). -/
def PubWindow.put (w : PubWindow) (off : Nat) (p : RegPut) : PubWindow :=
  let v := p.onto (w.reg off)
  match off with
  | 0x00 => { w with base := v / 4096, link := (v / 2) % 2, en := tbit v 0 }
  | 0x08 => { w with limit := v / 4096 }
  | 0x10 => { w with vaddr := v / 8 * 8 }
  | 0x18 => { w with early := (BitVec.ofNat 32 w.early &&& ~~~(BitVec.ofNat 32 (p.value / 2 ^ 32))).toNat }
  | _ => w

/-- A write to a word of a partition block. -/
def State.putPartReg (s : State) (part off : Nat) (p : RegPut) : State :=
  if 0x1000 ≤ off && off < 0x1200 then s.putQueueReg part ((off - 0x1000) / 0x40) (off % 0x40) p
  else if 0x1200 ≤ off && off < 0x1240 then s.putQueueReg part commandQueue (off % 0x40) p
  else if 0x1240 ≤ off && off < 0x1280 then s.putFaultReg part (off - 0x1240) p
  else if 0x2000 ≤ off && off < 0x2200 then
    let n := (off - 0x2000) / 0x20
    { s with parts := mupd s.parts part (fun x =>
        { x with windows := mset x.windows n ((mgetD x.windows n {}).put (off % 0x20) p) }) }
  else s

/-- The halted wave of the row that HSEL selects. -/
def State.haltedWave (s : State) (cl : Nat) : Option (Nat × Wave) :=
  let k := s.cluster cl
  ((mget k.waves k.hsel).filter (fun w => w.halted && !w.draining)).map (fun w => (k.hsel, w))

/-- HACT 1: the halted wave goes on. -/
def State.hactResume (s : State) (cl : Nat) : State :=
  match s.haltedWave cl with
  | none => s
  | some (row, _) => s.updWave cl row (fun w => { w with halted := false })

/-- HACT 2: the halted wave ends as EXIT ends one (14 R237). An EXIT stands for it at its pc: a record that reaches it later traps
there, and a return there ends it again (10 R169) (DESIGN CHOICE, log 115). -/
def State.hactEnd (s : State) (cl : Nat) : State :=
  match s.haltedWave cl with
  | none => s
  | some (row, w) =>
    let s := s.updWave cl row (fun w => { w with halted := false, endAt := some w.pc })
    match w.held with
    | r :: _ => s.takeTrap cl row (asyncTrap w.pc r)
    | [] =>
      let s := s.updWave cl row (fun w => { w with draining := true })
      let s := s.updWg cl w.wgslot (fun g => { g with exited := without w.wnum g.exited ++ [w.wnum] })
      s.failWaiters cl w.wgslot w.wnum

/-- A write to a word of a cluster block. -/
def State.putClusterReg (s : State) (n off : Nat) (p : RegPut) : State :=
  if off = 0x108 then
    let k := s.cluster n
    s.setCluster n { k with hsel := p.onto k.hsel % 64 }
  else if off = 0x110 then
    if p.value % 4 = 1 then s.hactResume n else if p.value % 4 = 2 then s.hactEnd n else s
  else s

/-- A write to a word of the device block. -/
def State.putDeviceReg (s : State) (off : Nat) (p : RegPut) : State :=
  if 0x40 ≤ off && off < 0x80 then s.putQueueReg deviceQueue commandQueue (off - 0x40) p
  else if 0x100 ≤ off && off < 0x200 then
    let v := p.onto (s.deviceReg off)
    let i := (off - 0x100) / 2
    let masks := (rangeFrom 0 4).foldl (fun m j => msetD m (i + j) 0 (bits v (16 * j + 15) (16 * j))) s.dev.masks
    { s with dev := { s.dev with masks := masks } }
  else s

/-- A write to a word of the control space; read-only fields and unassigned words keep what they have. -/
def State.putReg (s : State) (pl : RegPlace) (p : RegPut) : State :=
  match pl with
  | .part n off => s.putPartReg n off p
  | .cluster n off => s.putClusterReg n off p
  | .device off => s.putDeviceReg off p
  | .unmapped => s

/-- The words that an access touches: for each its address, the first byte it has there and how many. -/
def regWords : Nat → Nat → Nat → List (Nat × Nat × Nat)
  | 0, _, _ => []
  | fuel + 1, pa, n =>
    if n = 0 then []
    else
      let here := min n (8 - pa % 8)
      (pa / 8 * 8, pa % 8, here) :: regWords fuel (pa + here) (n - here)

/-- Reads bytes of the control space. -/
def State.readRegs (s : State) (pa n : Nat) : Nat :=
  bytesToNat ((regWords (n / 8 + 2) pa n).flatMap (fun w =>
    ((natToBytes 8 (s.reg (regPlace w.1))).drop w.2.1).take w.2.2))

/-- Writes n bytes of a number to the control space. -/
def State.writeRegs (s : State) (pa n v : Nat) : State :=
  ((regWords (n / 8 + 2) pa n).foldl (fun (st : State × Nat) w =>
    let width := 2 ^ (8 * w.2.2)
    let sh := 2 ^ (8 * w.2.1)
    let p : RegPut := { mask := (width - 1) * sh, value := st.2 % width * sh }
    (st.1.putReg (regPlace w.1) p, st.2 / width)) (s, v)).1

/-- What an access of firmware to the control space does: its result. -/
def State.controlAccess (s : State) (a : Access) : Nat × State :=
  match a.kind with
  | .load => (s.readRegs a.pa a.size, s)
  | .store => (0, s.writeRegs a.pa a.size a.data)
  | .atomic op ty =>
    let old := s.readRegs a.pa a.size
    (old, s.writeRegs a.pa a.size (atomNew op ty old a.data a.data2))
  | .barrive => (0, s)
  | .binapp => (0, s)
  | .semRel => (0, s)

/-! ### Steps -/

/-- What an atomic leaves in a register in place of an old value of n bytes (25 R346). -/
def hostAtomicNew (op : HostAtomic) (n old x cmp : Nat) : Nat :=
  match op with
  | .fetchAdd => (old + x) % 2 ^ (8 * n)
  | .swap => x % 2 ^ (8 * n)
  | .cas => if old = cmp % 2 ^ (8 * n) then x % 2 ^ (8 * n) else old

/-- The device completes an access of a size: an atomic has 32 or 64 bits (25 R346). -/
def regSupported (r : RegReq) (size : Nat) : Bool :=
  match r with
  | .write _ | .read => true
  | .atomic _ _ _ => size == 4 || size == 8

/-- Carries out an access to registers. A write is posted; the others have a completion. -/
def State.serveReg (s : State) (addr size : Nat) : RegReq → State
  | .write v => s.writeRegs addr size v
  | .read => s.post (.completion addr (s.readRegs addr size))
  | .atomic op x cmp =>
    let old := s.readRegs addr size
    (s.writeRegs addr size (hostAtomicNew op size old x cmp)).post (.completion addr old)

/-- REGISTER_WRITE: an agent's access to the control space, a write, a read or an atomic (00 R6; 25 R346, R347). What the
agent does not reach, and an atomic that the device does not complete, is answered as an unsupported request. -/
def execRegisterWrite (agent : RegAgent) (addr size : Nat) (req : RegReq) (s : State) : Host.Outcome State Fault Refusal :=
  if (regPlace addr).reachedBy agent && (regPlace (addr + size - 1)).reachedBy agent && regSupported req size then
    .next (s.serveReg addr size req)
  else .next (s.post (.unsupported addr))

/-- CONS (25 R354). -/
def execCons (agent : RegAgent) (part value : Nat) (s : State) : Host.Outcome State Fault Refusal :=
  if reachesPart part agent then .next (s.putCons part value)
  else .next (s.post (.unsupported (partBlock part + 0x1258)))

/-- HACT_RESUME of the row that HSEL selects. -/
def execHactResume (agent : RegAgent) (cl row : Nat) (s : State) : Host.Outcome State Fault Refusal :=
  if !reachesDevice agent then .next (s.post (.unsupported (clusterBlock cl + 0x110)))
  else if (s.cluster cl).hsel = row then .next (s.hactResume cl)
  else .next s

/-- HACT_END of the row that HSEL selects. -/
def execHactEnd (agent : RegAgent) (cl row : Nat) (s : State) : Host.Outcome State Fault Refusal :=
  if !reachesDevice agent then .next (s.post (.unsupported (clusterBlock cl + 0x110)))
  else if (s.cluster cl).hsel = row then .next (s.hactEnd cl)
  else .next s

/-- LATERAL_ACCESS of the access that State.subj names: to a vault, its shadow, the checkpoint area or a register. -/
def execLateralAccess (s : State) : Host.Outcome State Fault Refusal :=
  let id := s.subj.a
  match mget s.laterals id with
  | none => .next s
  | some a =>
    if a.kind = .semRel || s.isHeld id || (!a.performed && a.after.any s.isPending) then .next s
    else .next ((s.arriveLateral State.controlAccess id a).state id)

end Sys2Proof.Machine
end

