-- ==== Sys2Proof/Machine/Backwater.lean ====
section
/-!
DEFINITION. Eviction, parking, resumption and merging: what is written to a context's Backwater image and what comes back
from it (08 R129 to R140; 10 R180; 11 R190, R191, R195; 25 R354).
-/
namespace Sys2Proof.Machine

/-! ### Contexts and their slots (01 R21, R23) -/

/-- A workgroup of a context is resident, evicted or parked on a cluster. -/
def Cluster.hosts (k : Cluster) (ctx : Nat) : Bool :=
  k.wgs.any (fun g => g.2.ctx == ctx) || k.away.any (fun a => a.2.wg.ctx == ctx)

/-- STATE of a context as slots, workgroups and jobs stand (01 R23). -/
def State.settleLife (s : State) (ctx : Nat) : State :=
  let life : CtxLife :=
    if s.clusters.any (fun k => k.2.slots.any (fun x => x.2.ctx == ctx)) then .resident
    else if s.clusters.any (fun k => k.2.away.any (fun a => a.2.wg.ctx == ctx)) ||
        s.jobs.any (fun j => j.2.owner.ctx == ctx) then .suspended
    else .idle
  { s with ctxs := mupd s.ctxs ctx (fun c => if c.life = .destroying then c else { c with life := life }) }

/-! ### Entries (08 R129, R130) -/

/-- Entries of the diversion table. -/
def divEntries : Nat := 16

/-- Puts entries at the lowest free places. -/
def addEntries (m : SMap DivEntry) : List DivEntry → SMap DivEntry
  | [] => m
  | e :: t =>
    match firstBelow (fun i => (mget m i).isNone) divEntries 0 with
    | some i => addEntries (mset m i e) t
    | none => m

/-- The table has room for more entries. -/
def Cluster.divRoom (k : Cluster) (n : Nat) : Bool := decide (k.div.length + n ≤ divEntries)

/-- No eviction and no merge is under way (08 R137). -/
def Cluster.divQuiet (k : Cluster) : Bool := k.div.all (fun e => e.2.state == .active)

/-- The stacks a workgroup holds. -/
def Cluster.stacksOf (k : Cluster) (ctx slot : Nat) : SMap RayStack :=
  k.rayStacks.filter (fun x => x.2.ctx == ctx && x.2.wgslot == slot)

/-- The tiles a workgroup owns. -/
def Cluster.tilesOf (k : Cluster) (ctx slot : Nat) : SMap Tile :=
  k.tiles.filter (fun x => x.2.ctx == ctx && x.2.owner == slot)

/-- The plane a workgroup holds. -/
def Cluster.planeOf (k : Cluster) (ctx slot : Nat) : Option Plane :=
  k.plane.filter (fun p => p.ctx == ctx && p.wgslot == slot)

/-- The waves of a workgroup slot. -/
def Cluster.wavesOf (k : Cluster) (slot : Nat) : SMap Wave := k.waves.filter (fun x => x.2.wgslot == slot)

/-- The entries that saving a workgroup needs (08 R129). -/
def State.entriesFor (s : State) (cl slot : Nat) (g : Wg) : List DivEntry :=
  let k := s.cluster cl
  let area := s.areaOf cl g.ctx
  let entry (kind : DivKind) (lo n off : Nat) : DivEntry :=
    { state := .evicting, kind := kind, ctx := g.ctx, wgslot := slot, lo := lo, n := n, shadow := area + off }
  let rayStacks := (k.stacksOf g.ctx slot).map Prod.fst
  (if g.vaultN = 0 then [] else [entry .vault g.vaultLo (g.vaultN - 1) (g.vaultLo * 4096)]) ++
    (if (k.tilesOf g.ctx slot).isEmpty then [] else [entry .tiles 0 255 tilesAreaOff]) ++
    [entry .regs slot 0 stateAreaOff] ++
    (match rayStacks with
      | [] => []
      | n :: t => [entry .trav n (t.getLastD n - n) (travAreaOff + 512 * n)]) ++
    (if (k.planeOf g.ctx slot).isSome then [entry .plane 0 0 planeAreaOff] else [])

/-- The entry of a context's semaphore file. -/
def State.semsEntryFor (s : State) (cl ctx : Nat) : DivEntry :=
  { state := .evicting, kind := .sems, ctx := ctx, wgslot := 0, lo := 0, n := 63, shadow := s.areaOf cl ctx + semsAreaOff }

/-! ### Beginning an eviction (08 R132, steps 1 and 2) -/

/-- A wave stops at an instruction boundary: what it was attempting has done nothing. A wave in BWAIT stays
registered. A plane instruction whose steps have begun finishes (22 R328). -/
def State.quiesce (s : State) (cl row : Nat) : State :=
  match s.waveAt? cl row with
  | none => s
  | some w =>
    if s.planeBegun cl row then s
    else
    let k := s.cluster cl
    let drop (m : Sem) : Sem := { m with waiters := without row m.waiters }
    let s := s.setCluster cl { k with
      slots := k.slots.map (fun x =>
        (x.1, if x.2.ctx == w.ctx then { x.2 with sems := x.2.sems.map (fun y => (y.1, drop y.2)) } else x.2))
      latch := without row k.latch }
    s.updWave cl row (fun w => { w.clearAttempt with kicking := false, kickResult := none })

/-- Installs the entries of an eviction: workgroup slots, and a context whose slot is taken. -/
def State.beginEvict (s : State) (cl : Nat) (slots : List Nat) (taken : Option Nat) : State :=
  let k := s.cluster cl
  let gs := slots.filterMap (fun n => (mget k.wgs n).map (fun g => (n, g)))
  let entries := gs.flatMap (fun x => s.entriesFor cl x.1 x.2) ++ (match taken with
    | some ctx => [s.semsEntryFor cl ctx]
    | none => [])
  let s := gs.foldl (fun s x =>
    ((s.cluster cl).wavesOf x.1).foldl (fun s w => s.quiesce cl w.1) (s.stopWg cl x.1 false)) s
  let k := s.cluster cl
  s.setCluster cl { k with div := addEntries k.div entries }

/-- Entries that an eviction of workgroups and a slot needs. -/
def State.entriesNeeded (s : State) (cl : Nat) (slots : List Nat) (taken : Bool) : Nat :=
  let k := s.cluster cl
  (slots.filterMap (fun n => (mget k.wgs n).map (fun g => (s.entriesFor cl n g).length))).foldl (· + ·)
    (if taken then 1 else 0)

/-! ### Writing a workgroup out (08 R132, steps 3 to 5; R137) -/

/-- The bytes of a vector register of a wave below its bound. -/
def Wave.regBytes (w : Wave) (r : Nat) : List Byte := (rangeFrom 0 128).flatMap (fun l => natToBytes 4 (w.lane r l).toNat)

/-- The bytes of a workgroup's range of queue memory: each queue's entries, oldest first (DESIGN CHOICE, log 7). -/
def Wg.queueBytes (g : Wg) : List Byte :=
  g.queues.flatMap (fun q =>
    q.entries.flatMap (fun x => natToBytes 8 x.toNat) ++ natToBytes (8 * (q.depth - q.entries.length)) 0)

/-- The TILES shadow as a workgroup's eviction writes it: its own tiles, and EMPTY elsewhere but where another workgroup of
its context, away or leaving with it, keeps an entry (08 R139, R140). -/
def Cluster.tileWrites (k : Cluster) (ctx slot shadow : Nat) : List (Nat × List Byte) :=
  let own := k.tilesOf ctx slot
  let leaving := (k.div.map Prod.snd).filter (fun e =>
    e.state == .evicting && e.kind == .tiles && e.ctx == ctx && e.wgslot ≠ slot)
  let kept :=
    (k.away.filter (fun a => a.2.wg.ctx == ctx && a.1 ≠ awayKey ctx slot)).flatMap (fun a => a.2.tileNums) ++
      leaving.flatMap (fun e => (k.tilesOf ctx e.wgslot).map Prod.fst)
  if own.isEmpty then []
  else (rangeFrom 0 256).filterMap (fun n =>
    if kept.contains n then none else some (shadow + 8 * n, natToBytes 8 (((mget own n).map Tile.word).getD 0)))

/-- The chip entries of a stack as its 512 bytes of TRAV shadow, oldest first. -/
def RayStack.shadow (x : RayStack) : List Byte := entryBytes x.chip ++ natToBytes (8 * (64 - x.chip.length)) 0

/-- One bit of each level of an enable stack for a cell, the bottom level lowest. -/
def stackByte (levels : List CellMask) (c : Nat) : Nat :=
  levels.foldl (fun acc m => 2 * acc + (if m.getLsbD c then 1 else 0)) 0

/-- The 80 bytes of a cell in the PLANE shadow (DESIGN CHOICE, log 7). -/
def Plane.cellBytes (p : Plane) (c : Nat) : List Byte :=
  (rangeFrom 0 16).flatMap (fun r => natToBytes 4 (mgetD p.cells (4096 * r + c) 0).toNat) ++
    natToBytes 1 (if p.enable.getLsbD c then 1 else 0) ++ natToBytes 1 (stackByte (p.stack.map Prod.fst) c) ++
    natToBytes 1 (stackByte (p.stack.map Prod.snd) c) ++ natToBytes 1 (mgetD p.flags c 0).toNat ++ natToBytes 12 0

/-- The PLANE shadow: p0 to p15, enable stack and flags of every cell (08 R129; 09 R158). -/
def Plane.shadow (p : Plane) : List Byte := (rangeFrom 0 4096).flatMap p.cellBytes

/-- A plane as it stands beside its shadow: what the shadow holds is left out of it, but for the depth of its stack. -/
def Plane.husk (p : Plane) : Plane :=
  { p with cells := [], enable := 0, flags := [], stack := p.stack.map (fun _ => (0, 0)) }

/-- Level i from the bottom of an enable stack, from a byte of each cell. -/
def levelOf (byte : Nat → Nat) (i : Nat) : CellMask :=
  BitVec.ofNat 4096 ((rangeFrom 0 4096).foldl (fun acc c => if tbit (byte c) i then acc + 2 ^ c else acc) 0)

/-- A plane as its shadow holds it. -/
def Plane.fromShadow (p : Plane) (b : List Byte) : Plane :=
  let byte (off c : Nat) : Nat := bytesToNat ((b.drop (80 * c + off)).take 1)
  let depth := p.stack.length
  { p with
    cells := (rangeFrom 0 4096).foldl (fun m c =>
      (rangeFrom 0 16).foldl (fun m r =>
        msetD m (4096 * r + c) 0 (BitVec.ofNat 32 (bytesToNat ((b.drop (80 * c + 4 * r)).take 4)))) m) []
    enable := levelOf (byte 64) 0
    stack := (rangeFrom 0 depth).map (fun i => (levelOf (byte 65) (depth - 1 - i), levelOf (byte 66) (depth - 1 - i)))
    flags := (rangeFrom 0 4096).foldl (fun m c => msetD m c 0 (BitVec.ofNat 5 (byte 67 c))) [] }

/-- What is written out for a workgroup before its vault range, in the order of 08 R137: addresses and bytes (DESIGN
CHOICE, log 7). -/
def State.evictWrites (s : State) (cl slot : Nat) (g : Wg) : List (Nat × List Byte) :=
  let k := s.cluster cl
  let c := s.ctxOf g.ctx
  let area := s.areaOf cl g.ctx
  let waves := k.wavesOf slot
  waves.flatMap (fun x =>
      (s.saveArea cl g.ctx x.1, x.2.image x.1) ::
        (area + wakeAreaOff + 8 * x.1,
          natToBytes 8 (((x.2.bwait.bind BarrierWait.outcome).map Prod.snd).getD 0)) ::
        (rangeFrom 0 x.2.bound).map (fun r => (s.backingAddr c cl g.wgx x.2.wnum r, x.2.regBytes r))) ++
    (if g.queueBytes.isEmpty then [] else [(area + queueAreaOff + g.queueOff 0 0, g.queueBytes)]) ++
    k.tileWrites g.ctx slot (area + tilesAreaOff) ++
    (k.stacksOf g.ctx slot).map (fun x => (area + travAreaOff + 512 * x.1, x.2.shadow)) ++
    (match k.planeOf g.ctx slot with
      | some p => [(area + planeAreaOff, p.shadow)]
      | none => [])

/-- Makes hardware writes in turn until one fails: the cause and address that failed. -/
def State.writeAll (s : State) (cl ctx : Nat) : List (Nat × List Byte) → Option (Nat × Nat) × State
  | [] => (none, s)
  | x :: t =>
    match s.hwWrite cl ctx x.1 x.2 with
    | .error e => (some e, s)
    | .ok s => s.writeAll cl ctx t

/-- The pending record a fault-queue entry tells of: the lowest-numbered wave's; where the workgroup was escalated, one
that the host does not service as a memory fault. -/
def State.pendingFor (s : State) (ctx : Nat) (escalated : Bool) (ws : SMap Wave) : Option TrapRec :=
  let recs := (sortBy (fun w => w.wnum) (ws.map Prod.snd)).filterMap (fun w => w.pending)
  let hosted (r : TrapRec) : Bool := isMemCause r.cause && tbit (s.ctxOf ctx).hostMask r.cause
  if escalated then (recs.find? (fun r => !hosted r)).or recs.head? else recs.head?

/-- A workgroup leaves its cluster: what the image has no layout for is kept beside it. -/
def State.takeAway (s : State) (cl slot : Nat) (g : Wg) (broken : Bool) : State :=
  let k := s.cluster cl
  let ws := k.wavesOf slot
  let pending := s.pendingFor g.ctx g.escalated ws
  let (order, s) := s.newId
  let a : Away :=
    { mode := if pending.isNone then .evicted else if g.escalated then .escalated else .parked
      wg := { g with
        stopped := false, escalated := false
        queues := g.queues.map (fun q => { q with entries := q.entries.map (fun _ => 0) }) }
      waves := ws.map (fun x => (x.1, { x.2 with
        fetched := [], waiting := none, bwait := x.2.bwait.map (fun b => { b with outcome := none }) }))
      plane := (k.planeOf g.ctx slot).map Plane.husk
      tileNums := (k.tilesOf g.ctx slot).map Prod.fst
      rayStacks := (k.stacksOf g.ctx slot).map (fun x => (x.1, x.2.chip.length))
      wake := ws.filterMap (fun x => (x.2.bwait.bind BarrierWait.outcome).map (fun o => (x.1, o)))
      order := order, broken := broken, merging := false }
  let mine (ctx' slot' : Nat) : Bool := ctx' == g.ctx && slot' == slot
  let s := s.setCluster cl { k with
    waves := k.waves.filter (fun x => x.2.wgslot ≠ slot), wgs := mdel k.wgs slot
    tiles := k.tiles.filter (fun x => !mine x.2.ctx x.2.owner)
    rayStacks := k.rayStacks.filter (fun x => !mine x.2.ctx x.2.wgslot)
    plane := k.plane.filter (fun p => !mine p.ctx p.wgslot)
    away := mset k.away (awayKey g.ctx slot) a }
  match pending with
  | none => s
  | some r =>
    s.postFaultKept (s.partOfCtx g.ctx) cl
      (fqEntry (if g.escalated then 2 else 1) g.ctx cl slot r.cause r.vaddr r.iaddr
        (if g.escalated then r.seq else 0))

/-- The outcomes that reached a workgroup's waves while it was written out go to the wake table. -/
def State.wakeWrites (s : State) (cl slot : Nat) (g : Wg) : List (Nat × List Byte) :=
  ((s.cluster cl).wavesOf slot).filterMap (fun x =>
    (x.2.bwait.bind BarrierWait.outcome).map (fun o =>
      (s.areaOf cl g.ctx + wakeAreaOff + 8 * x.1, natToBytes 8 o.2)))

/-- A write of a workgroup's resources failed: it is lost when it would resume (08 R134). -/
def State.evictFailed (s : State) (cl ctx slot : Nat) (e : Nat × Nat) : State :=
  (s.updDiv cl (fun x => x.kind == .regs && x.ctx == ctx && x.wgslot == slot) (fun x => { x with failed := true })).hwFault
    cl ctx e.1 e.2 3 0 0

/-- Makes the writes of a workgroup's resources. -/
def State.writeFor (s : State) (cl ctx slot : Nat) (l : List (Nat × List Byte)) : State :=
  match s.writeAll cl ctx l with
  | (none, s') => s'
  | (some e, s') => s'.evictFailed cl ctx slot e

/-- Appends the records of a bin to the spill queue, oldest first: those left when an access fails, and why. -/
def State.spillRecs (s : State) (cl ctx : Nat) (b : Bin) : List (List Word) → Nat × Option (Nat × Nat) × State
  | [] => (0, none, s)
  | r :: t =>
    let rec' : SpawnRec := { words := r, entryPc := b.entryPc, prio := b.prio, tmo := b.tmo }
    match s.spillHeader cl ctx with
    | .error e => (t.length + 1, some e, s)
    | .ok q =>
      let s := s.charge (s.spillUses cl ctx)
      match s.spillPut cl ctx q rec' with
      | .error e => (t.length + 1, some e, s)
      | .ok s => s.spillRecs cl ctx b t

/-- A context's bins go to its spill queue when it loses its slot (10 R180, R181). -/
def State.spillBins (s : State) (cl ctx : Nat) : State :=
  let k := s.cluster cl
  let mine := k.bins.filter (fun b => b.2.ctx == ctx)
  let s := s.setCluster cl { k with bins := k.bins.filter (fun b => b.2.ctx ≠ ctx) }
  let (lost, e, s) := mine.foldl (fun (acc : Nat × Option (Nat × Nat) × State) b =>
    let (n, e, s) := acc.2.2.spillRecs cl ctx b.2 b.2.recs
    (acc.1 + n, acc.2.1.or e, s)) ((0, none, s) : Nat × Option (Nat × Nat) × State)
  match e with
  | none => s
  | some x => s.hwFault cl ctx x.1 x.2 3 lost 0

/-- The SEMS shadow of a file: COUNT, with DELTA zero. -/
def semShadow (sems : SMap Sem) : List Byte :=
  (rangeFrom 0 64).flatMap (fun n => natToBytes 16 (mgetD sems n {}).count)

/-- The records a file's semaphores hold. -/
def semRecords (sems : SMap Sem) : List JobRec := sems.filterMap (fun x => x.2.held)

/-- Writes a context's file to its SEMS shadow, its held records to the fault log (08 R129). -/
def State.writeFile (s : State) (cl ctx : Nat) : State :=
  let k := s.cluster cl
  match k.slots.find? (fun x => x.2.ctx == ctx) with
  | none => s
  | some x =>
    let s := (semRecords x.2.sems).foldl State.appendRecord s
    match s.hwWrite cl ctx (s.areaOf cl ctx + semsAreaOff) (semShadow x.2.sems) with
    | .ok s => s
    | .error e => (s.hwFault cl ctx e.1 e.2 3 0 0).markPending ctx

/-- A context's slot on a cluster goes, its bins to the spill queue. -/
def State.dropSlot (s : State) (cl ctx : Nat) : State :=
  let s := s.spillBins cl ctx
  let k := s.cluster cl
  s.setCluster cl { k with slots := k.slots.filter (fun x => x.2.ctx ≠ ctx) }

/-- Jobs issued from a cluster by a context. -/
def State.hasJobs (s : State) (cl ctx : Nat) : Bool := s.jobs.any (fun j => j.2.tags.any (fun t => t.cl == cl && t.ctx == ctx))

/-- A context's file is being written out. -/
def State.fileLeaving (s : State) (cl ctx : Nat) : Bool := (s.semsEntry cl ctx).any (fun e => e.state == .evicting)

/-- Frees a context's slot once nothing of it is left on the cluster (01 R21, R22) (DEDUCED, log 55). -/
def State.settleSlot (s : State) (cl ctx : Nat) : State :=
  let k := s.cluster cl
  let s := match k.slots.find? (fun x => x.2.ctx == ctx) with
    | none => s
    | some x =>
      if k.hosts ctx || s.hasJobs cl ctx || s.fileLeaving cl ctx then s
      else ((semRecords x.2.sems).foldl State.appendRecord s).dropSlot cl ctx
  s.settleLife ctx

/-! ### Jobs that complete, and pieces that land (02 R38; 03 R52; 07 R118; 08 R134, R135) -/

/-- Gives a fault record of a job to its semaphore, or to its wave where it names none. -/
def State.giveJobRecord (s : State) (j : Job) (r : JobRec) : State :=
  let t := j.owner
  match j.sem with
  | some n => if (s.semsEntry t.cl t.ctx).isSome || !s.holdsSlot t.cl t.ctx then s.appendRecord r else s.semFault t.cl t.ctx n r
  | none => s.giveRecord t r

/-- A piece of a tile's job has completed: PEND counts down to the pieces left, and the last one makes the tile READY (03
R52, 08 R134). -/
def Tile.pieceDone (t : Tile) (left : Nat) : Tile :=
  { t with pend := left, state := if left = 0 then .ready else t.state }

/-- The pieces of a job that a tile still waits for. -/
def Job.piecesFor (j : Job) (n : Nat) : Nat :=
  (if j.fill = some n then j.pieces.length else 0) + (if j.readOut = some n then j.toRead.length else 0)

/-- Counts a piece down on a tile, or in the TILES shadow of its workgroup. -/
def State.tilePiece (s : State) (t : WTag) (n left : Nat) : State :=
  match s.wgEntry t.cl t.ctx t.wgslot .tiles with
  | none => s.updTile t.cl n (fun x => if x.ctx = t.ctx && x.owner = t.wgslot then x.pieceDone left else x)
  | some e =>
    let a := e.shadow + 8 * n
    match s.readArea t.cl t.ctx a 8 with
    | .error f => s.shadowFail t.cl t.ctx t.wgx f 0
    | .ok (b, s) =>
      match tileOf t.ctx (bytesToNat b) with
      | none => s
      | some x =>
        match s.hwWrite t.cl t.ctx a (natToBytes 8 (x.pieceDone left).word) with
        | .ok s' => s'
        | .error f => s.shadowFail t.cl t.ctx t.wgx f 3

/-- A piece must wait at the ingress: its tile's entry, or its context's semaphore file, is on its way (08 R135). -/
def State.pieceHeld (s : State) (j : Job) (read : Bool) : Bool :=
  let t := j.owner
  let moving (e : Option DivEntry) : Bool := e.any (fun e => e.state ≠ .active)
  ((if read then j.readOut else j.fill).isSome && moving (s.wgEntry t.cl t.ctx t.wgslot .tiles)) ||
    (j.sem.isSome && s.semWaits t.cl t.ctx)

/-- What a job still owes once its pieces have landed and been read: its records, its semaphore's increment, and its waves'
counters (02 R38; 07 R118; 16 R274). -/
def State.completeJob (s : State) (id : Nat) (j : Job) : State :=
  let t := j.owner
  let s := j.faults.foldl (fun s r => s.giveJobRecord j r) s
  let s := match j.sem with
    | some n => s.semAdd t.cl t.ctx n 1
    | none => s
  let s := (j.cpOps ++ j.fillOps ++ j.readOps).foldl State.opStep s
  { s with jobs := mdel s.jobs id }.settleSlot t.cl t.ctx

/-- A piece of a job completes at the tile it fills, or at the tile that it has read: the last one makes the tile READY and
counts complete on TL. The last of both completes the job (03 R52; 16 R274). -/
def State.landPiece (s : State) (id p : Nat) (read : Bool) : State :=
  match mget s.jobs id with
  | none => s
  | some j =>
    let j := if read then { j with toRead := mdel j.toRead p } else { j with pieces := mdel j.pieces p }
    let s := match if read then j.readOut else j.fill with
      | some n => s.tilePiece j.owner n (j.piecesFor n)
      | none => s
    let ended := if read then j.toRead.isEmpty else j.pieces.isEmpty
    let s := if ended then (if read then j.readOps else j.fillOps).foldl State.opStep s else s
    let j := if !ended then j else if read then { j with readOps := [] } else { j with fillOps := [] }
    let s := { s with jobs := mset s.jobs id j }
    if j.pieces.isEmpty && j.toRead.isEmpty then s.completeJob id j else s

/-- The piece is held at its cluster's ingress. -/
def State.pieceIsHeld (s : State) (j : Job) (id p : Nat) (read : Bool) : Bool :=
  (s.cluster j.owner.cl).heldThings.any (fun h => h.2.what == .piece id p read)

/-- A piece whose elements are done reaches its cluster: it lands, or the ingress holds it. -/
def State.arrivePiece (s : State) (id p : Nat) (read : Bool) : State :=
  match mget s.jobs id with
  | none => s
  | some j =>
    if s.pieceHeld j read then
      s.holdThing j.owner.cl j.owner.ctx (.piece id p read)
    else s.landPiece id p read

/-- The ingress releases what it holds, in arrival order; what must still wait is held again (08 R135). -/
def State.releaseArrivals (s : State) (cl : Nat) : State :=
  let k := s.cluster cl
  k.held.foldl (fun s id =>
    match mget s.packets id with
    | some p => (s.arrivePacket id p).state id
    | none =>
      match mget s.laterals id with
      | some a => (s.arriveLateral State.controlAccess id a).state id
      | none =>
        match mget s.traversals id with
        | some t => (s.arriveTraversal id t none).state id
        | none =>
          match (mget k.heldThings id).map HeldThing.what with
          | some (.piece j p read) => s.arrivePiece j p read
          | some (.element j n) => s.rereadElement j n
          | some (.addend t) => (mget s.addTiles t).elim s (s.stepTile t)
          | some (.request p) => s.goOn p
          | some (.map part q) => s.resumeMap part q
          | none => s) (s.setCluster cl { k with held := [], heldThings := [] })

/-! ### The course of an eviction (08 R132, R137) -/

/-- A plane instruction of a workgroup being evicted is not finished: its steps have begun, or it is a load that has still to
read. Its PLANE shadow is not written before (22 R328). -/
def State.planeUnfinished (s : State) (cl : Nat) : Bool :=
  (s.cluster cl).div.any (fun e =>
    e.2.state == .evicting && e.2.kind == .plane &&
      (((s.cluster cl).wavesOf e.2.wgslot).any (fun x => s.planeBegun cl x.1) ||
        s.jobs.any (fun j =>
          (match j.2.kind with
            | .planeLoad _ _ => true
            | _ => false) &&
          j.2.owner.cl == cl && j.2.owner.ctx == e.2.ctx && j.2.owner.wgslot == e.2.wgslot &&
            (decide (j.2.stepsPaid < j.2.steps) || decide (j.2.pos < j.2.total) || j.2.flight.any (fun f => f.src.isSome)))))

/-- Writes everything but the vault ranges to its shadows: the workgroups', then the files'. -/
def State.writeOut (s : State) (cl : Nat) : State :=
  let todo (kind : DivKind) (s : State) : List DivEntry :=
    ((s.cluster cl).div.map Prod.snd).filter (fun e => e.state == .evicting && e.kind == kind && e.issued == 0)
  let s := (todo .regs s).foldl (fun s e =>
    match mget (s.cluster cl).wgs e.wgslot with
    | none => s
    | some g => s.writeFor cl g.ctx e.wgslot (s.evictWrites cl e.wgslot g)) s
  let s := (todo .sems s).foldl (fun s e => s.writeFile cl e.ctx) s
  s.updDiv cl (fun e => e.state == .evicting && (e.kind == .regs || e.kind == .sems)) (fun e => { e with issued := 1 })

/-- What precedes the vault ranges has been written. -/
def Cluster.wroteOut (k : Cluster) : Bool :=
  k.div.all (fun e => e.2.state ≠ .evicting || (e.2.kind ≠ .regs && e.2.kind ≠ .sems) || e.2.issued == 1)

/-- The VAULT entry whose next granule is to be written out. -/
def Cluster.nextGranule (k : Cluster) : Option DivEntry :=
  (k.div.map Prod.snd).find? (fun e => e.state == .evicting && e.kind == .vault && decide (e.issued ≤ e.n))

/-- Granules being written out. -/
def Cluster.granulesOut (k : Cluster) : Nat := (k.div.map (fun e => e.2.out.length)).foldl (· + ·) 0

/-- The write-out of an entry's next granule is issued. -/
def State.issueGranule (s : State) (cl : Nat) (e : DivEntry) : State :=
  s.updDiv cl (fun x => x == e) (fun x => { x with issued := x.issued + 1, out := x.out ++ [x.lo + x.issued] })

/-- The write-out of a granule performs. -/
def State.granuleOut (s : State) (cl : Nat) (e : DivEntry) (g : Nat) : State :=
  let s := s.updDiv cl (fun x => x == e) (fun x => { x with out := without g x.out })
  s.writeFor cl e.ctx e.wgslot [(e.vaultShadow (4096 * g), memRead s.mem (vaultBase + cl * vaultBytes + 4096 * g) 4096)]

/-- The write-out of a granule among those issued performs, if it is one. -/
def State.performGranule (s : State) (cl g : Nat) : State :=
  match ((s.cluster cl).div.map Prod.snd).find? (fun e => e.out.contains g) with
  | some e => s.granuleOut cl e g
  | none => s

/-- The granules of a VAULT entry that are still to be written, in turn: n of them from granule g. -/
def State.restOut (s : State) (cl : Nat) (e : DivEntry) : State :=
  let left := e.out ++ rangeFrom (e.lo + e.issued) (e.n + 1 - e.issued)
  left.foldl (fun s g =>
      s.writeFor cl e.ctx e.wgslot [(e.vaultShadow (4096 * g), memRead s.mem (vaultBase + cl * vaultBytes + 4096 * g) 4096)])
    (s.updDiv cl (fun x => x == e) (fun x => { x with issued := x.n + 1, out := [] }))

/-- Completes the eviction under way on a cluster: what is not yet written is written, the resources go, and the ingress
releases what it holds. -/
def State.finishEvict (s : State) (cl : Nat) : State :=
  if s.planeUnfinished cl then s
  else
  let s := if (s.cluster cl).wroteOut then s else s.writeOut cl
  let mine (kind : DivKind) (s : State) : List DivEntry :=
    ((s.cluster cl).div.map Prod.snd).filter (fun e => e.state == .evicting && e.kind == kind)
  let s := (mine .vault s).foldl (fun s e => s.restOut cl e) s
  let wgs := mine .regs s
  let s := wgs.foldl (fun s e =>
    match mget (s.cluster cl).wgs e.wgslot with
    | none => s
    | some g =>
      let s := s.writeFor cl g.ctx e.wgslot (s.wakeWrites cl e.wgslot g)
      s.takeAway cl e.wgslot g ((s.wgEntry cl g.ctx e.wgslot .regs).any DivEntry.failed)) s
  let files := mine .sems s
  let s := files.foldl (fun s e => s.dropSlot cl e.ctx) s
  let s := s.updDiv cl (fun e => e.state == .evicting) (fun e => { e with state := .active, issued := 0, out := [], failed := false })
  (wgs ++ files).foldl (fun s e => s.settleLife e.ctx) ((s.releaseArrivals cl).returnMill cl)

/-- The next part of an eviction: what precedes the vault ranges, or the issue of a granule's write-out, of which 16 may be
under way (08 R137). -/
def State.evictStage (s : State) (cl : Nat) : State :=
  let k := s.cluster cl
  if s.planeUnfinished cl then s
  else if !k.wroteOut then s.writeOut cl
  else match k.nextGranule with
    | some e => if k.granulesOut < 16 then s.issueGranule cl e else s
    | none => s

/-- EVICTION_DONE on the cluster that State.subj names: the eviction under way completes, goes on by one part, or one
granule's write-out performs (DESIGN CHOICE, log 16). -/
def execEvictionDone (s : State) : Host.Outcome State Fault Refusal :=
  let cl := s.subj.a
  if (s.cluster cl).div.any (fun e => e.2.state == .evicting) then
    .next (match s.subj.b with
      | 0 => s.finishEvict cl
      | 1 => s.evictStage cl
      | _ => s.performGranule cl s.subj.c)
  else .next s

/-- PARK of the workgroup that State.subj names (11 R191): a wave of it has a pending record, and the diversion table has
room. Its eviction completes at once, or, where State.subj says so, by EVICTION_DONE. -/
def execPark (s : State) : Host.Outcome State Fault Refusal :=
  let cl := s.subj.a
  let slot := s.subj.b
  let k := s.cluster cl
  match mget k.wgs slot with
  | none => .next s
  | some g =>
    if g.stopped && (k.wavesOf slot).any (fun w => w.2.pending.isSome) && k.divQuiet &&
        k.divRoom (s.entriesNeeded cl [slot] false) then
      let s := s.beginEvict cl [slot] none
      .next (if s.subj.c = 0 then s.finishEvict cl else s)
    else .next s

/-! ### Coming back (08 R138) -/

/-- Reads the registers of a wave below its bound from its backing area: registers from r, n of them. -/
def State.readRegisters (s : State) (cl ctx wgx : Nat) (w : Wave) : Nat → Nat → SMap Word → Except (Nat × Nat) (SMap Word)
  | 0, _, m => .ok m
  | n + 1, r, m =>
    match s.hwRead cl ctx (s.backingAddr (s.ctxOf ctx) cl wgx w.wnum r) 512 with
    | .error e => .error e
    | .ok b =>
      let lane (l : Nat) : Option Word := some (BitVec.ofNat 32 (imageWord b (4 * l) 4))
      s.readRegisters cl ctx wgx w n (r + 1) (setLanes m r lane 128 0)

/-- A wave as its image and backing area hold it. -/
def State.readWave (s : State) (cl ctx wgx row : Nat) (w : Wave) : Except (Nat × Nat) Wave :=
  match s.hwRead cl ctx (s.saveArea cl ctx row) 2048 with
  | .error e => .error e
  | .ok b =>
    match s.readRegisters cl ctx wgx w w.bound 0 [] with
    | .error e => .error e
    | .ok v => .ok { w.fromImage b with v := v }

/-- The waves of a workgroup as memory holds them. -/
def State.readWaves (s : State) (cl ctx wgx : Nat) : SMap Wave → Except (Nat × Nat) (SMap Wave)
  | [] => .ok []
  | (row, w) :: t =>
    match s.readWave cl ctx wgx row w with
    | .error e => .error e
    | .ok w =>
      match s.readWaves cl ctx wgx t with
      | .error e => .error e
      | .ok l => .ok ((row, w) :: l)

/-- The tiles of a workgroup as the TILES shadow holds them. -/
def State.readTiles (s : State) (cl ctx : Nat) (nums : List Nat) : Except (Nat × Nat) (SMap Tile) :=
  match s.hwRead cl ctx (s.areaOf cl ctx + tilesAreaOff) 2048 with
  | .error e => .error e
  | .ok b => .ok (nums.filterMap (fun n => (tileOf ctx (imageWord b (8 * n) 8)).map (fun t => (n, t))))

/-- The stacks of a workgroup as the TRAV shadow holds them. -/
def State.readStacks (s : State) (cl ctx slot : Nat) : SMap Nat → Except (Nat × Nat) (SMap RayStack)
  | [] => .ok []
  | (n, chip) :: t =>
    match s.hwRead cl ctx (s.areaOf cl ctx + travAreaOff + 512 * n) 512 with
    | .error e => .error e
    | .ok b =>
      match s.readStacks cl ctx slot t with
      | .error e => .error e
      | .ok l => .ok ((n, { ctx := ctx, wgslot := slot, chip := entriesOf chip b }) :: l)

/-- The queues of a workgroup as the queue memory image holds them. -/
def Wg.queuesFrom (g : Wg) (b : List Byte) : List WaveQueue :=
  (rangeFrom 0 g.queues.length).map (fun n =>
    let q := g.queues.getD n { depth := 0, entries := [] }
    { q with entries := (rangeFrom 0 q.entries.length).map (fun i =>
        BitVec.ofNat 64 (imageWord b (g.queueOff n i - g.queueOff 0 0) 8)) })

/-- What the images of a workgroup hold: waves, queues, tiles, stacks, plane and vault bytes. -/
structure Restored where
  waves : SMap Wave
  queues : List WaveQueue
  plane : Option Plane
  tiles : SMap Tile
  rayStacks : SMap RayStack
  vault : List Byte

/-- Reads every image of a workgroup that is away. -/
def State.readAway (s : State) (cl slot : Nat) (a : Away) : Except (Nat × Nat) Restored := do
  let ctx := a.wg.ctx
  let waves ← s.readWaves cl ctx a.wg.wgx a.waves
  let queueN := 8 * (a.wg.queues.map WaveQueue.depth).foldl (· + ·) 0
  let queues ← s.hwRead cl ctx (s.areaOf cl ctx + queueAreaOff + a.wg.queueOff 0 0) queueN
  let plane ← match a.plane with
    | none => .ok none
    | some p => (s.hwRead cl ctx (s.areaOf cl ctx + planeAreaOff) (80 * 4096)).map (fun b => some (p.fromShadow b))
  let tiles ← if a.tileNums.isEmpty then .ok [] else s.readTiles cl ctx a.tileNums
  let rayStacks ← s.readStacks cl ctx slot a.rayStacks
  let vault ← s.hwRead cl ctx (s.areaOf cl ctx + a.wg.vaultLo * 4096) (a.wg.vaultN * 4096)
  pure { waves := waves, queues := a.wg.queuesFrom queues, plane := plane, tiles := tiles, rayStacks := rayStacks, vault := vault }

/-- The line uses of reading every image of a workgroup that is away. -/
def State.awayUses (s : State) (cl : Nat) (a : Away) : List (Nat × LineUse) :=
  let ctx := a.wg.ctx
  let area := s.areaOf cl ctx
  let parts : List (Nat × Nat) :=
    a.waves.flatMap (fun x =>
      (s.saveArea cl ctx x.1, 2048) ::
        (rangeFrom 0 x.2.bound).map (fun r => (s.backingAddr (s.ctxOf ctx) cl a.wg.wgx x.2.wnum r, 512))) ++
    [(area + queueAreaOff + a.wg.queueOff 0 0, 8 * (a.wg.queues.map WaveQueue.depth).foldl (· + ·) 0)] ++
    (if a.plane.isSome then [(area + planeAreaOff, 80 * 4096)] else []) ++
    (if a.tileNums.isEmpty then [] else [(area + tilesAreaOff, 2048)]) ++
    a.rayStacks.map (fun x => (area + travAreaOff + 512 * x.1, 512)) ++
    [(area + a.wg.vaultLo * 4096, a.wg.vaultN * 4096)]
  parts.flatMap (fun x => s.areaUses cl ctx x.1 x.2)

/-- Inserts the entries of a table into another. -/
def mputAll {α : Type} (m l : SMap α) : SMap α := l.foldl (fun m e => mset m e.1 e.2) m

/-- Step 1 of the merge: the workgroup stands on its cluster again, its waves not yet running, with the bases its waves
are given; its entries are set to MERGING (step 2). -/
def State.installAway (s : State) (cl slot : Nat) (a : Away) (r : Restored) (base : Nat → Nat) : State :=
  let k := s.cluster cl
  let ctx := a.wg.ctx
  let mine (e : DivEntry) : Bool := e.ctx == ctx && (e.kind == .sems || e.wgslot == slot)
  s.setCluster cl { k with
    waves := mputAll k.waves (r.waves.map (fun x => (x.1, { x.2 with base := base x.1, wgslot := slot })))
    wgs := mset k.wgs slot { a.wg with stopped := true, queues := r.queues }
    tiles := mputAll k.tiles r.tiles, rayStacks := mputAll k.rayStacks r.rayStacks
    plane := r.plane.or k.plane
    vaultOwner := (rangeFrom a.wg.vaultLo a.wg.vaultN).foldl (fun m n => mset m n ctx) k.vaultOwner
    div := k.div.map (fun e => (e.1, if mine e.2 then { e.2 with state := .merging } else e.2))
    away := mset k.away (awayKey ctx slot) { a with merging := true } }

/-- A workgroup that cannot come back is lost (08 R134). -/
def State.loseAway (s : State) (cl ctx slot : Nat) : State :=
  let k := s.cluster cl
  let mine (c w : Nat) : Bool := c == ctx && w == slot
  let s := if k.away.any (fun a => a.1 == awayKey ctx slot && a.2.merging) then
      s.setCluster cl { k with
        waves := k.waves.filter (fun x => !mine x.2.ctx x.2.wgslot), wgs := mdel k.wgs slot
        tiles := k.tiles.filter (fun x => !mine x.2.ctx x.2.owner)
        rayStacks := k.rayStacks.filter (fun x => !mine x.2.ctx x.2.wgslot)
        plane := k.plane.filter (fun p => !mine p.ctx p.wgslot)
        div := k.div.map (fun e =>
          (e.1, if mine e.2.ctx e.2.wgslot && e.2.kind ≠ .sems && e.2.state = .merging then
            { e.2 with state := .active } else e.2)) }
    else s
  s.updAway cl (awayKey ctx slot) (fun a => { a with mode := .lost, merging := false })

/-- A wave comes back with what its image holds and, in BWAIT, its outcome (08 R138, step 4). -/
def Away.wave (a : Away) (row : Nat) (now restored : Wave) : Wave :=
  { restored with
    base := now.base, draining := now.draining, held := now.held, drainFlags := now.drainFlags ||| restored.drainFlags
    lostFlt := now.lostFlt || restored.lostFlt
    bwait := match now.bwait, mget a.wake row with
      | some b, some o => some { b with outcome := some o }
      | b, _ => b }

/-- A wave in BWAIT whose outcome is none stands among its line's waiters again; a line that no longer waits on its
generation gives it an outcome (08 R138, step 4) (DEDUCED, log 75). -/
def State.rewait (s : State) (cl row : Nat) : State :=
  match s.waveAt? cl row with
  | none => s
  | some w =>
    match w.bwait with
    | some { line := pa, gen := g, outcome := none } =>
      let n := s.lineHome pa
      let x := s.slice n
      let t := w.tag cl row
      if x.waiters.any (fun e => e.line == pa && e.tag == t) then s
      else
        let l := s.barrierLine pa
        if l.state ≠ barrierValid then s.wake t l.gen l.code
        else if l.gen ≠ g then s.wake t l.gen outcomeReleased
        else s.setSlice n { x with waiters := x.waiters ++ [{ line := pa, gen := g, tag := t }] }
    | _ => s

/-- Steps 3 and 4 for a workgroup. -/
def State.mergeWg (s : State) (cl slot : Nat) (a : Away) (r : Restored) : State :=
  let k := s.cluster cl
  let waves := k.waves.map (fun x =>
    (x.1, match if x.2.wgslot = slot then mget r.waves x.1 else none with
      | some w => a.wave x.1 x.2 w
      | none => x.2))
  let s := s.setCluster cl { k with
    waves := waves, tiles := mputAll k.tiles r.tiles, rayStacks := mputAll k.rayStacks r.rayStacks
    plane := r.plane.or k.plane
    wgs := mupd k.wgs slot (fun g => { g with queues := r.queues })
    away := mdel k.away (awayKey a.wg.ctx slot) }
  let s := { s with mem := memWrite s.mem (vaultBase + cl * vaultBytes + 4096 * a.wg.vaultLo) r.vault }
  ((s.cluster cl).wavesOf slot).foldl (fun s x => s.rewait cl x.1) s

/-- A logged record, or a lost-fault trap, is due to a wave (08 R142). -/
def State.owesRecord (s : State) (cl : Nat) (w : Wave) : Bool := (s.dueRecord cl w).isSome || w.lostFlt

/-- The waves of a workgroup that has come back run again; a record answered by DELIVER, or whose area could not be
written, is delivered (11 R188, R191). A wave that had executed EXIT and is owed a logged record is LEASED again, as R169
gives for one that a record reaches (08 R142). -/
def State.wakeWg (s : State) (cl slot : Nat) : State :=
  let s := s.updWg cl slot (fun g => { g with stopped := false, escalated := false })
  ((s.cluster cl).wavesOf slot).foldl (fun s x =>
    match x.2.pending with
    | none =>
      if x.2.draining && s.owesRecord cl x.2 then s.updWave cl x.1 (fun w => { w with draining := false }) else s
    | some r =>
      (s.updWave cl x.1 (fun w => { w with pending := none, redeliver := false })).deliver cl x.1 r) s

/-- The counts of a file that comes back: COUNT + DELTA, modulo 2^32. -/
def semsFrom (b : List Byte) : SMap Sem :=
  (rangeFrom 0 64).foldl (fun m n =>
    let c := (imageWord b (16 * n) 4 + imageWord b (16 * n + 4) 4) % 2 ^ 32
    msetD m n {} { count := c }) []

/-- Merges a context's semaphore file. -/
def State.mergeSems (s : State) (cl ctx : Nat) : State :=
  match s.readArea cl ctx (s.areaOf cl ctx + semsAreaOff) 1024 with
  | .error e => (s.hwFault cl ctx e.1 e.2 0 0 0).markPending ctx
  | .ok (b, s) =>
    let k := s.cluster cl
    s.setCluster cl { k with
      slots := k.slots.map (fun x => (x.1, if x.2.ctx == ctx then { x.2 with sems := semsFrom b } else x.2)) }

/-- Steps 3 to 6 of the merge under way on a cluster. -/
def State.finishMerge (s : State) (cl : Nat) : State :=
  let mine := ((s.cluster cl).div.map Prod.snd).filter (fun e => e.state == .merging)
  let s := (mine.filter (fun e => e.kind == .sems)).foldl (fun s e => s.mergeSems cl e.ctx) s
  let s := (mine.filter (fun e => e.kind == .regs)).foldl (fun s e =>
    match mget (s.cluster cl).away (awayKey e.ctx e.wgslot) with
    | none => s
    | some a =>
      match s.readAway cl e.wgslot a with
      | .ok r => (s.charge (s.awayUses cl a)).mergeWg cl e.wgslot a r
      | .error f => (s.hwFault cl e.ctx f.1 f.2 0 0 0).loseAway cl e.ctx e.wgslot) s
  let k := s.cluster cl
  let s := s.setCluster cl { k with div := k.div.filter (fun e => e.2.state ≠ .merging) }
  let s := s.releaseArrivals cl
  -- workgroups that resumed, and workgroups that waited only for their context's file
  let s := s.returnMill cl
  let waiting := ((s.cluster cl).wgs.filter (fun g =>
    g.2.stopped && mine.any (fun e => e.ctx == g.2.ctx && (e.kind == .sems || e.wgslot == g.1)))).map Prod.fst
  waiting.foldl (fun s slot => s.wakeWg cl slot) s

/-- MERGE_DRAINED on the cluster that State.subj names: the redirected writes outstanding have performed. -/
def execMergeDrained (s : State) : Host.Outcome State Fault Refusal :=
  let cl := s.subj.a
  if (s.cluster cl).div.any (fun e => e.2.state == .merging) then .next (s.finishMerge cl) else .next s

end Sys2Proof.Machine
end

