-- ==== Sys2Proof/Machine/Sched.lean ====
section
/-!
DEFINITION. Where workgroups run: the resources a workgroup needs and takes, the workgroups it displaces, starting, resuming
and ending, spawn bins, and the governor's windows (00 R3; 01 R21, R22; 03 R48, R49; 05 R97, R98; 08 R138, R140; 10 R161 to
R185; 11 R193; 17 R294).
-/
namespace Sys2Proof.Machine

/-! ### What a workgroup needs (10 R165; 08 R138) -/

/-- The resources a workgroup needs; a place that is none may be anywhere. key names the workgroup among those away. -/
structure Want where
  ctx : Nat
  prio : Nat
  key : Option Nat := none
  rows : List Nat
  bound : Nat
  vaultN : Nat
  vault : Option Nat := none
  queueN : Nat
  queue : Option Nat := none
  slot : Option Nat := none
  plane : Bool := false
  tiles : List Nat := []
  rayStacks : List Nat := []
  deriving DecidableEq, Repr

/-- The places a workgroup is given. -/
structure Place where
  slot : Nat
  vault : Nat
  queue : Nat
  bases : SMap Nat
  deriving DecidableEq, Repr

def sectorRows : Nat := 512
def vaultGranules : Nat := 4096
def queueEntries : Nat := 8192
def wgSlots : Nat := 64
def ctxSlots : Nat := 4

/-- The lowest place for n units below a limit, clear of spans in use (DESIGN CHOICE, log 19). -/
def lowestFit (limit n : Nat) (used : List (Nat × Nat)) : Option Nat :=
  if n = 0 then some 0
  else leastBy id ((0 :: used.map (fun u => u.1 + u.2)).filter (fun c =>
    decide (c + n ≤ limit) && used.all (fun u => u.2 == 0 || !overlaps c n u.1 u.2)))

/-- A fixed place clear of spans in use, or the lowest that fits. -/
def fitAt (limit n : Nat) (at' : Option Nat) (used : List (Nat × Nat)) : Option Nat :=
  match at' with
  | none => lowestFit limit n used
  | some c => if n = 0 || used.all (fun u => u.2 == 0 || !overlaps c n u.1 u.2) then some c else none

/-- Queue memory of a workgroup, in entries. -/
def Wg.queueN (g : Wg) : Nat := (g.queues.map WaveQueue.depth).foldl (· + ·) 0

/-- The workgroups of a context that are away and keep their places from its others (08 R140). -/
def Cluster.reservers (k : Cluster) (ctx : Nat) (but : Option Nat) : List (Nat × Away) :=
  k.away.filter (fun a => a.2.wg.ctx == ctx && !a.2.merging && some a.1 ≠ but)

/-- Register rows in use in a sector. -/
def Cluster.regsUsed (k : Cluster) (sec : Nat) : List (Nat × Nat) :=
  (k.waves.filter (fun x => x.1 / 16 == sec)).map (fun x => (x.2.base, x.2.bound))

/-- Vault granules in use, or reserved against a context. -/
def Cluster.vaultUsed (k : Cluster) (ctx : Nat) (but : Option Nat) : List (Nat × Nat) :=
  (k.wgs ++ k.ended).map (fun g => (g.2.vaultLo, g.2.vaultN)) ++
    (k.reservers ctx but).map (fun a => (a.2.wg.vaultLo, a.2.wg.vaultN))

/-- Queue memory in use, or reserved against a context. -/
def Cluster.queueUsed (k : Cluster) (ctx : Nat) (but : Option Nat) : List (Nat × Nat) :=
  k.wgs.map (fun g => (g.2.qLo, g.2.queueN)) ++
    (k.reservers ctx but).map (fun a => (a.2.wg.qLo, a.2.wg.queueN))

/-- A row may be given to a workgroup of a context. -/
def Cluster.rowFree (k : Cluster) (ctx : Nat) (but : Option Nat) (row : Nat) : Bool :=
  (mget k.waves row).isNone && (k.reservers ctx but).all (fun a => (mget a.2.waves row).isNone)

/-- A workgroup slot may be given to a workgroup of a context. -/
def Cluster.wgSlotFree (k : Cluster) (ctx : Nat) (but : Option Nat) (n : Nat) : Bool :=
  (mget k.wgs n).isNone && (mget k.ended n).isNone && (k.reservers ctx but).all (fun a => a.1 % 64 ≠ n)

def Cluster.planeFree (k : Cluster) (ctx : Nat) (but : Option Nat) : Bool :=
  k.plane.isNone && (k.reservers ctx but).all (fun a => a.2.plane.isNone)

/-- A slot for a workgroup: its own, or the lowest free. -/
def Cluster.slotFor (k : Cluster) (w : Want) : Option Nat :=
  match w.slot with
  | some n => if k.wgSlotFree w.ctx w.key n then some n else none
  | none => firstBelow (k.wgSlotFree w.ctx w.key) wgSlots 0

/-- Register bases for rows in turn, each the lowest that fits in its sector. -/
def Cluster.basesFor (k : Cluster) (bound : Nat) : List Nat → SMap Nat → Option (SMap Nat)
  | [], m => some m
  | row :: t, m =>
    let taken := (m.filter (fun x => x.1 / 16 == row / 16)).map (fun x => (x.2, bound))
    match lowestFit sectorRows bound (k.regsUsed (row / 16) ++ taken) with
    | some b => k.basesFor bound t (mset m row b)
    | none => none

/-- What a workgroup lacks on a cluster. -/
structure Lack where
  rows : List Nat
  regs : List Nat
  vault : Bool
  queue : Bool
  slot : Bool
  plane : Bool
  tiles : List Nat
  rayStacks : List Nat
  deriving DecidableEq, Repr

def Cluster.lack (k : Cluster) (w : Want) : Lack :=
  let secs := (rangeFrom 0 4).filter (fun sec =>
    (k.basesFor w.bound (w.rows.filter (fun r => r / 16 == sec)) []).isNone)
  let reserved := (k.reservers w.ctx w.key).flatMap (fun a => a.2.tileNums)
  let kept := (k.reservers w.ctx w.key).flatMap (fun a => a.2.rayStacks.map Prod.fst)
  { rows := w.rows.filter (fun r => !k.rowFree w.ctx w.key r)
    regs := secs
    vault := (fitAt vaultGranules w.vaultN w.vault (k.vaultUsed w.ctx w.key)).isNone
    queue := (fitAt queueEntries w.queueN w.queue (k.queueUsed w.ctx w.key)).isNone
    slot := (k.slotFor w).isNone
    plane := w.plane && !k.planeFree w.ctx w.key
    tiles := w.tiles.filter (fun n => (mget k.tiles n).isSome || reserved.contains n)
    rayStacks := w.rayStacks.filter (fun n => (mget k.rayStacks n).isSome || kept.contains n) }

def Lack.isEmpty (l : Lack) : Bool :=
  l.rows.isEmpty && l.regs.isEmpty && !l.vault && !l.queue && !l.slot && !l.plane && l.tiles.isEmpty && l.rayStacks.isEmpty

/-- The places for a workgroup, if every resource it needs is free. -/
def Cluster.place (k : Cluster) (w : Want) : Option Place :=
  if !(k.lack w).isEmpty then none
  else
    match k.slotFor w, k.basesFor w.bound w.rows [] with
    | some slot, some bases =>
      some { slot := slot, bases := bases
             vault := (fitAt vaultGranules w.vaultN w.vault (k.vaultUsed w.ctx w.key)).getD 0
             queue := (fitAt queueEntries w.queueN w.queue (k.queueUsed w.ctx w.key)).getD 0 }
    | _, _ => none

/-! ### Whom a workgroup displaces (01 R22; 11 R193) -/

/-- The cluster as it would stand without some workgroups. -/
def Cluster.minus (k : Cluster) (slots : List Nat) : Cluster :=
  let gone (ctx slot : Nat) : Bool := slots.any (fun n => n == slot && (mget k.wgs n).any (fun g => g.ctx == ctx))
  { k with
    waves := k.waves.filter (fun x => !gone x.2.ctx x.2.wgslot), wgs := k.wgs.filter (fun g => !slots.contains g.1)
    tiles := k.tiles.filter (fun x => !gone x.2.ctx x.2.owner)
    rayStacks := k.rayStacks.filter (fun x => !gone x.2.ctx x.2.wgslot)
    plane := k.plane.filter (fun p => !gone p.ctx p.wgslot) }

/-- A workgroup holds part of what is lacking. -/
def Cluster.holdsPart (k : Cluster) (w : Want) (l : Lack) (slot : Nat) (g : Wg) : Bool :=
  let rows := (k.wavesOf slot).map Prod.fst
  rows.any l.rows.contains || rows.any (fun r => l.regs.contains (r / 16)) ||
    (l.vault && decide (0 < g.vaultN) &&
      (match w.vault with
        | some c => overlaps c w.vaultN g.vaultLo g.vaultN
        | none => true)) ||
    (l.queue && decide (0 < g.queueN) &&
      (match w.queue with
        | some c => overlaps c w.queueN g.qLo g.queueN
        | none => true)) ||
    (l.slot && (match w.slot with
        | some n => n == slot
        | none => true)) ||
    (l.plane && (k.planeOf g.ctx slot).isSome) ||
    (k.tilesOf g.ctx slot).any (fun t => l.tiles.contains t.1) ||
    (k.stacksOf g.ctx slot).any (fun t => l.rayStacks.contains t.1)

/-- Priority of a context that holds a slot (01 R22). -/
def State.holderPrio (s : State) (cl ctx : Nat) : Nat :=
  let k := s.cluster cl
  let ps := (k.wgs.map Prod.snd ++ k.away.map (fun a => a.2.wg)).filterMap (fun g => if g.ctx = ctx then some g.prio else none)
  match ps with
  | [] => (s.ctxOf ctx).prio
  | p :: t => t.foldl max p

/-- When a context's most recently started workgroup on a cluster started. One that has ended counts until it has left its
vault range (DESIGN CHOICE, log 100). -/
def Cluster.lastStart (k : Cluster) (ctx : Nat) : Nat :=
  (k.wgs.map Prod.snd ++ k.away.map (fun a => a.2.wg) ++ k.ended.map Prod.snd).foldl
    (fun m g => if g.ctx = ctx then max m g.startStamp else m) 0

/-- A number that orders the lowest priority first, and the latest start first among equals. -/
def victimKey (prio stamp : Nat) : Nat := prio * 2 ^ 64 + (2 ^ 64 - 1 - stamp)

/-- The context whose slot a workgroup may take: the one of lowest priority, if it is strictly lower. -/
def State.slotVictim (s : State) (cl prio : Nat) : Option Nat :=
  let k := s.cluster cl
  match leastBy (fun c => victimKey (s.holderPrio cl c) (k.lastStart c)) (k.slots.map (fun x => x.2.ctx)) with
  | some c => if s.holderPrio cl c < prio then some c else none
  | none => none

/-- Marks candidates in turn, until the workgroup has all it needs: the slots marked. -/
def Cluster.mark (k : Cluster) (w : Want) : List (Nat × Wg) → List Nat → Option (List Nat)
  | [], marked => if ((k.minus marked).place w).isSome then some marked else none
  | c :: t, marked =>
    let k' := k.minus marked
    if (k'.place w).isSome then some marked
    else if k'.holdsPart w (k'.lack w) c.1 c.2 then k.mark w t (marked ++ [c.1])
    else k.mark w t marked

/-- The workgroup's context holds a slot, or one is free. -/
def State.slotOpen (s : State) (cl ctx : Nat) : Bool := s.holdsSlot cl ctx || decide ((s.cluster cl).slots.length < ctxSlots)

/-- The evictions that would give a workgroup all it lacks: workgroup slots, and the context whose slot is taken. -/
def State.evictPlan (s : State) (cl : Nat) (w : Want) : Option (List Nat × Option Nat) :=
  let k := s.cluster cl
  if !k.divQuiet then none
  else
    let taken : Option (Option Nat) :=
      if s.slotOpen cl w.ctx then some none else (s.slotVictim cl w.prio).map some
    match taken with
    | none => none
    | some ctx =>
      let marked := match ctx with
        | some c => (k.wgs.filter (fun g => g.2.ctx == c)).map Prod.fst
        | none => []
      let prio (g : Wg) : Nat := s.holderPrio cl g.ctx
      let cands := sortBy (fun g => victimKey (prio g.2) g.2.startStamp)
        (k.wgs.filter (fun g => g.2.ctx ≠ w.ctx && decide (prio g.2 < w.prio) && !marked.contains g.1))
      match k.mark w cands marked with
      | none => none
      | some slots => if k.divRoom (s.entriesNeeded cl slots ctx.isSome) then some (slots, ctx) else none

/-- A workgroup can start or resume at once: its places, with a context slot held or free. -/
def State.placeNow (s : State) (cl : Nat) (w : Want) : Option Place :=
  if s.slotOpen cl w.ctx then (s.cluster cl).place w else none

/-! ### The order of those that wait (10 R165) -/

/-- What the workgroup of a start-queue entry needs. -/
def State.wantOf (s : State) (e : StartEntry) : Option (Want × Launch × MapEntry) :=
  match mget s.launches e.launch with
  | none => none
  | some l =>
    (l.entries[e.index]?).map (fun m =>
      ({ ctx := l.ctx, prio := l.prio, rows := m.waves.map Prod.snd, bound := l.hdr.regs, vaultN := l.hdr.vaultG
         queueN := l.hdr.qdepth.foldl (· + ·) 0, plane := l.hdr.plane }, l, m))

/-- What a workgroup that is away needs to come back. -/
def Away.want (a : Away) (key : Nat) : Want :=
  { ctx := a.wg.ctx, prio := a.wg.prio, key := some key, rows := a.waves.map Prod.fst
    bound := ((a.waves.head?).map (fun x => x.2.bound)).getD 8
    vaultN := a.wg.vaultN, vault := some a.wg.vaultLo, queueN := a.wg.queueN, queue := some a.wg.qLo
    slot := some (key % 64), plane := a.plane.isSome, tiles := a.tileNums, rayStacks := a.rayStacks.map Prod.fst }

/-- A workgroup that waits to resume. -/
def Away.waits (a : Away) : Bool := (a.mode == .evicted || a.mode == .answered) && !a.merging

/-- Those a cluster considers, in order: by priority, resuming workgroups before the head of the start queue. -/
def State.waitingOn (s : State) (cl : Nat) : List Want :=
  let k := s.cluster cl
  let back := (sortBy (fun a => a.2.order) (k.away.filter (fun a => a.2.waits))).map (fun a => a.2.want a.1)
  let head := (k.startQ.head?.bind s.wantOf).map Prod.fst
  sortBy (fun w => 2 ^ 32 - w.prio) (back ++ head.toList)

/-- Someone considered before a workgroup could go now, or by an eviction. -/
def State.outgone (s : State) (cl : Nat) (w : Want) : Bool :=
  ((s.waitingOn cl).takeWhile (fun x => x ≠ w)).any (fun x =>
    (s.placeNow cl x).isSome || (s.evictPlan cl x).isSome)

/-! ### Ending (10 R169, R185; 01 R21) -/

/-- The profile block of a launch on a cluster: 0x220 bytes (10 R185). -/
def Profile.bytes (p : Profile) : List Byte :=
  natToBytes 8 p.idle ++ natToBytes 8 p.outranked ++ natToBytes 16 0 ++
    (rangeFrom 0 16).flatMap (fun k =>
      natToBytes 8 (mgetD p.busy k 0) ++ natToBytes 8 (mgetD p.dep k 0) ++ natToBytes 8 (mgetD p.sync k 0) ++
        natToBytes 8 (mgetD p.budget k 0))

/-- The last wave of a launch on a cluster has exited: none is left there, away from it, or still to start. -/
def Cluster.doneWith (k : Cluster) (launch : Nat) : Bool :=
  !(k.waves.any (fun w => w.2.launch == launch && !w.2.draining) || k.away.any (fun a => a.2.wg.launch == launch) ||
    k.startQ.any (fun e => e.launch == launch))

/-- Writes bytes of one page of a launch's profile block for a context at a physical address: in memory, in a vault or its shadow, or over a link
(DESIGN CHOICE, log 96); none where the ingress of a vault holds the write. -/
def State.placeWrite (s : State) (launch ctx pa ca : Nat) (bs : List Byte) : Option State :=
  let part := s.partOfCtx ctx
  match region pa with
  | .host link => some (s.postWrite part link (pa - linkBase link) bs)
  | .peer _ =>
    let (id, s) := s.askLink part pa bs.length (.profile launch)
    some { s with peerReqs := mupd s.peerReqs id (fun r => { r with write := true, data := bs }) }
  | _ => s.vaultStore ctx pa (fun a s => (s.chargeWrite pa bs.length ca).homeStore a bs) bs.length

/-- Writes a launch's profile block in a context: the cause and address of an access that fails, or none where a write is
held. The bytes lie within one page or two. -/
def State.tableWrite (s : State) (launch cl ctx : Nat) : Nat → Nat → List Byte → Except (Option (Nat × Nat)) State
  | 0, _, _ => .ok s
  | fuel + 1, va, bs =>
    if bs.isEmpty then .ok s
    else
      let here := 4096 - va % 4096
      match s.translate cl ctx va .write with
      | .error c => .error (some (c, va))
      | .ok (pa, attr) =>
        match (s.cacheUse cl ctx va).placeWrite launch ctx pa (attrCa attr) (bs.take here) with
        | none => .error none
        | some s => s.tableWrite launch cl ctx fuel ((va + here) % 2 ^ 64) (bs.drop here)

/-- The last wave of a launch on a cluster has exited: its profile block is written (10 R185). A write that is held is made
again later. -/
def State.settleProfile (s : State) (cl launch : Nat) : State :=
  match mget s.launches launch with
  | none => s
  | some l =>
    let k := s.cluster cl
    if !l.profiling.contains cl || !k.doneWith launch then s
    else
      let settled : State := { s with launches := mset s.launches launch { l with profiling := without cl l.profiling } }
      match mget k.profiles launch with
      | none => settled
      | some p =>
        let settled := settled.setCluster cl { k with profiles := mdel k.profiles launch }
        match settled.tableWrite launch cl l.ctx 3 ((l.hdr.profile + cl * 0x400) % 2 ^ 64) p.bytes with
        | .ok s' => s'
        | .error (some e) => settled.hwFault cl l.ctx e.1 e.2 3 0 0
        | .error none => s

/-- A workgroup of a launch has ended, or will never run (DEDUCED, log 61). -/
def State.countEnd (s : State) (cl launch : Nat) : State :=
  { s with launches := mupd s.launches launch (fun l => { l with left := l.left - 1 }) }.settleProfile cl launch

/-- Records that name a workgroup which ends are the host's alone (08 R141). -/
def State.settleLog (s : State) (cl ctx wgx : Nat) : State :=
  match s.readLog cl ctx with
  | .ok h =>
    (s.charge (s.areaUses cl ctx (s.ctxOf ctx).flog 64)).settleRecords cl ctx wgx h ((h.write + 2 ^ 32 - h.free) % 2 ^ 32) h.free
  | .error _ => s

/-- The Millrace of a workgroup that ends is free, and so is what was put aside for it (20 R308). -/
def State.freeMill (s : State) (cl ctx slot : Nat) : State :=
  let s := if (s.myMill cl ctx slot).isSome then s.setMill cl none else s
  { s with ctxs := mupd s.ctxs ctx (fun c =>
      { c with mills := c.mills.filter (fun x => !(x.1 == cl && x.2.wgslot == slot)) }) }.returnMill cl

/-- A workgroup's last wave has exited: all but its vault range is free (03 R49; 10 R169; 24 R339) (DEDUCED, log 52). -/
def State.endWg (s : State) (cl slot : Nat) (g : Wg) : State :=
  let k := s.cluster cl
  let s := s.setCluster cl { k with
    wgs := mdel k.wgs slot, ended := mset k.ended slot g
    rayStacks := k.rayStacks.filter (fun x => !(x.2.ctx == g.ctx && x.2.wgslot == slot)) }
  let s := (s.freeMill cl g.ctx slot).settleLog cl g.ctx g.wgx
  (s.countEnd cl g.launch).settleSlot cl g.ctx

/-- A return is owed to a wave's registers, or a job of it that names no semaphore is not complete. -/
def State.owesWave (s : State) (t : WTag) : Bool :=
  (s.opsOf t).any (fun o => !o.2.owed.isEmpty) || s.jobs.any (fun j => j.2.sem.isNone && j.2.tags.contains t)

/-- LEASE_FREE of the cluster and row that State.subj names (10 R169). -/
def execLeaseFree (s : State) : Host.Outcome State Fault Refusal :=
  let cl := s.subj.a
  let row := s.subj.b
  match s.waveAt? cl row with
  | none => .next s
  | some w =>
    if !w.draining || s.owesWave (w.tag cl row) || (s.wgEntry cl w.ctx w.wgslot .regs).isSome then .next s
    else
      let k := s.cluster cl
      let s := s.setCluster cl { k with waves := mdel k.waves row }
      match mget k.wgs w.wgslot with
      | none => .next s
      | some g => if ((s.cluster cl).wavesOf w.wgslot).isEmpty then .next (s.endWg cl w.wgslot g) else .next s

/-- A tag names a wave of a workgroup. -/
def Wg.names (g : Wg) (cl slot : Nat) (t : WTag) : Bool :=
  t.ctx == g.ctx && t.cl == cl && t.wgslot == slot && t.wgx == g.wgx && t.launch == g.launch

/-- Accesses or jobs of a workgroup are not done. -/
def State.wgBusy (s : State) (cl slot : Nat) (g : Wg) : Bool :=
  s.accesses.any (fun x => !x.2.performed && g.names cl slot x.2.tag) ||
    s.jobs.any (fun j => j.2.tags.any (g.names cl slot)) || s.traversals.any (fun t => g.names cl slot t.2.tag)

/-- VAULT_RELEASE of the cluster and workgroup slot that State.subj names (03 R49). -/
def execVaultRelease (s : State) : Host.Outcome State Fault Refusal :=
  let cl := s.subj.a
  let slot := s.subj.b
  let k := s.cluster cl
  match mget k.ended slot with
  | none => .next s
  | some g =>
    if s.wgBusy cl slot g || (k.planeOf g.ctx slot).isSome then .next s
    else
      let s := s.setCluster cl { k with
        ended := mdel k.ended slot, tiles := k.tiles.filter (fun t => !(t.2.ctx == g.ctx && t.2.owner == slot)) }
      .next (s.settleSlot cl g.ctx)

/-- PLANE_RELEASE on the cluster that State.subj names (10 R172): the last wave of its holder has exited and its transfers have
landed. -/
def execPlaneRelease (s : State) : Host.Outcome State Fault Refusal :=
  let cl := s.subj.a
  match (s.cluster cl).plane with
  | none => .next s
  | some p =>
    if ((s.cluster cl).wavesOf p.wgslot).any (fun w => w.2.ctx == p.ctx && !w.2.draining) ||
        s.jobs.any (fun j => j.2.isPlane && j.2.tags.any (fun t => t.cl == cl && t.ctx == p.ctx && t.wgslot == p.wgslot)) then .next s
    else .next (s.setPlane cl none)

/-- WORKGROUP_LOST of the cluster and workgroup that State.subj names: killed, or unable to come back, and its jobs have
landed (08 R134; 11 R191) (DESIGN CHOICE, log 47). -/
def execWorkgroupLost (s : State) : Host.Outcome State Fault Refusal :=
  let cl := s.subj.a
  let key := s.subj.b
  match mget (s.cluster cl).away key with
  | none => .next s
  | some a =>
    let g := a.wg
    let slot := key % 64
    if (a.mode ≠ .killed && a.mode ≠ .lost) || s.wgBusy cl slot g then .next s
    else
      let k := s.cluster cl
      let s := s.setCluster cl { k with
        away := mdel k.away key
        div := k.div.filter (fun e => !(e.2.ctx == g.ctx && e.2.wgslot == slot && e.2.kind ≠ .sems)) }
      let s := (s.freeMill cl g.ctx slot).settleLog cl g.ctx g.wgx
      let s := s.postFault (s.partOfCtx g.ctx) (fqEntry 4 g.ctx cl slot 0 0 0 0)
      .next ((s.countEnd cl g.launch).settleSlot cl g.ctx)

/-- No workgroup starts or resumes while the partition's checkpoint is in progress (08 R143), or once it is out of service
(25 R362). -/
def State.freezing (s : State) (cl : Nat) : Bool :=
  s.outOfService cl || ((s.partOfCluster cl).bind (mget s.parts)).any Part.checkpointing

/-! ### Starting (10 R165, R166, R174, R175; 17 R294) -/

/-- The lowest backing index that no live workgroup of a context holds on a cluster. -/
def Cluster.backingIndex (k : Cluster) (ctx : Nat) : Nat :=
  let held := (k.wgs.map Prod.snd ++ k.away.map (fun a => a.2.wg)).filterMap (fun g => if g.ctx = ctx then some g.wgx else none)
  (firstBelow (fun x => !held.contains x) 64 0).getD 0

/-- A context comes to hold a slot: one it has, or the lowest free one, whose file is merged if it was put aside (08
R138) (DESIGN CHOICE, log 9) (DESIGN CHOICE, log 54). -/
def State.gainSlot (s : State) (cl ctx : Nat) : State :=
  if s.holdsSlot cl ctx then s
  else
    let k := s.cluster cl
    let n := (firstBelow (fun i => (mget k.slots i).isNone) ctxSlots 0).getD 0
    let c : CtxSlot := { ctx := ctx, sems := [], units := 0 }
    s.setCluster cl { k with
      slots := mset k.slots n c
      div := k.div.map (fun e => (e.1, if e.2.kind = .sems && e.2.ctx = ctx then { e.2 with state := .merging } else e.2)) }

/-- Granules handed to a context are cleared if another held them last (03 R49). -/
def State.claimVault (s : State) (cl ctx lo n : Nat) : State :=
  let k := s.cluster cl
  let stale := (rangeFrom lo n).filter (fun g => (mget k.vaultOwner g).any (fun c => c ≠ ctx))
  let mem := stale.foldl (fun m g => memClear m (vaultBase + cl * vaultBytes + 4096 * g) 4096) s.mem
  { s.setCluster cl { k with vaultOwner := (rangeFrom lo n).foldl (fun m g => mset m g ctx) k.vaultOwner } with mem := mem }

/-- A plane as it is acquired (10 R172). -/
def Plane.acquired (ctx slot : Nat) : Plane :=
  { ctx := ctx, wgslot := slot, cells := [], enable := BitVec.allOnes 4096, stack := [], flags := [], wm1 := 63, hm1 := 63
    en := 0b11100 }

/-- A wave as it starts (17 R294; 11 R197). Bits [1:0] of a pc are zero (12 R201). -/
def State.newWave (s : State) (ctx slot wgx launch base bound pc prio : Nat) : Wave :=
  let c := s.ctxOf ctx
  { Wave.zero with
    ctx := ctx, wgslot := slot, wgx := wgx, launch := launch, prio := prio, base := base, bound := bound
    pc := pc / 4 * 4, tvec := c.tvec &&& tvecBits, dlvSeq := c.seq, needEntry := true, wnum := 0, stage := 0 }

/-- Adds a wave to a cluster with a new age stamp. -/
def State.addWave (s : State) (cl row : Nat) (w : Wave) : State :=
  let k := s.cluster cl
  s.setCluster cl { k with waves := mset k.waves row { w with age := k.ageCtr }, ageCtr := k.ageCtr + 1 }

/-- Grid coordinates of a linear index. -/
def MapHeader.coords (h : MapHeader) (i : Nat) : Nat × Nat × Nat := (i % h.gx, i / h.gx % h.gy, i / (h.gx * h.gy))

/-- Starts the waves of a workgroup, from wave number n on. -/
def State.startWaves (s : State) (cl : Nat) (l : Launch) (launch slot wgx : Nat) (p : Place) :
    List (Nat × Nat) → Nat → State
  | [], _ => s
  | (stage, row) :: t, n =>
    let args := (rangeFrom 0 4).foldl (fun m i => msetD m i 0 (l.args.getD i 0)) []
    let w := { s.newWave l.ctx slot wgx launch (mgetD p.bases row 0) l.hdr.regs l.kernel l.prio with
      s := args, wnum := n, stage := stage, spTmo := l.hdr.tmo, spBound := l.hdr.spRegs }
    (s.addWave cl row w).startWaves cl l launch slot wgx p t (n + 1)

/-- Starts the head of a start queue at its places. Its waves start with an IFENCE (02 R44). -/
def State.startWg (s : State) (cl : Nat) (e : StartEntry) (l : Launch) (m : MapEntry) (p : Place) : State :=
  let s := (s.gainSlot cl l.ctx).dropBlocks cl l.ctx
  let s := s.claimVault cl l.ctx p.vault l.hdr.vaultG
  let k := s.cluster cl
  let wgx := k.backingIndex l.ctx
  let (x, y, z) := l.hdr.coords e.index
  let (stamp, s) := s.newId
  let g : Wg :=
    { Wg.zero with
      ctx := l.ctx, launch := e.launch, prio := l.prio, x := x, y := y, z := z, wgx := wgx, rows := m.waves.map Prod.snd
      vaultLo := p.vault, vaultN := l.hdr.vaultG, qLo := p.queue
      queues := l.hdr.qdepth.map (fun d => ({ depth := d, entries := [] } : WaveQueue))
      plane := l.hdr.plane, startStamp := stamp, stopped := s.semWaits cl l.ctx }
  let profiles := if l.hdr.profile = 0 || (mget k.profiles e.launch).isSome then k.profiles
    else mset k.profiles e.launch {}
  let s := s.setCluster cl { k with
    wgs := mset k.wgs p.slot g, startQ := k.startQ.drop 1, profiles := profiles
    plane := if l.hdr.plane then some (Plane.acquired l.ctx p.slot) else k.plane }
  (s.startWaves cl l e.launch p.slot wgx p m.waves 0).settleLife l.ctx

/-- A workgroup placed on a retired cluster never starts (10 R166). -/
def State.neverStarts (s : State) (cl : Nat) (e : StartEntry) (l : Launch) : State :=
  let k := s.cluster cl
  let s := s.setCluster cl { k with startQ := k.startQ.drop 1 }
  (s.postFault l.part (fqEntry 4 l.ctx cl 0 0 0 0 0)).countEnd cl e.launch

/-- WORKGROUP_START on the cluster that State.subj names: the head of its start queue starts, or an eviction that makes
room for it begins. -/
def execWorkgroupStart (s : State) : Host.Outcome State Fault Refusal :=
  let cl := s.subj.a
  let k := s.cluster cl
  match k.startQ with
  | [] => .next s
  | e :: rest =>
    match s.wantOf e with
    | none => .next (s.setCluster cl { k with startQ := rest })
    | some (w, l, m) =>
      if k.retired then .next (s.neverStarts cl e l)
      else if s.freezing cl then .next s
      else if s.outgone cl w then .next s
      else match s.placeNow cl w with
        | some p => if !s.holdsSlot cl w.ctx && (s.semsEntry cl w.ctx).isSome && !k.divQuiet then .next s
                    else .next (s.startWg cl e l m p)
        | none =>
          match s.evictPlan cl w with
          | some (slots, ctx) => .next (s.beginEvict cl slots ctx)
          | none => .next s

/-- WORKGROUP_RESUME of the cluster and workgroup that State.subj names (08 R138): it is installed and its entries are set
to MERGING, or an eviction that makes room for it begins. -/
def execWorkgroupResume (s : State) : Host.Outcome State Fault Refusal :=
  let cl := s.subj.a
  let key := s.subj.b
  let k := s.cluster cl
  match mget k.away key with
  | none => .next s
  | some a =>
    let w := a.want key
    let slot := key % 64
    if !a.waits || !k.divQuiet || s.freezing cl then .next s
    else if k.retired then .next (s.loseAway cl a.wg.ctx slot)
    else if s.outgone cl w then .next s
    else match s.placeNow cl w with
      | some p =>
        if a.broken then .next (s.loseAway cl a.wg.ctx slot)
        else
          let s := s.gainSlot cl a.wg.ctx
          match s.readAway cl slot a with
          | .error e => .next ((s.hwFault cl a.wg.ctx e.1 e.2 0 0 0).loseAway cl a.wg.ctx slot)
          | .ok r =>
            .next (((s.charge (s.awayUses cl a)).installAway cl slot a r (fun row => mgetD p.bases row 0)).settleLife a.wg.ctx)
      | none =>
        match s.evictPlan cl w with
        | some (slots, ctx) => .next (s.beginEvict cl slots ctx)
        | none => .next s

/-! ### Spawn bins (10 R178 to R181) -/

/-- Rows free in a sector. -/
def Cluster.rowsFree (k : Cluster) (sec : Nat) : Nat := sectorRows - (k.regsUsed sec).foldl (fun n u => n + u.2) 0

/-- A free slot of a sector for a context: the lowest row, with its register base. -/
def Cluster.binRow (k : Cluster) (ctx bound sec : Nat) : Option (Nat × Nat) :=
  match firstBelow (k.rowFree ctx none) (16 * (sec + 1) - 16 * sec) (16 * sec), lowestFit sectorRows bound (k.regsUsed sec) with
  | some row, some base => some (row, base)
  | _, _ => none

/-- Where a bin wave goes: the lowest free slot of the sector with the most free rows (DESIGN CHOICE, log 49). -/
def Cluster.binPlace (k : Cluster) (ctx bound : Nat) : Option (Nat × Nat) :=
  let secs := (rangeFrom 0 4).filter (fun sec => (k.binRow ctx bound sec).isSome)
  (leastBy (fun sec => sectorRows - k.rowsFree sec) secs).bind (k.binRow ctx bound)

/-- The vector registers of a bin wave: lane i of v0 to v3 holds record i. -/
def spawnLanes (recs : List (List Word)) : SMap Word :=
  (rangeFrom 0 4).foldl (fun m r =>
    setLanes m r (fun l => some ((recs.getD l []).getD r 0)) recs.length 0) []

/-- Starts a wave from a bin's oldest records, if a row, rows of registers and a workgroup slot are free (10 R179)
(DESIGN CHOICE, log 53). -/
def State.startBin (s : State) (cl n : Nat) (b : Bin) : State :=
  let k := s.cluster cl
  match k.binPlace b.ctx b.bound, firstBelow (k.wgSlotFree b.ctx none) wgSlots 0 with
  | some (row, base), some slot =>
    let recs := b.recs.take gWidth
    let rest := b.recs.drop gWidth
    let wgx := k.backingIndex b.ctx
    let (stamp, s) := s.newId
    let g : Wg :=
      { Wg.zero with
        ctx := b.ctx, prio := b.prio, x := 0xFFFF, y := 0xFFFF, z := 0xFFFF, wgx := wgx, rows := [row], startStamp := stamp }
    let s := s.setCluster cl { k with
      wgs := mset k.wgs slot g
      bins := if rest.isEmpty then mdel k.bins n
        else mset k.bins n { b with recs := rest, timer := s.now + spawnTimeout b.tmo } }
    let w := { s.newWave b.ctx slot wgx 0 base b.bound b.entryPc b.prio with
      s := msetD [] 0 0 (BitVec.ofNat 64 recs.length), v := spawnLanes recs, stage := 0, spawned := true, spTmo := b.tmo
      spBound := b.bound }
    (s.addWave cl row w).settleLife b.ctx
  | _, _ => s

/-- A bin of a context whose waves may start: the context holds its slot and no merge of its file is under way. -/
def State.binReady (s : State) (cl n : Nat) : Option Bin :=
  (mget (s.cluster cl).bins n).filter (fun b =>
    s.holdsSlot cl b.ctx && !s.semWaits cl b.ctx && !(s.cluster cl).retired && !s.freezing cl)

/-- BIN_WAVE_START of the cluster and bin that State.subj names: it holds as many records as a wave has lanes, or its
timer has expired. -/
def execBinWaveStart (s : State) : Host.Outcome State Fault Refusal :=
  let cl := s.subj.a
  let n := s.subj.b
  match s.binReady cl n with
  | none => .next s
  | some b => if gWidth ≤ b.recs.length || b.timer ≤ s.now then .next (s.startBin cl n b) else .next s

/-- SPAWN_TIMEOUT of the cluster and bin that State.subj names. -/
def execSpawnTimeout (s : State) : Host.Outcome State Fault Refusal :=
  let cl := s.subj.a
  let n := s.subj.b
  match s.binReady cl n with
  | none => .next s
  | some b => if b.timer ≤ s.now then .next (s.startBin cl n b) else .next s

/-- SPILL_REFILL of the cluster and context that State.subj names: the oldest record of a spill queue enters a bin. A header
that cannot be read shows no record. The
register bound of a bin that such a record keys is a value the spec leaves open: the ring does not hold it (DEDUCED, log 46). -/
def execSpillRefill (s : State) : Host.Outcome State Fault Refusal :=
  let cl := s.subj.a
  let ctx := s.subj.b
  if !s.holdsSlot cl ctx || (s.ctxOf ctx).life = .destroying then .next s
  else
    match s.spillHeader cl ctx with
    | .error _ => .next s
    | .ok q =>
      if q.count = 0 then .next s
      else
        match (s.charge (s.spillUses cl ctx)).readArea cl ctx (q.entry q.head) 32 with
        | .error e => .next (s.hwFault cl ctx e.1 e.2 0 0 0)
        | .ok (b, read) =>
          let (x, s1) := read.takeFree
          match (s1.cluster cl).binPut ctx (spawnRecOf b) 0 (8 * (x % 32 + 1)) s.now with
          | none => .next s
          | some k =>
            match (s1.setCluster cl k).hwWrite cl ctx (s.spillAddr cl ctx + 8) (natToBytes 4 ((q.head + 1) % 2 ^ 32)) with
            | .ok s' => .next s'
            | .error e => .next (s.hwFault cl ctx e.1 e.2 3 0 0)

/-! ### Starvation and launches -/

/-- STARVATION_COUNT of the cluster and row that State.subj names: the count of a wave that has waited 4,095 cycles, and is
ready and not issued in this one, reaches 4,096 (10 R171). -/
def execStarvationCount (s : State) : Host.Outcome State Fault Refusal :=
  .next (s.updWave s.subj.a s.subj.b (fun w =>
    if w.starve = 4095 && w.starveAt == s.now + 1 then { w with starve := 4096, starveAt := 0 } else w))

/-- LAUNCH_COMPLETION of the launch that State.subj names (25 R351). -/
def execLaunchCompletion (s : State) : Host.Outcome State Fault Refusal :=
  let id := s.subj.a
  match mget s.launches id with
  | none => .next s
  | some l =>
    if l.left ≠ 0 then .next s
    else if !l.profiling.isEmpty then .next (l.profiling.foldl (fun s cl => s.settleProfile cl id) s)
    else if s.accesses.any (fun x => x.2.tag.launch == id && !x.2.performed) then .next s
    else if s.peerReqs.any (fun r => r.2.ask == .profile id) then .next s
    else
      let s := { s with launches := mdel s.launches id }
      let s := s.updQueue l.part l.queue (fun r => { r with launches := without id r.launches })
      .next (if l.done = 0 then s else s.postWrite l.part l.link l.done (natToBytes 8 l.seq))

/-! ### The governor (00 R3; 05 R97, R98; 10 R183) -/

/-- A number held between two bounds. -/
def clamp (lo hi n : Nat) : Nat := max lo (min hi n)

/-- A partition's share of the window's units. -/
def Part.units (p : Part) : Nat := Config.windowUnits * p.share / 1024

/-- Flit tokens for each port of a partition. -/
def Part.flitAllot (p : Part) : Nat := clamp 16 256 (256 * ((p.units - p.classDraw) * 100) / (12 * p.units))

/-- Line tokens for each slice of a partition. -/
def Part.lineAllot (p : Part) : Nat :=
  clamp 38 304 (304 * (100 * (p.units - p.classDraw) - 3072 * p.injectDraw) / (17 * p.units))

/-- Divides a cluster's allotment among the contexts that hold its slots. -/
def State.fillBudgets (s : State) (p : Part) (cl : Nat) : State :=
  let k := s.cluster cl
  let weight (x : CtxSlot) : Nat := (s.ctxOf x.ctx).weight
  let total := (k.slots.map (fun x => weight x.2)).foldl (· + ·) 0
  let share := Config.windowUnits * p.share / (if s.dev.halved then 2048 else 1024)
  s.setCluster cl { k with
    slots := k.slots.map (fun x => (x.1, { x.2 with units := share * weight x.2 / (8 * p.cols.length * total) })) }

/-- A partition's window begins. -/
def State.openWindow (s : State) (n : Nat) (p : Part) : State :=
  let s := (s.clustersOf n).foldl (fun s cl => s.fillBudgets p cl) s
  let flits := p.flitAllot
  let lines := p.lineAllot
  let sites := (rangeFrom 0 256).filter (fun x => p.cols.contains (siteCol x))
  let s := { s with flitTokens := sites.foldl (fun m x => mset m x flits) s.flitTokens }
  let s := (s.slicesOf n).foldl (fun s i =>
    let x := s.slice i
    s.setSlice i { x with tokens := lines - x.owed, owed := x.owed - lines, drawn := decide (x.owed ≠ 0) }) s
  let q := { p with classDrawPrev := p.classDraw, injectDrawPrev := p.injectDraw, classDraw := 0, injectDraw := 0 }
  { s with parts := mset s.parts n q }

/-- GOVERNOR_WINDOW, once in each 256 ACLK. -/
def execGovernorWindow (s : State) : Host.Outcome State Fault Refusal :=
  if s.now < s.windows * Config.windowAclk then .next s
  else
    let s := { s with windows := s.now / Config.windowAclk + 1 }
    .next (s.parts.foldl (fun s e => s.openWindow e.1 e.2) s)

end Sys2Proof.Machine
end

