-- ==== Sys2Proof/Machine/Engine.lean ====
section
/-!
DEFINITION. Engine jobs as they run: elements reached, read and carried to their homes, and pieces that land (02 R37, R38; 03
R52; 04 R81; 05 R84, R85, R94, R95; 06 R103; 07 R114 to R118, R122; 16 R293; 20 R304 to R307, R315; 22 R328).
-/
namespace Sys2Proof.Machine

/-! ### Starting and stopping -/

/-- A job may reach its next element: what it waits for on account of its order and of earlier jobs is done (07 R115,
R116). -/
def State.jobReady (s : State) (j : Job) : Bool :=
  !j.waits.any s.isPending && j.jobWaits.all (fun i => (mget s.jobs i).all Job.done)

/-- ACCESS of a job's writes. -/
def JobKind.writeAccess : JobKind → Nat
  | .drain _ _ _ true _ _ => 2
  | _ => 1

/-! ### Reaching an element (02 R27, R41; 03 R52) -/

/-- The check of a source: a multicast's must be slice-homed (20 R305), and an LOD-mode copy reads pages with LOD = 1. -/
def State.srcCheck (s : State) (j : Job) (va n : Nat) : Except Nat (Nat × Nat) :=
  let t := j.owner
  match j.kind with
  | .lodCopy _ _ _ _ _ _ _ => s.lodRead t.cl t.ctx va
  | .multicast _ _ _ _ _ =>
    match s.checkAccess t.cl t.ctx va n .read none with
    | .error c => .error c
    | .ok x => if sliceHomed x.1 then .ok x else .error causeNoTarget
  | _ => s.checkAccess t.cl t.ctx va n .read none

/-- The check of a destination: a write, or an add-on-store. -/
def State.dstCheck (s : State) (j : Job) (va n : Nat) : Except Nat (Nat × Nat) :=
  let t := j.owner
  match j.kind with
  | .drain _ _ _ true _ _ => s.checkAccess t.cl t.ctx va n .atomic (some (.add, .f32))
  | _ => s.checkAccess t.cl t.ctx va n .write none

/-- Reaches the next element of a job: its source is translated and then its destination, and it goes on; a fault stops the
job there. Bytes and flags are those of an element that is not read. -/
def State.reachElem (s : State) (id : Nat) (j : Job) (src dst : Option Nat) (bs : List Byte) (f : FFlags) : State :=
  let n := j.pos
  let size := j.kind.size n
  let used (s : State) (va : Option Nat) : State := va.elim s (s.cacheUse j.owner.cl j.owner.ctx)
  match src.elim (.ok none) (fun va => (s.srcCheck j va size).map (fun x => some (va, x))) with
  | .error c => s.stopJob id c 0 (src.getD 0) n
  | .ok from' =>
    match dst.elim (.ok (0, 0)) (fun va => (s.accessOf dstAccess).dstCheck j va size) with
    | .error c => s.stopJob id c j.kind.writeAccess (dst.getD 0) n
    | .ok (dpa, attr) =>
      let e : Flight := { n := n, src := from', dst := dst.getD 0, dstPa := dpa, attr := attr, data := bs, flags := f
                          born := s.nextId }
      (used (used s src) dst).setJob id { j with pos := n + 1, flight := j.flight ++ [e] }

/-! ### LOD-mode copies (04 R81; 20 R306) -/

/-- Element (x, y) of a level in a coarser one. A page that lies past that level's last column or row is that of its last
element (DESIGN CHOICE, log 97). -/
def LodDesc.coarse (d : LodDesc) (level x y l : Nat) : Nat × Nat :=
  (min (x >>> (l - level)) (d.width l - 1), min (y >>> (l - level)) (d.height l - 1))

/-- Resolves the source page of the element reached. -/
def State.resolvePage (s : State) (id : Nat) (j : Job) (d : LodDesc) (level x y page : Nat) : Except (Nat × Nat) LodPage × State :=
  let f := s.lodChain j.owner.cl j.owner.ctx d (d.coarse level x y) level 17 level [] none
  let s := s.tookWords j.owner.cl j.owner.ctx f.words
  let report := (lodReportOf j.owner 0 d f .none).map (fun r => { r with job := some (id, page) })
  let s := match report with
    | some r => s.sendReport r
    | none => s
  match f.result with
  | .error e => (.error e, s)
  | .ok (l, _, _) => (.ok { level := l, fallback := decide (l ≠ level), awaited := report.isSome, drop := false }, s)

/-- The status byte of a page. -/
def LodPage.byte (g : LodPage) : Nat := g.level + (if g.fallback then 16 else 0) + (if g.drop then 32 else 0)

/-- Reaches the next element of an LOD-mode copy: data of a page that is resolved, or the status byte of a page. The record of
a LOD_TAIL or of a map read that fails has the address of the map word (DESIGN CHOICE, log 102). -/
def State.lodStep (s : State) (id : Nat) (j : Job) (desc : List Byte) (e : Extent) (level x0 y0 : Nat) : State :=
  let dst := j.kind.dst j.pos
  match lodDescOf desc with
  | none => s.stopJob id causeLodDescriptor 0 (dst.getD 0) j.pos
  | some d =>
    if e.count ≤ j.pos then
      match mget j.resolved (j.pos - e.count) with
      | none => s.reachElem id j none dst [0] 0
      | some g => if g.awaited then s else s.reachElem id j none dst (natToBytes 1 g.byte) 0
    else
      let (x, y) := lodElement e x0 y0 j.pos
      let page := lodPageOf x0 y0 e.n0 x y
      let reach (s : State) (j : Job) (g : LodPage) : State :=
        let (x', y') := d.coarse level x y g.level
        s.reachElem id j (some (d.elemAddr g.level x' y')) dst [] 0
      match mget j.resolved page with
      | some g => reach s j g
      | none =>
        match s.resolvePage id j d level x y page with
        | (.error f, s) => s.stopJob id f.1 0 f.2 j.pos
        | (.ok g, s) =>
          let j := { j with resolved := mset j.resolved page g }
          reach (s.setJob id j) j g

/-! ### What each kind of job moves -/

/-- The bytes and flags of a drained element: converted, or an addend (20 R315, 07 R122). -/
def drainBytes (add : Bool) (fmt : ElemFmt) (x : Word) : List Byte × FFlags :=
  if add then (natToBytes 4 x.toNat, 0)
  else
    let (b, f) := fconvert (efFormat fmt) .rne false (f32val x)
    (natToBytes (efSize fmt) b, f)

/-- Reaches a job's next element. A multicast's destination is an offset, which is not translated. -/
def State.reachNext (s : State) (id : Nat) (j : Job) : State :=
  let n := j.pos
  let src := j.kind.src n
  let dst := j.kind.dst n
  match j.kind with
  | .copy _ _ _ | .line _ _ _ _ => s.reachElem id j src dst [] 0
  | .gather _ _ esz _ _ => s.reachElem id j src dst (natToBytes esz 0) 0
  | .multicast _ _ _ _ _ | .planeLoad _ _ => s.reachElem id j src none [] 0
  | .lodCopy desc _ e level x0 y0 _ => s.lodStep id j desc e level x0 y0
  | .drain _ _ _ add fmt bank =>
    let (b, f) := drainBytes add fmt (mgetD bank n 0)
    s.reachElem id j none dst b f
  | .store writes => s.reachElem id j none dst ((writes.getD n (0, [])).2) 0

/-! ### Sending elements to their homes -/

/-- Flits of a packet with so many bytes of data: one line, or three (05 R85). -/
def dataFlits (n : Nat) : Nat := if n ≤ 64 then 2 else 4

/-- Sends engine data: over the Braid, or, within a site or between two clusters, by the way that needs none. -/
def State.sendData (s : State) (j : Job) (dst flits : Nat) (w : CopyWrite) : State :=
  let part := s.partOfCtx j.owner.ctx
  let src := j.site w.piece
  let (id, s) := s.newId
  let p : Packet :=
    { kind := 6, src := src, dst := dst, part := part, ctx := j.owner.ctx, flits := flits, stamp := id
      loc := if nearSites src dst then .arrived s.now else .agent, body := .copy w }
  { s with packets := mset s.packets id p }

/-- The elements on their way that may be sent: those before the first whose bytes are still to come. -/
def Job.readyFlight (j : Job) : List Flight := j.flight.takeWhile (fun f => f.src.isNone && !f.coming)

/-- The physical bytes that elements of a job have yet to read: as translated, or, for those not reached, as they would be now. -/
def State.unreadBytes (s : State) (j : Job) : List (Nat × Nat) :=
  j.flight.filterMap (fun f => f.src.map (fun x => (x.2.1, j.kind.size f.n))) ++
    (rangeFrom j.pos (j.total - j.pos)).filterMap (fun n =>
      (j.kind.src n).bind (fun va =>
        match s.translate j.owner.cl j.owner.ctx va .read with
        | .ok (pa, _) => some (pa, j.kind.size n)
        | .error _ => none))

/-- A gather or a tile transfer does not write bytes that it has yet to read (06 R103). -/
def State.sendClear (s : State) (j : Job) (l : List Flight) : Bool :=
  match j.kind with
  | .gather _ _ _ _ _ | .line _ _ _ _ =>
    (s.unreadBytes j).all (fun x => l.all (fun f => !overlaps f.dstPa (j.kind.size f.n) x.1 x.2))
  | _ => true

/-- The page that element n of a job writes. -/
def Job.dstPage (j : Job) (n : Nat) : Nat := ((j.kind.dst n).getD 0) / 4096

/-- The elements that go with one: of its piece, for the same lines and, with three, for lines of one page; with none it goes
alone. -/
def Job.lineGroup (j : Job) (f : Flight) (lines : Nat) : List Flight :=
  let base := f.dstPa / 64 * 64
  let piece := j.pieceOf j.owner.cl f.n
  if lines = 0 then [f]
  else j.readyFlight.filter (fun g =>
    g.dst / 4096 == f.dst / 4096 && g.dstPa / 4096 == f.dstPa / 4096 && g.attr == f.attr && decide (base ≤ g.dstPa) &&
      decide (g.dstPa < base + 64 * lines) && j.pieceOf j.owner.cl g.n == piece)

/-- When the oldest of some elements was translated. -/
def bornOf (l : List Flight) : Nat := l.foldl (fun m f => min m f.born) ((l.map Flight.born).headD 0)

/-- A job's elements have been sent. -/
def State.sent (s : State) (id : Nat) (l : List Flight) : State :=
  { s with jobs := mupd s.jobs id (fun j => { j with flight := j.flight.filter (fun f => !l.any (fun g => g.n == f.n)) }) }

/-- Sends a group of elements as one packet of one line or of three. Those of one packet perform together; any element may go in
a packet of its own, so that any order and any subset come about (07 R114) (DESIGN CHOICE, log 114). -/
def State.sendGroup (s : State) (id : Nat) (j : Job) (f : Flight) (lines : Nat) : State :=
  let l := j.lineGroup f lines
  let base := f.dstPa / 64 * 64
  if !s.sendClear j l then s
  else
    let w : CopyWrite :=
      { job := id, piece := j.pieceOf j.owner.cl f.n, va := f.dst - (f.dstPa - base), pa := base
        parts := l.map (fun g => (g.dstPa - base, g.data)), count := l.length
        flags := l.foldl (fun x g => x ||| g.flags) 0, pw := attrPw f.attr, ca := attrCa f.attr
        born := bornOf l }
    (s.sendData j (s.destSite (s.partOfCtx j.owner.ctx) base (j.site w.piece)) (if lines ≤ 1 then 2 else 4) w).sent id l

/-- An element of a plane load goes to its cell (22 R328). -/
def State.sendCell (s : State) (id : Nat) (j : Job) (f : Flight) (cell : Nat) : State :=
  let w : CopyWrite :=
    { job := id, piece := 0, va := 0, pa := 0, parts := [(0, f.data)], flags := f.flags, cell := some cell }
  (s.sendData j (clusterSite j.owner.cl) 2 w).sent id [f]

/-! ### Matrix drains (07 R122; 20 R315) -/

/-- The elements of a drain tile: those of one page, as translated. -/
def Job.tileOf (j : Job) (f : Flight) : List Flight :=
  j.flight.filter (fun g => g.dst / 4096 == f.dst / 4096 && g.dstPa / 4096 == f.dstPa / 4096)

/-- Every element of a drain tile has been reached. -/
def Job.tileReached (j : Job) (f : Flight) : Bool :=
  (rangeFrom j.pos (j.total - j.pos)).all (fun n => j.dstPage n ≠ f.dst / 4096)

/-- Parts of a list of at most n elements each: k of them at most. -/
def chunks {α : Type} (n : Nat) : Nat → List α → List (List α)
  | 0, _ => []
  | k + 1, l => if l.isEmpty then [] else l.take n :: chunks n k (l.drop n)

/-- Sends an add-on-store's drain tile, in packets of 48 elements at most. -/
def State.sendTile (s : State) (id : Nat) (j : Job) (f : Flight) : State :=
  let l := j.tileOf f
  if !j.tileReached f then s
  else
    let base := f.dstPa / 4096 * 4096
    let parts := chunks 48 1024 l
    let dst := s.destSite (s.partOfCtx j.owner.ctx) base (j.site 0)
    let s := parts.foldl (fun s c =>
      s.sendData j dst (dataFlits (4 * c.length))
        { job := id, piece := 0, va := f.dst / 4096 * 4096, pa := base, parts := c.map (fun g => (g.dstPa - base, g.data))
          count := c.length, add := true, tile := parts.length, pw := attrPw f.attr, ca := attrCa f.attr
          born := bornOf c }) s
    s.sent id l

/-! ### Multicast (05 R84, R94, R95; 20 R305) -/

/-- The tree and the direction in which a destination is served from a source site. -/
def treeOf (cols : List Nat) (src d : Nat) : Bool × Nat :=
  let colFirst := !siteIsCluster (siteOf (siteRow src) (siteCol d))
  (colFirst, outAt cols (if colFirst then .colFirst else .rowFirst) src d src)

/-- Injects one packet for each tree and direction. Its 192 bytes stand from an offset that is a multiple of 64. -/
def State.injectTrees (s : State) (j : Job) (piece rows cols' : Nat) (body : Body) (dests : List Nat) : State :=
  let part := s.partOfCtx j.owner.ctx
  let cols := ((mget s.parts part).map Part.cols).getD []
  let src := sliceSite piece
  let trees := (dests.map (treeOf cols src)).eraseDups
  trees.foldl (fun s t =>
    let mine := dests.filter (fun d => treeOf cols src d == t)
    let (pid, s) := s.newId
    let p : Packet :=
      { kind := 7, src := src, dst := mine.headD 0, part := part, ctx := j.owner.ctx, flits := 4, stamp := pid
        dests := mine, colFirst := t.1, rowMask := rows, colMask := cols', body := body }
    { s with packets := mset s.packets pid p }) s

/-- The vault offset of element n of a multicast. -/
def Job.mcOff (j : Job) (n : Nat) : Nat :=
  match j.kind with
  | .multicast _ off e _ _ => ((off : Int) + e.dstOff n).toNat
  | _ => 0

/-- The elements that go with one to a multicast's destinations: of its piece, in 192 bytes of one page; with no lines it goes
alone. -/
def Job.mcGroup (j : Job) (f : Flight) (lines : Nat) : List Flight :=
  let off := j.mcOff f.n
  let base := off / 64 * 64
  let piece := j.pieceOf j.owner.cl f.n
  if lines = 0 then [f]
  else j.readyFlight.filter (fun g =>
    let o := j.mcOff g.n
    decide (base ≤ o) && decide (o < base + 192) && o / 4096 == off / 4096 && j.pieceOf j.owner.cl g.n == piece)

/-- Elements read go to every destination in service; each one that is retired is recorded (05 R95). -/
def State.sendMulticast (s : State) (id : Nat) (j : Job) (f : Flight) (lines rows cols : Nat) : State :=
  let ds := maskClusters rows cols
  let live := ds.filter (fun n => !(s.cluster n).retired)
  let gone := ds.filter (fun n => (s.cluster n).retired)
  let l := j.mcGroup f lines
  let piece := j.pieceOf j.owner.cl f.n
  let base := j.mcOff f.n / 64 * 64
  let body : Body := .multicast id piece f.n base (l.map (fun g => (j.mcOff g.n - base, g.data)))
  let s := s.injectTrees j piece rows cols body (live.map clusterSite)
  let s := s.setJob id { j with pieces := mupd j.pieces piece (fun n => n + l.length * live.length - l.length) }
  let s := gone.foldl (fun s n => s.refuseDest id n ((s.vaultVa n j.owner.ctx + j.mcOff f.n) % 2 ^ 64) f.n) s
  (s.sent id l).settleJob id

/-! ### ENGINE_ELEMENT -/

/-- An element that has its bytes is sent, with others that are ready and go the same way. -/
def State.sendFlight (s : State) (id : Nat) (j : Job) (f : Flight) (lines : Nat) : State :=
  if !j.readyFlight.any (fun g => g.n == f.n) then s
  else match j.kind with
    | .multicast _ _ _ rows cols => s.sendMulticast id j f lines rows cols
    | .planeLoad cells _ => s.sendCell id j f ((cells.getD f.n (0, 0)).2)
    | .drain _ _ _ true _ _ => s.sendTile id j f
    | _ => s.sendGroup id j f lines

/-- Lines that one packet may carry from an element's on, as State.subj asks: one; three, if they lie in one page; or none, for
an element that goes alone. -/
def linesFor (ask pa : Nat) : Nat :=
  match ask with
  | 0 => 1
  | 1 => if pa % 4096 / 64 + 3 ≤ 64 then 3 else 1
  | _ => 0

/-- The next step of a plane load is taken, where its context's budget covers it (22 R319, 10 R183). -/
def State.takeStep (s : State) (id : Nat) (j : Job) : State :=
  let cl := j.owner.cl
  if j.steps ≤ j.stepsPaid || s.units cl j.owner.ctx < j.stepUnit then s
  else (s.debit cl j.owner.ctx j.stepUnit).setJob id { j with stepsPaid := j.stepsPaid + 1 }

/-- The step that reads element n of a job has been taken: of a plane load, that of the 16 rows its cell lies in. -/
def Job.stepTaken (j : Job) (n : Nat) : Bool :=
  match j.kind with
  | .planeLoad cells _ => decide ((cells.getD n (0, 0)).2 % 4096 / 1024 < j.stepsPaid)
  | _ => true

/-- ENGINE_ELEMENT of the job that State.subj names: with b = 0 its next element is reached, or, once all are, a step of a plane
load that reads none is taken; with b = k + 1 the k-th of those
on their way is read or, once it has been, sent, in three lines or alone where c asks for that. Elements are read and sent in any order
(07 R114). -/
def execEngineElement (s : State) : Host.Outcome State Fault Refusal :=
  let id := s.subj.a
  match mget s.jobs id with
  | none => .next s
  | some j =>
    match s.subj.b with
    | 0 =>
      .next (if !s.jobReady j then s else if j.total ≤ j.pos then s.takeStep id j else s.reachNext id j)
    | k + 1 =>
      match j.flight[k]? with
      | none => .next s
      | some f =>
        match f.src with
        | some (va, pa, attr) =>
          .next (if s.thingHeld (.element id f.n) then s
            else if !j.stepTaken f.n then s.takeStep id j
            else s.readFlight id j f va pa attr)
        | none => .next (s.sendFlight id j f (linesFor s.subj.c f.dstPa))

/-! ### PIECE_LANDING -/

/-- PIECE_LANDING of the job and piece that State.subj names: every element of the piece has landed, or, where c is not 0, has
been read out of its tile (03 R52) (DESIGN CHOICE, log 48). -/
def execPieceLanding (s : State) : Host.Outcome State Fault Refusal :=
  let id := s.subj.a
  let p := s.subj.b
  let read : Bool := s.subj.c ≠ 0
  match mget s.jobs id with
  | none => .next s
  | some j =>
    let left := mget (if read then j.toRead else j.pieces) p
    if left ≠ some 0 || (read && j.steps ≠ j.stepsPaid) || s.pieceIsHeld j id p read then .next s else .next (s.arrivePiece id p read)

end Sys2Proof.Machine
end

