-- ==== Sys2Proof/Machine/Host.lean ====
section
/-!
DEFINITION. What the host, peers and their links bring about: answers over links, packets and commands read from rings, the
commands and their results, and requests of peers (01 R23, R24, R26; 02 R40, R41; 07 R121, R128; 08 R141, R143; 10 R167; 11
R191, R194, R198, R365; 25 R348 to R355, R360).
-/
namespace Sys2Proof.Machine

/-! ### Rings (10 R167; 25 R350, R352) -/

/-- Rereads of a ring entry, and ACLK of the 156 ns before each. -/
def maxRereads : Nat := 64
def rereadDelay : Nat := 422

/-- Codes of commands (25 R352). -/
def opCtxCreate : Nat := 1
def opCtxDestroy : Nat := 2
def opCopyIn : Nat := 3
def opCopyOut : Nat := 4
def opShootdown : Nat := 5
def opMbox : Nat := 6
def opAnswer : Nat := 7
def opCheckpoint : Nat := 8
def opRestore : Nat := 9
def opLogFree : Nat := 10

/-- Results of commands (25 R352). -/
def resDone : Nat := 0
def resMalformed : Nat := 1
def resNotOwned : Nat := 2
def resState : Nat := 3
def resLog : Nat := 4

/-- The partition a command of a queue acts on: the device queue takes it from the top bits of A. -/
def Command.part (c : Command) (queue : Nat) : Nat := if queue = deviceQueue then bits c.a 63 60 else queue

/-- Operand A without the device queue's partition. -/
def Command.argA (c : Command) (queue : Nat) : Nat := if queue = deviceQueue then c.a % 2 ^ 60 else c.a

/-- An operand has no bit outside a mask. -/
def bitsWithin (x mask : Nat) : Bool := Nat.lor x mask == mask

/-- The operands of a command are among the values listed for it. -/
def operandsOk (op a b c : Nat) : Bool :=
  if op = opCtxCreate then decide (a < 4096) && b % 512 == 0
  else if op = opCtxDestroy then decide (a < 4096)
  else if op = opCopyIn || op = opCopyOut then a % 64 == 0 && b % 64 == 0 && c % 64 == 0
  else if op = opShootdown then bits a 13 12 != 0 && decide (a < 2 ^ 14) && b % 4096 == 0
  else if op = opMbox then bitsWithin a 0xF7F && (decide (b < 4096) || b == 0xFFFF)
  else if op = opAnswer then bitsWithin a 0x3F7F && decide (b ≤ 2) && decide (c < 4096)
  else if op = opLogFree then decide (a < 4096) && decide (b < 2 ^ 32)
  else op == opCheckpoint || op == opRestore

/-- The command that 64 bytes hold, for a queue. -/
def commandOf (queue : Nat) (b : List Byte) : Command :=
  let w (i : Nat) : Nat := bytesToNat ((b.drop (8 * i)).take 8)
  let c : Command :=
    { seq := w 0 % 2 ^ 32, op := bits (w 0) 39 32, a := w 1, b := w 2, c := w 3, done := w 4 / 8 * 8, malformed := false
      result := none, waitingFor := [] }
  let bad := bits (w 0) 63 40 ≠ 0 || w 4 % 8 ≠ 0 || bytesToNat (b.drop 40) ≠ 0 ||
    !operandsOk c.op (c.argA queue) c.b c.c
  { c with malformed := bad, result := if bad then some resMalformed else none }

/-- The bytes of a ring entry arrive, or the read has failed. -/
def State.ringRead (s : State) (part q : Nat) (ok : Bool) (b : List Byte) : State :=
  let r := s.queue part q
  match r.kick with
  | none => s
  | some k =>
    if !k.reading then s
    else if !ok then s.haltQueue part q haltRing
    else if bytesToNat (b.take 4) ≠ r.next then
      if maxRereads ≤ k.rereads then s.haltQueue part q haltNotVisible
      else s.setQueue part q { r with kick := some { k with reading := false, due := s.now + rereadDelay } }
    else if part = deviceQueue || q = commandQueue then s.setQueue part q { r with cmd := some (commandOf part b) }
    else s.takePacket part q k.from? b

/-! ### Answers over links (07 R121, R128) -/

/-- A write that has performed at the host stands with what the device has posted there; a peer's write stands in its home
(25 R351) (DEDUCED, log 50). -/
def State.wrote (s : State) (part : Nat) (r : HostReq) (host ok : Bool) : State :=
  if host && r.write && ok then s.postWrite part r.link r.addr r.data else s

/-- A physical address lies in a host window. -/
def inHost (pa : Nat) : Bool :=
  match region pa with
  | .host _ => true
  | _ => false

/-- What a packet asked a link for has come. A failed read leaves a value that the spec leaves open. -/
def State.packetAnswered (s : State) (id : Nat) (r : HostReq) (ok : Bool) (b : List Byte) : State :=
  match mget s.packets id with
  | none => s
  | some p =>
    match p.body with
    | .access a =>
      let s := s.wrote p.part r (inHost a.pa) ok
      if ok then s.performed id p a (if a.kind = .store then 0 else bytesToNat (b.take a.size))
      else
        let (x, s) := s.takeFree
        s.performed id p { a with failed := true } (x % 2 ^ (8 * a.size))
    | .copy w =>
      let s := s.wrote p.part r (inHost w.pa) ok
      if s.onLink id then s else ((s.dropPacket id).jobFlags w.job w.flags).landed w.job w.piece w.count
    | .mail _ _ _ _ _ _ => s
    | .multicast _ _ _ _ _ => s
    | .lod _ => s
    | .element _ _ _ => s

/-- A block of code has come; an empty block stands for a read that failed. -/
def Wave.blockRead (w : Wave) (id block : Nat) (ok : Bool) (b : List Byte) : Wave :=
  if w.waiting = some id then
    { w with waiting := none, fetched := mset w.fetched block (if ok then b.take 32 else []) }
  else w

/-- A block of code has come for a wave that still waits for it: it stands in the cluster's instruction cache too. -/
def State.blockAnswer (s : State) (cl row id block : Nat) (ok : Bool) (b : List Byte) : State :=
  match s.waveAt? cl row with
  | none => s
  | some w =>
    let s := if ok && w.waiting == some id then
        let k := s.cluster cl
        s.setCluster cl (k.keepBlock { ctx := w.ctx, va := block, bytes := b.take 32 })
      else s
    s.updWave cl row (fun w => w.blockRead id block ok b)

/-- Bytes an instruction at issue waited for have come. -/
def Wave.bytesRead (w : Wave) (id pa : Nat) (ok : Bool) (b : List Byte) : Wave :=
  if w.waiting = some id then
    { w with waiting := none, linkReads := mset w.linkReads pa (if ok then some b else none) }
  else w

/-- Bytes of a traversal's node have come; a read that failed ends it with DATA_ERROR. -/
def State.nodeRead (s : State) (id : Nat) (ok : Bool) (b : List Byte) : State :=
  match mget s.traversals id with
  | none => s
  | some t =>
    if ok then
      let got := (t.asked.zip (wordsOf b t.asked.length)).foldl (fun m x => mset m x.1 x.2) t.got
      { s with traversals := mset s.traversals id { t with got := got, asked := [] } }
    else (s.landTraversal id { t with asked := [] } t.miss (some (causeDataError, t.addr))).state id

/-- Gives the answer of a link to what asked for it (DEDUCED, log 45). -/
def State.linkAnswer (s : State) (id : Nat) (r : HostReq) (ok : Bool) (b : List Byte) : State :=
  match r.ask with
  | .packet p => s.packetAnswered p r ok b
  | .packetRead part q => s.ringRead part q ok b
  | .fetch cl row block => s.blockAnswer cl row id block ok b
  | .waveRead cl row pa => s.updWave cl row (fun w => w.bytesRead id pa ok b)
  | .jobRead j n => { s with jobs := mupd s.jobs j (fun j =>
      { j with flight := j.flight.map (fun f => if f.n = n && f.asked == some id then { f with got := some (ok, b) } else f) }) }
  | .traversalRead t => s.nodeRead t ok b
  | .tile t => s.tileAnswered t r ok b
  | .profile _ => s
  | .mapRead part q pa => s.mapAnswer id part q pa ok b

/-- The answer has the bytes asked for. -/
def HostReq.fits (r : HostReq) (ok : Bool) (b : List Byte) : Bool := !ok || r.write || b.length == r.len

/-- HOST_COMPLETION: a completion from the host answers a request. -/
def execHostCompletion (id : Nat) (ok : Bool) (data : List Byte) (s : State) : Host.Outcome State Fault Refusal :=
  match mget s.hostReqs id with
  | none => .next s
  | some r =>
    if r.fits ok data then .next ({ s with hostReqs := mdel s.hostReqs id }.linkAnswer id r ok (r.sees data)) else .next s

/-- PEER_COMPLETION: a peer's home answers a request. -/
def execPeerCompletion (id : Nat) (ok : Bool) (data : List Byte) (s : State) : Host.Outcome State Fault Refusal :=
  match mget s.peerReqs id with
  | none => .next s
  | some r => if r.fits ok data then .next ({ s with peerReqs := mdel s.peerReqs id }.linkAnswer id r ok data) else .next s

/-! ### Requests of peers (01 R24, R26; 25 R355) -/

/-- Every byte of a span is memory of a partition that has its target. Owners change at 16 MiB steps only (DEDUCED, log 57). -/
def State.spanOwned (s : State) (part pa n : Nat) : Bool :=
  let step := 2 ^ 24
  let own (x : Nat) : Bool := s.ownerOf x == some part && !s.noTarget x
  decide (pa + n ≤ 2 ^ 44) && own pa && own (pa + (n - 1)) &&
    (rangeFrom 1 ((pa + n) / step - pa / step)).all (fun i =>
      let x := (pa / step + i) * step
      decide (pa + n ≤ x) || own x)

/-- The admission table lets a partition of a peer through (25 R355). -/
def State.admitted (s : State) (r : PeerRequestIn) : Bool := tbit (mgetD s.dev.masks (16 * r.link + r.part) 0) r.remotePart

/-- No wave's tag. -/
def noTag : WTag := { ctx := 0, cl := 0, wgslot := 0, wgx := 0, row := 0, wnum := 0, stage := 0, launch := 0 }

/-- The access a peer's request makes at its home. -/
def peerAccess (r : PeerRequestIn) : Access :=
  let base : Access := { op := 0, tag := noTag, kind := .load, va := r.addr, pa := r.addr, size := 0, ap := 2 }
  match r.op with
  | .read n => { base with size := n }
  | .write b => { base with kind := .store, size := b.length, data := bytesToNat b }
  | .atomic op ty x y => { base with kind := .atomic op ty, size := memSize ty, data := x, data2 := y }
  | .drain parts => { base with kind := .atomic .add .f32, size := parts.foldl (fun m x => max m (x.1 + 4)) 4 }

/-- The port offers what a request asks for (07 R120). -/
def peerOffered (r : PeerRequestIn) : Bool :=
  match r.op with
  | .atomic op ty _ _ => atomOffered 2 op ty && r.addr % memSize ty == 0
  | .read _ => true
  | .write _ => true
  | .drain parts => !parts.isEmpty && parts.all (fun x => (r.addr + x.1) % 4 == 0 && (r.addr + x.1) / 4096 == r.addr / 4096)

/-- Bytes a request's answer carries. -/
def peerAnswerOf (r : PeerRequestIn) (x : Nat) : List Byte :=
  match r.op with
  | .read n => natToBytes n x
  | .write _ => []
  | .atomic _ ty _ _ => natToBytes (memSize ty) x
  | .drain _ => []

/-- A drain tile that a peer's add-on-store sends: it is applied at its home as the device's own are, and answered then (07
R120, R122). -/
def peerTile (r : PeerRequestIn) (parts : List (Nat × Nat)) (born : Nat) : AddTile :=
  { job := 0, piece := 0, ctx := 0, va := r.addr, pa := r.addr, ca := 1, packets := 0
    parts := parts.map (fun x => (x.1, natToBytes 4 x.2)), count := 0, born := born, peer := some (r.link, r.tag) }

/-- PEER_REQUEST: served at its home if the table admits it, refused with completer-abort otherwise. -/
def execPeerRequest (req : PeerRequestIn) (s : State) : Host.Outcome State Fault Refusal :=
  let a := peerAccess req
  let refuse : State := s.post (.peerAnswer req.link req.tag false [])
  if s.dev.linkDown.contains req.link then .next s
  else if !s.admitted req || !s.spanOwned req.part req.addr a.size || !peerOffered req then .next refuse
  else if a.kind ≠ .store && s.poisoned req.addr a.size then .next refuse
  else match req.op with
  | .drain parts =>
    let (id, s) := s.newId
    .next { s with addTiles := mset s.addTiles id (peerTile req parts id) }
  | .read _ | .write _ | .atomic _ _ _ _ =>
    if s.lockedOut a then .next s
    else match s.performHere a with
    | none => .next s
    | some (x, s1) => .next (s1.post (.peerAnswer req.link req.tag true (peerAnswerOf req x)))

/-! ### Commands (25 R352, R353) -/

/-- The command a queue has reached, if it is of a kind and has not been carried out. -/
def State.cmdDue (s : State) (queue op : Nat) : Option Command :=
  (s.queue queue commandQueue).cmd.filter (fun c => c.op == op && c.result.isNone && c.waitingFor.isEmpty)

/-- Changes the command a queue has reached. -/
def State.updCmd (s : State) (queue : Nat) (f : Command → Command) : State :=
  s.updQueue queue commandQueue (fun r => { r with cmd := r.cmd.map f })

/-- A command has its result, with nothing more to wait for. -/
def State.resultIs (s : State) (queue n : Nat) : State :=
  s.updCmd queue (fun c => { c with result := some n, waitingFor := [] })

/-- Carries out a command of a kind, whose form must be sound first: of the results that apply the lowest is given. Its
partition must exist (DEDUCED, log 56). -/
def State.soundCommand (s : State) (queue op : Nat) (sound : Command → Nat → Nat → Bool) (body : Command → Nat → Nat → State) :
    Host.Outcome State Fault Refusal :=
  match s.cmdDue queue op with
  | none => .next s
  | some c =>
    let part := c.part queue
    if !sound c part (c.argA queue) then .next (s.resultIs queue resMalformed)
    else if (mget s.parts part).isNone then .next (s.resultIs queue resNotOwned)
    else .next (body c part (c.argA queue))

/-- Carries out a command whose form is sound as it was read. -/
def State.command (s : State) (queue op : Nat) (body : Command → Nat → Nat → State) : Host.Outcome State Fault Refusal :=
  s.soundCommand queue op (fun _ _ _ => true) body

/-- Bytes of the host that a command names lie where the device reaches the host at all; others are an address outside the
partition (01 R25) (DEDUCED, log 87). -/
def hostSpan (addr n : Nat) : Bool := decide (addr + n ≤ busLimit)

/-- A context of a partition; context 0 is the firmware's. -/
def State.ctxIn (s : State) (part ctx : Nat) : Bool := ctx != 0 && (mget s.ctxs ctx).any (fun c => c.part == part)

/-- A context belongs elsewhere: to the firmware or to another partition. -/
def State.ctxElsewhere (s : State) (part ctx : Nat) : Bool := ctx == 0 || (mget s.ctxs ctx).any (fun c => c.part != part)

/-! ### Creation of a context (11 R194, R198, R365) -/

/-- An area of n bytes lies in the upper half. -/
def areaOk (base n : Nat) : Bool := upperHalf base && decide (base + n ≤ 2 ^ 64)

/-- Words of a record hold zero. -/
def zeroWords (w : Nat → Nat) (i n : Nat) : Bool := (rangeFrom i n).all (fun j => w j == 0)

/-- The view is one the device accepts. -/
def viewOk (w : Nat → Nat) : Bool :=
  (rangeFrom 0 8).all (fun i =>
    let dev := (Config.deviceView.getD i 0).toNat
    if i = 5 || i = 7 then bitsWithin (w i) dev else w i == dev)

/-- The form of a context record, for a partition of n clusters. -/
def recordOk (n : Nat) (b : List Byte) : Bool :=
  let w (i : Nat) : Nat := bytesToNat ((b.drop (8 * i)).take 8)
  b.length == 512 && bitsWithin (w 0) (2 ^ 52 - 2 ^ 21) && bitsWithin (w 1) (2 ^ 52 - 64) && bitsWithin (w 2) 0x1FFE0000FF03 &&
    bits (w 2) 15 8 != 0 && w 4 % 2 ^ 17 == 0 && w 5 % 2 ^ 16 == 0 && w 6 % 2 ^ 10 == 0 && w 7 % 64 == 0 &&
    w 8 % 64 == 0 && w 9 % 2 ^ 12 == 0 && w 10 % 2 ^ 16 == 0 && w 11 % 2 ^ 31 == 0 && zeroWords w 12 4 &&
    zeroWords w 24 8 && (rangeFrom 32 16).all (fun i => w i % 64 == 0) && zeroWords w 48 16 && viewOk (fun i => w (16 + i)) &&
    areaOk (w 4) (n * 64 * 16 * 0x20000) && areaOk (w 5) (n * 0x2800000) && areaOk (w 6) (n * 64 * 16 * 0x400) &&
    areaOk (w 7) 64 && areaOk (w 8) (n * 64) && areaOk (w 9) (n * 1024 * 0xE00) && areaOk (w 10) (n * 0xC0000)

/-- The context that a record makes. -/
def ctxOfRecord (part : Nat) (b : List Byte) : Ctx :=
  let w (i : Nat) : Nat := bytesToNat ((b.drop (8 * i)).take 8)
  { life := .idle, part := part, root := w 0, range := w 1, hostMask := bits (w 2) 47 32, weight := bits (w 2) 15 8
    prio := bits (w 2) 1 0, tvec := BitVec.ofNat 64 (w 3), bsBase := w 4, bwBase := w 5, trBase := w 6, flog := w 7
    spillQ := w 8, travSp := w 9, mrBase := w 10, vaultVa := w 11
    view := (rangeFrom 16 8).map (fun i => BitVec.ofNat 64 (w i))
    eddy := (rangeFrom 32 16).map (fun i => BitVec.ofNat 64 (w i)) }

/-- CTX_CREATE, with the record read from the host. -/
def execCtxCreate (queue : Nat) (record : List Byte) (s : State) : Host.Outcome State Fault Refusal :=
  if record.length ≠ 512 then .next s
  else s.soundCommand queue opCtxCreate (fun c part _ =>
      !hostSpan c.b 512 || recordOk (s.clustersOf part).length record) fun c part ctx =>
    if !hostSpan c.b 512 || s.ctxElsewhere part ctx then s.resultIs queue resNotOwned
    else if (mget s.ctxs ctx).isSome then s.resultIs queue resState
    else { s with ctxs := mset s.ctxs ctx (ctxOfRecord part record) }.resultIs queue resDone

/-! ### Copies by command -/

/-- Bytes written by the firmware perform at device scope, through their homes' caches (DESIGN CHOICE, log 27). -/
def State.firmwareStore (s : State) (pa : Nat) (b : List Byte) : State :=
  if b.isEmpty then s else (s.chargeWrite pa b.length 1).homeStore pa b

/-- COPY_IN, with the data read from the host. -/
def execCopyIn (queue : Nat) (data : List Byte) (s : State) : Host.Outcome State Fault Refusal :=
  match s.cmdDue queue opCopyIn with
  | none => .next s
  | some c =>
    if data.length ≠ c.c then .next s
    else s.command queue opCopyIn fun c part a =>
      if !hostSpan a c.c || !s.spanOwned part c.b c.c then s.resultIs queue resNotOwned
      else (s.firmwareStore c.b data).resultIs queue resDone

/-- Bytes of memory for the host, line by line; a poisoned line gives bytes that the spec leaves open (DEDUCED, log 59). -/
def State.hostBytes (s : State) (pa : Nat) : Nat → List Byte × State
  | 0 => ([], s)
  | n + 1 =>
    let (line, s) :=
      if s.poisoned pa 64 then
        let (x, s) := s.takeFree
        (natToBytes 64 x, s)
      else (memRead s.mem pa 64, s)
    let (rest, s) := s.hostBytes (pa + 64) n
    (line ++ rest, s)

/-- COPY_OUT. -/
def execCopyOut (s : State) : Host.Outcome State Fault Refusal :=
  let queue := s.subj.a
  s.command queue opCopyOut fun c part pa =>
    if !hostSpan c.b c.c || !s.spanOwned part pa c.c then s.resultIs queue resNotOwned
    else
      let (b, s) := (s.chargeRead pa c.c 1).hostBytes pa (c.c / 64)
      let s := if b.isEmpty then s else s.postWrite queue (s.queue queue commandQueue).link c.b b
      s.resultIs queue resDone

/-! ### Shootdown (02 R40, R41) -/

/-- SHOOTDOWN: every cluster of the partition has it to handle. -/
def execShootdown (s : State) : Host.Outcome State Fault Refusal :=
  let queue := s.subj.a
  s.command queue opShootdown fun c part a =>
    if !s.ctxIn part (a % 4096) then s.resultIs queue resNotOwned
    else
      let (id, s) := s.newId
      let d : Shootdown :=
        { queue := queue, ctx := a % 4096, ranges := tbit a 12, pages := tbit a 13, acks := s.clustersOf part, waits := []
          lo := if c.c = 0 then 0 else c.b, hi := if c.c = 0 then 2 ^ 64 - 1 else c.b + 4096 * c.c - 1 }
      { s with shootdowns := mset s.shootdowns id d }.updCmd queue (fun c => { c with waitingFor := [id] })

/-- Bytes of a context's space that a shootdown covers. -/
def Shootdown.covers (d : Shootdown) (va n : Nat) : Bool := decide (va ≤ d.hi) && decide (d.lo < va + n)

/-- A cluster's copy of a table entry goes: of a range entry where range entries changed, otherwise of a walk entry that
serves an address covered where page entries changed. -/
def Shootdown.dropsCopy (d : Shootdown) (e : TableCopy) : Bool :=
  e.ctx == d.ctx && (if e.level = 4 then d.ranges
    else d.pages && d.covers (e.index * 2 ^ levelShift e.level) (2 ^ levelShift e.level))

/-- Discards a cluster's cached translations, its copies of table entries and its fetch blocks. A changed range entry may
cover what pages mapped, so it discards translations of either kind. -/
def Shootdown.discard (d : Shootdown) (k : Cluster) : Cluster :=
  let keep (e : Cached) : Bool :=
    e.ctx ≠ d.ctx || !d.covers e.lo (e.hi + 1 - e.lo) || !(d.ranges || (d.pages && !e.range))
  let wave (w : Wave) : Wave :=
    if w.ctx = d.ctx then { w with fetched := w.fetched.filter (fun b => !d.covers b.1 32) } else w
  { k with
    tcache := k.tcache.filter keep, tables := k.tables.filter (fun e => !d.dropsCopy e)
    icache := k.icache.filter (fun b => b.ctx ≠ d.ctx || !d.covers b.va 32)
    waves := k.waves.map (fun x => (x.1, wave x.2)) }

/-- The context and cluster for which a link is asked. -/
def State.askedFor (s : State) (ask : HostAsk) : Option (Nat × Nat) :=
  match ask with
  | .packet _ | .packetRead _ _ | .mapRead _ _ _ | .profile _ => none
  | .fetch cl row _ | .waveRead cl row _ => (s.waveAt? cl row).map (fun w => (w.ctx, cl))
  | .jobRead j _ => (mget s.jobs j).map (fun j => (j.owner.ctx, j.owner.cl))
  | .traversalRead t => (mget s.traversals t).map (fun t => (t.tag.ctx, t.tag.cl))
  | .tile t => ((mget s.addTiles t).bind (fun t => mget s.jobs t.job)).map (fun j => (j.owner.ctx, j.owner.cl))

/-- What is out over a link is an element of a job's, or a drain tile. -/
def HostAsk.ofJob : HostAsk → Bool
  | .jobRead _ _ | .tile _ => true
  | .packet _ | .packetRead _ _ | .mapRead _ _ _ | .fetch _ _ _ | .waveRead _ _ _ | .traversalRead _ | .profile _ => false

/-- What a cluster has under way for a context that a shootdown covers: accesses already translated, and reads out over a
link. -/
def State.underWay (s : State) (cl : Nat) (d : Shootdown) : List Nat :=
  let mine (t : WTag) : Bool := t.cl == cl && t.ctx == d.ctx
  let acc := (s.accesses.filter (fun x => mine x.2.tag && !x.2.performed && d.covers x.2.va x.2.size)).map Prod.fst
  let reads := (s.hostReqs ++ s.peerReqs).filter (fun r => !r.2.ask.ofJob && s.askedFor r.2.ask == some (d.ctx, cl))
  acc ++ reads.map Prod.fst

/-- Engine data of a cluster's jobs that a shootdown covers and that was translated before an identifier was given out has
not performed: elements on their way, packets, and drain tiles at their homes. -/
def State.engineOut (s : State) (cl mark : Nat) (d : Shootdown) : Bool :=
  let job (id : Nat) : Bool := (mget s.jobs id).any (fun j => j.owner.cl == cl && j.owner.ctx == d.ctx)
  let flight (k : JobKind) (f : Flight) : Bool :=
    let n := k.size f.n
    decide (f.born ≤ mark) && (f.src.any (fun x => d.covers x.1 n) || ((k.dst f.n).isSome && d.covers f.dst n))
  s.jobs.any (fun j => job j.1 && j.2.flight.any (flight j.2.kind)) ||
    s.packets.any (fun e => match e.2.body with
      | .copy w => w.cell.isNone && job w.job && decide (w.born ≤ mark) && d.covers w.va (max 1 w.span)
      | _ => false) ||
    s.addTiles.any (fun t => job t.2.job && decide (t.2.born ≤ mark) && d.covers t.2.va 4096)

/-- Something under way has not performed. -/
def State.stillOut (s : State) (id : Nat) : Bool :=
  s.isPending id || (mget s.hostReqs id).isSome || (mget s.peerReqs id).isSome

/-- A cluster acknowledges; the last acknowledgement completes the shootdown. -/
def State.acknowledge (s : State) (id cl : Nat) (d : Shootdown) : State :=
  let left := without cl d.acks
  if left.isEmpty then { s with shootdowns := mdel s.shootdowns id }.resultIs d.queue resDone
  else { s with shootdowns := mset s.shootdowns id { d with acks := left } }

/-- SHOOTDOWN_ACKNOWLEDGE of the shootdown and cluster that State.subj names: the cluster discards, and acknowledges once
what was under way has performed. -/
def execShootdownAcknowledge (s : State) : Host.Outcome State Fault Refusal :=
  let id := s.subj.a
  let cl := s.subj.b
  match mget s.shootdowns id with
  | none => .next s
  | some d =>
    if !d.acks.contains cl then .next s
    else
      let (d, s) := match mget d.waits cl with
        | some _ => (d, s)
        | none =>
          let ids := s.underWay cl d
          let (mark, s) := s.newId
          let s := s.cancelFetches cl d.ctx (fun b => d.covers b 32)
          ({ d with waits := mset d.waits cl ids, marks := mset d.marks cl mark }, s.setCluster cl (d.discard (s.cluster cl)))
      if (mgetD d.waits cl []).any s.stillOut || s.engineOut cl (mgetD d.marks cl 0) d then .next { s with shootdowns := mset s.shootdowns id d }
      else .next (s.acknowledge id cl d)

/-! ### Mailboxes -/

/-- Carries out a mailbox command: the slice must be the partition's. -/
def State.mailboxCommand (s : State) (queue : Nat) (free : Bool) (put : Nat → SMap Mailbox → SMap Mailbox) :
    Host.Outcome State Fault Refusal :=
  match s.cmdDue queue opMbox with
  | none => .next s
  | some c =>
    if (c.b == 0xFFFF) != free then .next s
    else s.command queue opMbox fun c part a =>
      let n := a % 128
      if s.partOfSlice n ≠ some part || (!free && !s.ctxIn part c.b) then s.resultIs queue resNotOwned
      else
        let x := s.slice n
        (s.setSlice n { x with mboxes := put (bits a 11 8) x.mboxes }).resultIs queue resDone

/-- A mailbox assigned to a context: what it holds for that context stays (DEDUCED, log 58). -/
def assignBox (ctx n : Nat) (m : SMap Mailbox) : SMap Mailbox :=
  if (mget m n).any (fun b => b.ctx == ctx) then m else mset m n { ctx := ctx, packets := [] }

/-- MBOX_ASSIGN. -/
def execMboxAssign (s : State) : Host.Outcome State Fault Refusal :=
  let ctx := ((s.cmdDue s.subj.a opMbox).map Command.b).getD 0
  s.mailboxCommand s.subj.a false (assignBox ctx)

/-- MBOX_FREE: the packets a mailbox holds are discarded. -/
def execMboxFree (s : State) : Host.Outcome State Fault Refusal :=
  s.mailboxCommand s.subj.a true (fun n m => mdel m n)

/-! ### Answers for parked workgroups (11 R188, R189, R191) -/

/-- Carries out an answer of a kind: cluster and context must be the partition's, the workgroup parked or escalated. -/
def State.answerCommand (s : State) (queue kind : Nat) (put : Away → Option Away) : Host.Outcome State Fault Refusal :=
  match s.cmdDue queue opAnswer with
  | none => .next s
  | some c =>
    if c.b ≠ kind then .next s
    else s.command queue opAnswer fun c part a =>
      let cl := a % 128
      if s.partOfCluster cl ≠ some part || !s.ctxIn part c.c then s.resultIs queue resNotOwned
      else
        let key := awayKey c.c (bits a 13 8)
        match ((mget (s.cluster cl).away key).filter (fun w => w.mode == .parked || w.mode == .escalated)).bind put with
        | none => s.resultIs queue resState
        | some w => (s.updAway cl key (fun _ => w)).resultIs queue resDone

/-- A pending record is gone, except one whose trap must be delivered again. -/
def Wave.retry (w : Wave) : Wave := if w.redeliver then w else { w with pending := none }

/-- ANSWER RETRY. -/
def execAnswerRetry (s : State) : Host.Outcome State Fault Refusal :=
  s.answerCommand s.subj.a 0 (fun w =>
    some { w with mode := .answered, waves := w.waves.map (fun x => (x.1, x.2.retry)) })

/-- ANSWER DELIVER: refused for an escalated workgroup. -/
def execAnswerDeliver (s : State) : Host.Outcome State Fault Refusal :=
  s.answerCommand s.subj.a 1 (fun w => if w.mode = .escalated then none else some { w with mode := .answered })

/-- ANSWER KILL. -/
def execAnswerKill (s : State) : Host.Outcome State Fault Refusal :=
  s.answerCommand s.subj.a 2 (fun w => some { w with mode := .killed })

/-! ### The fault log (08 R141; 25 R352) -/

/-- Whether the records of a log from index i, n of them, may be released: the result of LOG_FREE. A record whose DLV is
clear counts before one that cannot be read. -/
def State.logResult (s : State) (ctx : Nat) (h : LogHeader) : Nat → Nat → Nat → Nat
  | 0, _, worst => worst
  | n + 1, i, worst =>
    match s.hwRead 0 ctx (h.recordAddr i + 40) 8 with
    | .error _ => s.logResult ctx h n (i + 1) resLog
    | .ok b => if tbit (bytesToNat b) 63 then s.logResult ctx h n (i + 1) worst else resState

/-- Records of a log between its FREE index and an index, and records that stand in it. -/
def LogHeader.before (h : LogHeader) (i : Nat) : Nat := (i + 2 ^ 32 - h.free) % 2 ^ 32
def LogHeader.held (h : LogHeader) : Nat := h.before h.write

/-- An index lies between FREE and WRITE of the log of a context, where there is one that can be read. -/
def State.logInRange (s : State) (ctx i : Nat) : Bool :=
  match if ctx = 0 then .error causeNotPresent else { s with old := [] }.readLog 0 ctx with
  | .error _ => true
  | .ok h => decide (h.before i ≤ h.held)

/-- The line uses of reading a log's header and its records from index i, n of them (05 R98). -/
def State.logUses (s : State) (ctx : Nat) (h : LogHeader) (i n : Nat) : List (Nat × LineUse) :=
  s.areaUses 0 ctx (s.ctxOf ctx).flog 64 ++ (rangeFrom i n).flatMap (fun i => s.areaUses 0 ctx (h.recordAddr i) 64)

/-- LOG_FREE. -/
def execLogFree (s : State) : Host.Outcome State Fault Refusal :=
  let queue := s.subj.a
  s.soundCommand queue opLogFree (fun c _ ctx => s.logInRange ctx c.b) fun c part ctx =>
    if !s.ctxIn part ctx then s.resultIs queue resNotOwned
    else
      let t := { s with old := [] }
      match t.readLog 0 ctx with
      | .error _ => s.resultIs queue resLog
      | .ok h =>
        let read := t.charge (t.logUses ctx h h.free (h.before c.b))
        match t.logResult ctx h (h.before c.b) h.free resDone with
        | 0 =>
          match read.hwWrite 0 ctx ((s.ctxOf ctx).flog + 16) (natToBytes 4 c.b) with
          | .ok s' => s'.resultIs queue resDone
          | .error _ => read.resultIs queue resLog
        | r => read.resultIs queue r

/-- The records of a log from index i, n of them; none where one cannot be read. -/
def State.logRecords (s : State) (ctx : Nat) (h : LogHeader) (i n : Nat) : List (Option (List Byte)) :=
  (rangeFrom i n).map (fun i => (s.hwRead 0 ctx (h.recordAddr i) 64).toOption)

/-- SEQ of a record. -/
def recordSeq (b : List Byte) : Nat := bytesToNat ((b.drop 32).take 8)

/-- Records put into the places of those that could be read, in turn; zeros in the places of the others. -/
def fillRecords : List (Option (List Byte)) → List (List Byte) → List (List Byte)
  | [], _ => []
  | some _ :: t, b :: bs => b :: fillRecords t bs
  | _ :: t, bs => natToBytes 64 0 :: fillRecords t bs

/-- The records of a log in SEQ order. One that cannot be read has no SEQ that could be known: it keeps the place of its index
(DESIGN CHOICE, log 105). -/
def State.logInOrder (s : State) (ctx : Nat) (h : LogHeader) : List (List Byte) :=
  let found := s.logRecords ctx h h.free h.held
  fillRecords found (sortBy recordSeq (found.filterMap id))

/-- Hands a context's log over to a host buffer: the result, and what is posted. -/
def State.handOver (s : State) (queue ctx link addr len : Nat) : Nat × State :=
  let t := { s with old := [] }
  match t.readLog 0 ctx, t.hwRead 0 ctx (s.ctxOf ctx).flog 64 with
  | .ok h, .ok b =>
    let lines := b :: t.logInOrder ctx h
    let s := s.charge (t.logUses ctx h h.free h.held)
    (resDone, if len < 64 then s else s.postWrite queue link addr (lines.take (len / 64)).flatten)
  | _, _ => (resLog, s)

/-! ### Destruction of a context (01 R23) -/

/-- Removes a resident workgroup at once: its waves are discarded, and it ends. -/
def State.discardWg (s : State) (cl slot : Nat) : State :=
  match mget (s.cluster cl).wgs slot with
  | none => s
  | some g =>
    let rows := ((s.cluster cl).wavesOf slot).map Prod.fst
    let s := rows.foldl (fun s row => (s.leaveQueues cl row).quiesce cl row) s
    let k := s.cluster cl
    let s := s.setCluster cl { k with
      waves := k.waves.filter (fun x => x.2.wgslot ≠ slot), away := mdel k.away (awayKey g.ctx slot) }
    s.endWg cl slot g

/-- Removes a workgroup that is away at once; its entries stay until its jobs have landed. -/
def State.discardAway (s : State) (cl key : Nat) : State :=
  match mget (s.cluster cl).away key with
  | none => s
  | some a =>
    let k := s.cluster cl
    let s := s.setCluster cl { k with away := mdel k.away key }
    (((s.freeMill cl a.wg.ctx (key % 64)).settleLog cl a.wg.ctx a.wg.wgx).countEnd cl a.wg.launch)

/-- Removes what a context has on a cluster, and what waits to start there. -/
def State.discardOn (s : State) (ctx cl : Nat) : State :=
  let k := s.cluster cl
  let starts := k.startQ.filter (fun e => (mget s.launches e.launch).any (fun l => l.ctx == ctx))
  let s := s.setCluster cl { k with
    startQ := k.startQ.filter (fun e => !starts.contains e), bins := k.bins.filter (fun b => b.2.ctx ≠ ctx) }
  let s := (((s.cluster cl).wgs.filter (fun g => g.2.ctx == ctx)).map Prod.fst).foldl (fun s n => s.discardWg cl n) s
  let s := (((s.cluster cl).away.filter (fun a => a.2.wg.ctx == ctx)).map Prod.fst).foldl (fun s n => s.discardAway cl n) s
  (starts.foldl (fun s e => s.countEnd cl e.launch) s).settleSlot cl ctx

/-- CTX_DESTROY. -/
def execCtxDestroy (s : State) : Host.Outcome State Fault Refusal :=
  let queue := s.subj.a
  s.command queue opCtxDestroy fun _ part ctx =>
    if s.ctxElsewhere part ctx then s.resultIs queue resNotOwned
    else match mget s.ctxs ctx with
      | none => s.resultIs queue resState
      | some c =>
        if c.life = .destroying then s.resultIs queue resState
        else
          let s := { s with ctxs := mset s.ctxs ctx { c with life := .destroying } }
          ((s.clustersOf part).foldl (fun s cl => s.discardOn ctx cl) s).updCmd queue (fun c => { c with waitingFor := [ctx] })

/-- A packet carries something of a context. -/
def Packet.ofCtx (p : Packet) (ctx : Nat) : Bool := p.ctx == ctx

/-- Something of a context is under way: jobs, packets, accesses, requests, or an eviction or merge. -/
def State.ctxBusy (s : State) (ctx : Nat) : Bool :=
  s.jobs.any (fun j => j.2.owner.ctx == ctx) || s.addTiles.any (fun t => t.2.ctx == ctx) || s.packets.any (fun p => p.2.ofCtx ctx) ||
    s.laterals.any (fun a => a.2.tag.ctx == ctx) || s.traversals.any (fun t => t.2.tag.ctx == ctx) ||
    s.clusters.any (fun k => k.2.div.any (fun e => e.2.ctx == ctx && e.2.state ≠ .active))

/-- Stands for a context that is no more, as the last holder of a granule: no context has this number. -/
def pastContext : Nat := 4096

/-- Nothing of a context is left on a cluster. A granule it held last is zeroed for whoever holds it next, also for a new
context of its number (01 R23, 03 R49). -/
def Cluster.forget (k : Cluster) (ctx : Nat) : Cluster :=
  { k with
    vaultOwner := k.vaultOwner.map (fun e => (e.1, if e.2 = ctx then pastContext else e.2))
    ended := k.ended.filter (fun g => g.2.ctx ≠ ctx), slots := k.slots.filter (fun x => x.2.ctx ≠ ctx)
    tiles := k.tiles.filter (fun t => t.2.ctx ≠ ctx), plane := k.plane.filter (fun p => p.ctx != ctx)
    mill := k.mill.filter (fun m => m.ctx != ctx), rayStacks := k.rayStacks.filter (fun x => x.2.ctx ≠ ctx)
    div := k.div.filter (fun e => e.2.ctx ≠ ctx), tcache := k.tcache.filter (fun e => e.ctx ≠ ctx), tables := k.tables.filter (fun e => e.ctx ≠ ctx)
    icache := k.icache.filter (fun b => b.ctx ≠ ctx) }

/-- Nothing of a context is left at a slice. -/
def Slice.forget (x : Slice) (ctx : Nat) : Slice :=
  { x with
    mboxes := x.mboxes.filter (fun m => m.2.ctx ≠ ctx), waiters := x.waiters.filter (fun w => w.tag.ctx ≠ ctx)
    lod := x.lod.filter (fun k => k.ctx ≠ ctx) }

/-- DESTRUCTION_COMPLETE for the command queue that State.subj names. -/
def execDestructionComplete (s : State) : Host.Outcome State Fault Refusal :=
  let queue := s.subj.a
  let r := s.queue queue commandQueue
  match r.cmd.filter (fun c => c.op == opCtxDestroy && c.result.isNone) with
  | none => .next s
  | some c =>
    match c.waitingFor with
    | [] => .next s
    | ctx :: _ =>
      if s.ctxBusy ctx then .next s
      else
        let (res, s) := s.handOver queue ctx r.link c.b c.c
        let clusters : SMap Cluster := s.clusters.map (fun k => (k.1, k.2.forget ctx))
        let slices : SMap Slice := s.slices.map (fun x => (x.1, x.2.forget ctx))
        .next ({ s with
          ctxs := mdel s.ctxs ctx, clusters := clusters, slices := slices
          ops := s.ops.filter (fun o => o.2.tag.ctx ≠ ctx) }.resultIs queue res)

/-! ### Checkpoint and restore (08 R143; 25 R360) -/

/-- The partitions a checkpoint command acts on: its own, or all. -/
def State.scopeOf (s : State) (queue : Nat) : List Nat := if queue = deviceQueue then s.parts.map Prod.fst else [queue]

/-- A checkpoint of partitions begins: they admit no launch and start nothing. -/
def State.freeze (s : State) (parts : List Nat) : State :=
  { s with parts := s.parts.map (fun p => (p.1, if parts.contains p.1 then { p.2 with checkpointing := true } else p.2)) }

/-- The command due, whichever partition it names. -/
def State.wholeCommand (s : State) (queue op : Nat) (body : List Nat → State) : Host.Outcome State Fault Refusal :=
  match s.cmdDue queue op with
  | none => .next s
  | some _ => .next (body (s.scopeOf queue))

/-- CHECKPOINT. -/
def execCheckpoint (s : State) : Host.Outcome State Fault Refusal :=
  let queue := s.subj.a
  s.wholeCommand queue opCheckpoint fun parts =>
    (s.freeze parts).updCmd queue (fun c =>
      if parts.isEmpty then { c with result := some resDone } else { c with waitingFor := parts.map (· + 1) })

/-- Workgroups of a cluster that can be evicted together: as many as the diversion table has room for. -/
def State.evictable (s : State) (cl : Nat) : List Nat → List Nat → List Nat
  | [], acc => acc
  | n :: t, acc =>
    if (s.cluster cl).divRoom (s.entriesNeeded cl (acc ++ [n]) false) then s.evictable cl t (acc ++ [n])
    else s.evictable cl t acc

/-- A cluster puts its workgroups aside for a checkpoint: those that the table has room for are evicted, and the others
stop at instruction boundaries. Whether it had any to evict. -/
def State.putAside (s : State) (cl : Nat) : Bool × State :=
  let slots := (s.cluster cl).wgs.map Prod.fst
  let out := s.evictable cl slots []
  let rest := slots.filter (fun n => !out.contains n)
  let s := rest.foldl (fun s n =>
    ((s.cluster cl).wavesOf n).foldl (fun s w => s.quiesce cl w.1) (s.stopWg cl n false)) s
  if out.isEmpty then (false, s) else (true, s.beginEvict cl out none)

/-- Workgroups that were stopped only for a checkpoint run again. -/
def State.runOn (s : State) (cl : Nat) : State :=
  ((s.cluster cl).wgs.filter (fun g =>
      !g.2.escalated && ((s.cluster cl).wavesOf g.1).all (fun w => w.2.pending.isNone) && !s.semWaits cl g.2.ctx)).foldl
    (fun s g => s.updWg cl g.1 (fun g => { g with stopped := false })) s

/-- Something of a partition's contexts is under way. -/
def State.partBusy (s : State) (part : Nat) : Bool :=
  s.ctxs.any (fun c => c.2.part == part && s.ctxBusy c.1)

/-- Memory of a partition: the cells of its columns' blocks and of its vaults. -/
def State.partCell (s : State) (part : Nat) (a : Nat) : Bool :=
  match region a with
  | .hbm _ => s.ownerOf a == some part
  | .vault _ => s.ownerOf a == some part
  | _ => false

/-- The checkpoint area of a column (01 R14). In it stand its HBM block, then its eight vaults, then the dirty lines of its
eight slices and the diversion entries of its eight clusters, at places that the spec leaves open (DESIGN CHOICE, log 99). -/
def ckptArea (c : Nat) : Nat := ckptBase + c * 0xA00000000
def ckptLines (n : Nat) : Nat := ckptArea (sliceCol n) + 0x908000000 + n / 16 * 0x1000000
def ckptEntries (n : Nat) : Nat := ckptArea (clusterCol n) + 0x910000000 + n / 16 * 0x100

/-- Where a checkpoint puts a byte of HBM or of a vault, and the byte that a place in the checkpoint areas is for. -/
def ckptPlace (a : Nat) : Nat :=
  match region a with
  | .vault n => ckptArea (clusterCol n) + colBytes + n / 16 * vaultBytes + (a - vaultBase) % vaultBytes
  | _ => ckptArea (a / colBytes) + a % colBytes
def ckptSource (x : Nat) : Nat :=
  let c := (x - ckptBase) / 0xA00000000
  let o := (x - ckptBase) % 0xA00000000
  if o < colBytes then c * colBytes + o
  else vaultBase + (8 * (2 * ((o - colBytes) / vaultBytes) + c % 2) + c / 2) * vaultBytes + (o - colBytes) % vaultBytes

/-- A place in a checkpoint area holds a byte of HBM or of a vault. -/
def ckptHolds (x : Nat) : Bool :=
  decide (ckptBase ≤ x) && decide (x < safeBase) && decide ((x - ckptBase) % 0xA00000000 < 0x908000000)

/-- The address is in the checkpoint area of one of some columns. -/
def inAreas (cols : List Nat) (a : Nat) : Bool :=
  decide (ckptBase ≤ a) && decide (a < safeBase) && cols.contains ((a - ckptBase) / 0xA00000000)

/-- The dirty lines of a slice. -/
def Slice.dirtyOnes (x : Slice) : List Nat := (x.lines.filter (fun l => l.2.dirty)).map Prod.fst

/-- Memory with the checkpoint areas of a partition written (08 R143): the columns' HBM and vaults, each dirty line with its
address and a set bit 0, and the 16 diversion entries of each cluster (08 R130). -/
def State.ckptMem (s : State) (part : Nat) (cols : List Nat) : List Host.Cell :=
  let m := s.mem.filter (fun x => !inAreas cols x.1)
  let m := (s.mem.filter (fun x => s.partCell part x.1)).foldl (fun m x => memSetByte m (ckptPlace x.1) x.2) m
  let m := (s.slicesOf part).foldl (fun m n =>
    ((rangeFrom 0 cacheLines).zip (s.slice n).dirtyOnes).foldl (fun m e =>
      memWrite (memWrite m (ckptLines n + 0x80 * e.1) (memRead s.mem (64 * e.2) 64)) (ckptLines n + 0x80 * e.1 + 64)
        (natToBytes 8 (64 * e.2 + 1))) m) m
  (s.clustersOf part).foldl (fun m n =>
    (s.cluster n).div.foldl (fun m e => memWrite m (ckptEntries n + 16 * e.1) (natToBytes 16 e.2.word)) m) m

/-- The poisoned lines with those of the areas: a copy of a poisoned line is poisoned. -/
def State.ckptPoison (s : State) (part : Nat) (cols : List Nat) : List Nat :=
  let p := s.poison.filter (fun l => !inAreas cols (64 * l))
  let copied := (s.poison.filter (fun l => s.partCell part (64 * l))).map (fun l => ckptPlace (64 * l) / 64)
  let lines := (s.slicesOf part).flatMap (fun n =>
    (((rangeFrom 0 cacheLines).zip (s.slice n).dirtyOnes).filter (fun e => s.poison.contains e.2)).map (fun e =>
      (ckptLines n + 0x80 * e.1) / 64))
  p ++ copied ++ lines

/-- The bytes and the poison of a partition's checkpoint areas. -/
def State.writeAreas (s : State) (part : Nat) : State :=
  let cols := ((mget s.parts part).map Part.cols).getD []
  { s with mem := s.ckptMem part cols, poison := s.ckptPoison part cols }

/-- The dirty lines that a slice's place in the areas holds, from entry j on: where each stands and its address. -/
def ckptDirty (m : List Host.Cell) (n : Nat) : Nat → Nat → List (Nat × Nat)
  | 0, _ => []
  | fuel + 1, j =>
    let a := ckptLines n + 0x80 * j
    let v := memNat m (a + 64) 8
    if tbit v 0 then (a, v / 64 * 64) :: ckptDirty m n fuel (j + 1) else []

/-- What a checkpoint keeps of a partition beside its areas. -/
def State.imageOf (s : State) (part : Nat) : CheckpointImage :=
  { layout := s.dev.layout, part := part
    clusters := s.clusters.filter (fun k => s.partOfCluster k.1 == some part)
    slices := s.slices.filter (fun x => s.partOfSlice x.1 == some part)
    ctxs := s.ctxs.filter (fun c => c.1 ≠ 0 && c.2.part == part)
    launches := s.launches.filter (fun l => l.2.part == part) }

/-- The main side without power: all its state is lost but the safe tier and what Towpath keeps (25 R356, R358, R361). -/
def State.dark (s : State) (main : MainSide) : State :=
  let safe (c : Host.Cell) : Bool := decide (ckptBase ≤ c.1) && decide (c.1 < cxlBase)
  let dev : Device :=
    { main := main, current := s.dev.current, previous := s.dev.previous, fused := s.dev.fused
      storedRetired := s.dev.storedRetired, recovery := s.dev.recovery, configDigest := s.dev.configDigest }
  { State.reset with
    now := s.now, mem := s.mem.filter safe, poison := s.poison.filter (fun l => decide (ckptBase ≤ 64 * l) && decide (64 * l < cxlBase))
    dev := dev, hostOut := s.hostOut, checkpoints := s.checkpoints, nextId := s.nextId, fresh := s.fresh
    cur := s.cur, subj := s.subj, old := s.old, issued := s.issued, agenda := s.agenda, windows := s.windows }

/-- A partition's checkpoint is complete: commands that waited for it go on, and the main side is powered off after the last
that must precede it (25 R364). -/
def State.checkpointDone (s : State) (part : Nat) : State :=
  let older : List CheckpointImage := s.checkpoints.filter (fun c => c.part ≠ part)
  let s := { s.writeAreas part with
    checkpoints := older ++ [s.imageOf part]
    parts := mupd s.parts part (fun p => { p with checkpointing := false }) }
  let s := (s.clustersOf part).foldl State.runOn s
  let tell (s : State) (queue : Nat) : State :=
    s.updCmd queue (fun c =>
      if c.op = opCheckpoint && c.waitingFor.contains (part + 1) then
        let left := without (part + 1) c.waitingFor
        { c with waitingFor := left, result := if left.isEmpty then some resDone else none }
      else c)
  let s := (s.parts.map Prod.fst ++ [deviceQueue]).foldl tell s
  if s.dev.offAfter.contains part then
    let left := without part s.dev.offAfter
    if left.isEmpty then s.dark .off else { s with dev := { s.dev with offAfter := left } }
  else s

/-- CHECKPOINT_COPY of the partition that State.subj names: it puts its workgroups aside, and, once its jobs have landed,
saves what the checkpoint holds (DESIGN CHOICE, log 62). -/
def execCheckpointCopy (s : State) : Host.Outcome State Fault Refusal :=
  let part := s.subj.a
  let cls := s.clustersOf part
  if !(mget s.parts part).any Part.checkpointing || cls.any (fun cl => !(s.cluster cl).divQuiet) then .next s
  else
    let (began, s) := cls.foldl (fun (st : Bool × State) cl =>
      let (b, s) := st.2.putAside cl
      (st.1 || b, s)) (false, s)
    if began || s.partBusy part then .next s else .next (s.checkpointDone part)

/-- The image of a partition's checkpoint under the layout of now. -/
def State.imageFor (s : State) (part : Nat) : Option CheckpointImage :=
  s.checkpoints.find? (fun c => c.part == part && c.layout == s.dev.layout)

/-- What is in flight for a partition's contexts is dropped; buffers it held are free again. -/
def State.dropTraffic (s : State) (part : Nat) : State :=
  let mine (ctx : Nat) : Bool := s.partOfCtx ctx == part
  let gone := s.packets.filter (fun p => p.2.part == part)
  let s := gone.foldl (fun s p => s.leave p.2) s
  let askedBy (r : HostReq) : Bool :=
    match r.ask with
    | .packet id => gone.any (fun p => p.1 == id)
    | .packetRead _ _ | .mapRead _ _ _ => false
    | .profile launch => (mget s.launches launch).any (fun l => l.part == part)
    | a => (s.askedFor a).any (fun x => mine x.1)
  { s with
    packets := s.packets.filter (fun p => p.2.part ≠ part), laterals := s.laterals.filter (fun a => !mine a.2.tag.ctx)
    jobs := s.jobs.filter (fun j => !mine j.2.owner.ctx), addTiles := s.addTiles.filter (fun t => !mine t.2.ctx)
    traversals := s.traversals.filter (fun t => !mine t.2.tag.ctx)
    ops := s.ops.filter (fun o => !mine o.2.tag.ctx), hostReqs := s.hostReqs.filter (fun r => !askedBy r.2)
    peerReqs := s.peerReqs.filter (fun r => !askedBy r.2) }

/-- Memory with a partition's bytes as its checkpoint areas hold them, and the dirty lines at their homes. -/
def State.restoredMem (s : State) (part : Nat) : List Host.Cell :=
  let m := s.mem.filter (fun x => !s.partCell part x.1)
  let held := s.mem.filter (fun x => ckptHolds x.1 && s.partCell part (ckptSource x.1))
  let m := held.foldl (fun m x => memSetByte m (ckptSource x.1) x.2) m
  ((s.slicesOf part).flatMap (fun n => ckptDirty s.mem n cacheLines 0)).foldl (fun m e =>
    memWrite m e.2 (memRead s.mem e.1 64)) m

/-- The poisoned lines after that. -/
def State.restoredPoison (s : State) (part : Nat) : List Nat :=
  let dirty := (s.slicesOf part).flatMap (fun n => ckptDirty s.mem n cacheLines 0)
  let p := s.poison.filter (fun l => !s.partCell part (64 * l) && !dirty.any (fun e => e.2 == 64 * l))
  let held := (s.poison.filter (fun l => ckptHolds (64 * l) && s.partCell part (ckptSource (64 * l)))).map (fun l =>
    ckptSource (64 * l) / 64)
  let lines := (dirty.filter (fun e => s.poison.contains (e.1 / 64))).map (fun e => e.2 / 64)
  (p ++ held ++ lines).eraseDups

/-- The diversion table of a cluster as its checkpoint area holds it. -/
def State.restoredDiv (s : State) (n : Nat) : SMap DivEntry :=
  (rangeFrom 0 divEntries).filterMap (fun k => (divOfWord (memNat s.mem (ckptEntries n + 16 * k) 16)).map (fun e => (k, e)))

/-- Puts a partition back as its checkpoint holds it; retired clusters and failed slices stay so. -/
def State.restorePart (s : State) (c : CheckpointImage) : State :=
  let part := c.part
  let s := s.dropTraffic part
  let clusters := (s.clustersOf part).foldl (fun m n =>
    mset m n { mgetD c.clusters n {} with retired := (s.cluster n).retired, div := s.restoredDiv n }) s.clusters
  let slices := (s.slicesOf part).foldl (fun m n =>
    mset m n { mgetD c.slices n {} with failed := (s.slice n).failed }) s.slices
  let launchesOf (q : Nat) : List Nat := (c.launches.filter (fun l => l.2.queue == q)).map Prod.fst
  let renew (p : Part) : Part :=
    { p with queues := p.queues.map (fun q => (q.1, { q.2 with launches := launchesOf q.1, held := [] })) }
  let s := { s with
    mem := s.restoredMem part, poison := s.restoredPoison part
    clusters := clusters, slices := slices
    ctxs := mputAll (s.ctxs.filter (fun x => x.1 = 0 || x.2.part ≠ part)) c.ctxs
    launches := mputAll (s.launches.filter (fun l => l.2.part ≠ part)) c.launches
    parts := mupd s.parts part renew }
  (s.clustersOf part).foldl State.runOn s

/-- RESTORE (DESIGN CHOICE, log 63). -/
def execRestore (s : State) : Host.Outcome State Fault Refusal :=
  let queue := s.subj.a
  s.wholeCommand queue opRestore fun parts =>
    let images := parts.filterMap s.imageFor
    if images.length ≠ parts.length then s.resultIs queue resState
    else (images.foldl State.restorePart s).resultIs queue resDone

/-! ### Completion of commands (25 R353) -/

/-- COMMAND_COMPLETION on the queue that State.subj names (DEDUCED, log 60). -/
def execCommandCompletion (s : State) : Host.Outcome State Fault Refusal :=
  let queue := s.subj.a
  let r := s.queue queue commandQueue
  match r.cmd with
  | none => .next s
  | some c =>
    match c.result with
    | none => .next s
    | some n =>
      let s := s.setQueue queue commandQueue { r with cmd := none }
      let s := if c.done = 0 then s else s.postWrite queue r.link c.done (natToBytes 8 (c.seq + n * 2 ^ 32))
      .next ((s.queueMsix queue 1).advanceNext queue commandQueue)

end Sys2Proof.Machine
end

