-- ==== Sys2Proof/Machine/Manage.lean ====
section
/-!
DEFINITION. Bring-up, management and failure: power-up and power-down, checkpoints Towpath starts, parts that fail, Towpath's
answers over MCTP, and migration (01 R14; 03 R61; 11 R199; 25 R355 to R364).
-/
namespace Sys2Proof.Machine

/-! ### Bring-up (25 R358, R359) -/

/-- CXL granules that a window can hold. -/
def maxGranules : Nat := 448

/-- Whole granules of 16 GiB in the bytes of each port's device (01 R14). -/
def granulesOf (cxl : List Nat) : List Nat := (cxl.take 6).map (· / 2 ^ 34)

/-- Granule counts in port order; populating stops when the window is full (01 R14). -/
def granuleCounts : Nat → List Nat → List Nat
  | _, [] => []
  | room, n :: t => min n room :: granuleCounts (room - min n room) t

/-- The firmware image that loads: the current one if it verifies, else the previous one; none where both fail, or where the
security version is below the fused counter. -/
def Device.bootImage (d : Device) : Option FirmwareImage :=
  let ok (i : Option FirmwareImage) : Option FirmwareImage := i.filter FirmwareImage.verified
  ((ok d.current).or (ok d.previous)).filter (fun i => decide (d.fused ≤ i.secVersion))

/-- A partition's share of the governor's window in 1/1024: in proportion to its columns unless the configuration sets
another (01 R18). -/
def shareOf (c : PartConfig) : Nat := c.share.getD (64 * c.cols.length)

/-- A partition as it forms. -/
def partFrom (c : PartConfig) : Part :=
  { cols := c.cols, share := shareOf c, ready := true
    home := (rangeFrom 0 128).filter (fun n => c.cols.contains (sliceCol n)) }

/-- Items numbered from n on. -/
def numbered {α : Type} : Nat → List α → SMap α
  | _, [] => []
  | n, a :: t => (n, a) :: numbered (n + 1) t

/-- The granules that the configuration assigns: kind, granule and partition. -/
def granulesFrom (l : SMap PartConfig) : List (Nat × Nat × Nat) :=
  l.flatMap (fun e => e.2.granules.map (fun g => (g.1, g.2, e.1)))

/-- The device with its memory trained, firmware started and partitions formed. -/
def State.bringUp (s : State) (cfg : BoardConfig) (cxl : List Nat) : State :=
  let s := s.dark .up
  let parts := numbered 0 cfg.parts
  let dev : Device :=
    { s.dev with
      recovery := false, configDigest := cfg.digest, granules := granulesFrom parts
      cxlCounts := granuleCounts maxGranules (granulesOf cxl)
      masks := cfg.masks.foldl (fun m e => msetD m e.1 0 (e.2 % 2 ^ 16)) []
      layout := cfg.parts.map PartConfig.cols }
  let retired := (cfg.retired ++ s.dev.storedRetired).filter (fun n => decide (n < 128))
  { s with
    dev := dev, parts := parts.map (fun e => (e.1, partFrom e.2))
    ctxs := [(0, { life := .resident, part := 0 })]
    clusters := retired.foldl (fun m n => mset m n { retired := true }) [] }

/-- POWER_UP of the main side. -/
def execPowerUp (cfg : BoardConfig) (cxl : List Nat) (s : State) : Host.Outcome State Fault Refusal :=
  if s.dev.main = .up then .next s
  else if !cfg.verified then .next { s with dev := { s.dev with main := .inReset } }
  else match s.dev.bootImage with
    | none => .next { s with dev := { s.dev with main := .inReset, recovery := true } }
    | some _ => .next (s.bringUp cfg cxl)

/-! ### Power and temperature (25 R360, R364) -/

/-- A checkpoint of the whole device begins. -/
def State.freezeAll (s : State) : State := s.freeze (s.parts.map Prod.fst)

/-- POWER_FAIL_WARNING of the board. -/
def execPowerFailWarning (s : State) : Host.Outcome State Fault Refusal := .next s.freezeAll

/-- JUNCTION_110C: a checkpoint of the whole device, and then the main side is powered off. -/
def execJunction110C (s : State) : Host.Outcome State Fault Refusal :=
  if s.dev.main ≠ .up then .next s
  else if s.parts.isEmpty then .next (s.dark .off)
  else
    let s := s.freezeAll
    .next { s with dev := { s.dev with offAfter := s.parts.map Prod.fst } }

/-- JUNCTION_100C: while the junction is that hot, every allotment is halved. -/
def execJunction100C (hot : Bool) (s : State) : Host.Outcome State Fault Refusal :=
  .next { s with dev := { s.dev with halved := hot } }

/-- MAIN_SIDE_FAILURE: the main side loses its state; the safe tier and Towpath go on. -/
def execMainSideFailure (reason : Nat) (s : State) : Host.Outcome State Fault Refusal :=
  let _ := reason
  .next (s.dark .failed)

/-! ### Parts that fail -/

/-- CLUSTER_RETIREMENT: resident workgroups are lost and reported (25 R361). -/
def execClusterRetirement (cl : Nat) (s : State) : Host.Outcome State Fault Refusal :=
  match s.partOfCluster cl with
  | none => .next s
  | some part =>
    if (s.cluster cl).retired then .next s
    else
      let lost := (s.cluster cl).wgs
      let s := lost.foldl (fun s g =>
        (s.postFault part (fqEntry 4 g.2.ctx cl g.1 0 0 0 0)).discardWg cl g.1) s
      let k := s.cluster cl
      let s := s.setCluster cl { k with retired := true }
      .next ({ s with dev := { s.dev with storedRetired := without cl s.dev.storedRetired ++ [cl] } }.postMsix part 3)

/-- The buddy of a slice (25 R362). -/
def buddyOf (n : Nat) : Nat := 8 * Nat.xor (n / 8) 2 + n % 8

/-- An entry of kind 5. -/
def lossEntry (where' cause : Nat) (lines : List Nat) : List Byte :=
  fqEntry 5 0 where' 0 cause (64 * (lines.foldl min (lines.headD 0))) 0 (min lines.length (2 ^ 64 - 1))

/-- Reports lines that are lost to a partition, if there are any. -/
def State.reportLoss (s : State) (part where' cause : Nat) (lines : List Nat) : State :=
  if lines.isEmpty then s else s.postFault part (lossEntry where' cause lines)

/-- SLICE_FAILURE: its buddy takes over its home-table positions (25 R362) (DEDUCED, log 66). -/
def execSliceFailure (n : Nat) (s : State) : Host.Outcome State Fault Refusal :=
  match s.partOfSlice n with
  | none => .next s
  | some part =>
    let x := s.slice n
    if x.failed then .next s
    else
      let b := buddyOf n
      let dirty := (x.lines.filter (fun l => l.2.dirty)).map Prod.fst
      let gone : Slice :=
        { failed := true, tokens := x.tokens, owed := x.owed, drawn := x.drawn, mboxes := x.mboxes.map (fun m => (m.1, { m.2 with packets := [] })) }
      let s := { s.setSlice n gone with
        parts := mupd s.parts part (fun p => { p with home := p.home.map (fun i => if i = n then b else i) }) }
      let y := s.slice b
      let s := s.setSlice b { y with barriers := y.barriers ++ x.barriers }
      let s := x.waiters.foldl (fun s w => s.wake w.tag w.gen outcomeBroken) s
      let s := { s with poison := s.poison.filter (fun l => !dirty.contains l) ++ dirty }
      .next ((s.reportLoss part n causeDataError dirty).postMsix part 3)

/-- ROUTER_FAILURE: the partition of the site goes out of service (25 R362) (DEDUCED, log 65). -/
def execRouterFailure (site : Nat) (s : State) : Host.Outcome State Fault Refusal :=
  match s.partOfCol (siteCol site) with
  | none => .next s
  | some part => .next { s with parts := mupd s.parts part (fun p => { p with outOfService := true }) }

/-- Spare lanes of a peer link (25 R355). -/
def spareLanes : Nat := 2

/-- LANE_FAILURE of a peer link: a spare takes the lane's place, or the link goes down (25 R355). -/
def execLaneFailure (link : Nat) (s : State) : Host.Outcome State Fault Refusal :=
  let used := mgetD s.dev.linkSpares link 0
  if s.dev.linkDown.contains link then .next s
  else if used < spareLanes then .next { s with dev := { s.dev with linkSpares := mset s.dev.linkSpares link (used + 1) } }
  else
    let s := { s with dev := { s.dev with linkDown := s.dev.linkDown ++ [link] } }
    .next ((s.parts.map Prod.fst).foldl (fun s p => s.postMsix p 3) s)

/-- The CXL port behind a line. -/
def State.portOfLine (s : State) (l : Nat) : Option Nat :=
  match region (64 * l) with
  | .cxl g => cxlPortOf s.dev.cxlCounts 0 g
  | _ => none

/-- CXL_PORT_DOWN: its granules have no target, and dirty lines of them are lost (03 R61). -/
def execCxlPortDown (port : Nat) (s : State) : Host.Outcome State Fault Refusal :=
  if s.dev.cxlDown.contains port then .next s
  else
    let mine (l : Nat) : Bool := s.portOfLine l == some port
    let lost := s.slices.flatMap (fun x => (x.2.lines.filter (fun l => l.2.dirty && mine l.1)).map Prod.fst)
    let owned (p : Nat) : List Nat := lost.filter (fun l => s.ownerOf (64 * l) == some p)
    let parts := (s.parts.map Prod.fst).filter (fun p =>
      s.dev.granules.any (fun g => g.1 == 1 && g.2.2 == p && cxlPortOf s.dev.cxlCounts 0 g.2.1 == some port))
    let slices : SMap Slice := s.slices.map (fun x => (x.1, { x.2 with lines := x.2.lines.filter (fun l => !mine l.1) }))
    let s := { s with slices := slices, dev := { s.dev with cxlDown := s.dev.cxlDown ++ [port] } }
    .next (parts.foldl (fun s p => (s.reportLoss p (0x80 + port) causeNoTarget (owned p)).postMsix p 3) s)

/-- LINK_LEVEL_REPLAY: the link repeats a flit whose CRC fails, and nothing else changes (25 R355). -/
def execLinkLevelReplay (link : Nat) (s : State) : Host.Outcome State Fault Refusal :=
  let _ := link
  .next s

/-! ### Towpath (25 R357, R361) -/

/-- An answer over MCTP whose value the spec leaves open. -/
def State.mctpFree (s : State) (what : Nat) : State :=
  let (x, s) := s.takeFree
  s.post (.mctp what x)

/-- Names of what Towpath answers: sensors, rails from 16 on, measurements from 256 on, and the signature over them
(DEDUCED, log 74). -/
def sensorName : Sensor → Nat
  | .dieTemp => 0
  | .coolantTemp => 1
  | .modulePower => 2
  | .governorStalls => 3
  | .sparing => 4
  | .retiredClusters => 5
  | .takenSlices => 6
  | .railCurrent r => 16 + r
def measurementName (n : Nat) : Nat := 256 + n
def signatureName : Nat := 512

/-- PLDM_SENSOR_READ: what the device itself keeps, and free values for temperatures, power and currents; the sparing count is
that of the spare lanes in use (DESIGN CHOICE, log 12). -/
def execPldmSensorRead (sensor : Sensor) (s : State) : Host.Outcome State Fault Refusal :=
  let what := sensorName sensor
  match sensor with
  | .retiredClusters => .next (s.post (.mctp what (s.clusters.filter (fun k => k.2.retired)).length))
  | .takenSlices => .next (s.post (.mctp what (s.slices.filter (fun x => x.2.failed)).length))
  | .sparing => .next (s.post (.mctp what ((s.dev.linkSpares.map Prod.snd).foldl (· + ·) 0)))
  | .governorStalls => .next (s.post (.mctp what s.dev.stalls))
  | .dieTemp | .coolantTemp | .modulePower | .railCurrent _ => .next (s.mctpFree what)

/-- FIRMWARE_UPDATE: the image becomes the current one. -/
def execFirmwareUpdate (img : FirmwareImage) (s : State) : Host.Outcome State Fault Refusal :=
  .next { s with dev := { s.dev with current := some img, previous := s.dev.current } }

/-- The value of a measurement. -/
def State.measurement (s : State) (n : Nat) : Option Nat :=
  match n with
  | 1 => some ((s.dev.bootImage.map FirmwareImage.digest).getD 0)
  | 2 => some s.dev.configDigest
  | 3 => some (Config.layoutDigest s.dev.layout)
  | _ => none

/-- SPDM_REQUEST: the measurement and a signature (DEDUCED, log 67). -/
def execSpdmRequest (measurement : Nat) (s : State) : Host.Outcome State Fault Refusal :=
  match s.measurement measurement with
  | none => .next s
  | some x => .next ((s.post (.mctp (measurementName measurement) x)).mctpFree signatureName)

/-- RETIREMENT_CLEAR: Towpath no longer keeps a cluster's retirement. -/
def execRetirementClear (cl : Nat) (s : State) : Host.Outcome State Fault Refusal :=
  .next { s with dev := { s.dev with storedRetired := without cl s.dev.storedRetired } }

/-! ### Migration (11 R199) -/

/-- A cluster without anything of a context. -/
def Cluster.depart (k : Cluster) (ctx : Nat) (mine : Nat → Bool) : Cluster :=
  let k := k.forget ctx
  { k with
    waves := k.waves.filter (fun w => w.2.ctx ≠ ctx), wgs := k.wgs.filter (fun g => g.2.ctx ≠ ctx)
    away := k.away.filter (fun a => a.2.wg.ctx ≠ ctx), bins := k.bins.filter (fun b => b.2.ctx ≠ ctx)
    startQ := k.startQ.filter (fun e => !mine e.launch), profiles := k.profiles.filter (fun p => !mine p.1)
    latch := k.latch.filter (fun row => ((mget k.waves row).map (fun w => w.ctx != ctx)).getD true) }

/-- LIVE_MIGRATION: a context for which nothing is under way leaves, with all its workgroups, for a device that accepts its
view (DESIGN CHOICE, log 64). -/
def execLiveMigration (ctx : Nat) (accepts : Bool) (s : State) : Host.Outcome State Fault Refusal :=
  match mget s.ctxs ctx with
  | none => .next s
  | some c =>
    if !accepts || ctx = 0 || c.life = .destroying || s.ctxBusy ctx then .next s
    else
      let mine (l : Nat) : Bool := (mget s.launches l).any (fun x => x.ctx == ctx)
      let clusters : SMap Cluster := s.clusters.map (fun k => (k.1, k.2.depart ctx mine))
      let slices : SMap Slice := s.slices.map (fun x => (x.1, x.2.forget ctx))
      let queue (q : RingQueue) : RingQueue := { q with launches := q.launches.filter (fun l => !mine l) }
      .next { s with
        ctxs := mdel s.ctxs ctx, clusters := clusters, slices := slices
        launches := s.launches.filter (fun l => l.2.ctx ≠ ctx), ops := s.ops.filter (fun o => o.2.tag.ctx ≠ ctx)
        parts := s.parts.map (fun p => (p.1, { p.2 with queues := p.2.queues.map (fun q => (q.1, queue q.2)) })) }

end Sys2Proof.Machine
end

