-- ==== Sys2Proof/Machine/Memory.lean ====
section
/-!
DEFINITION. Loads, stores and atomics of waves (16 R271 to R279).
-/
namespace Sys2Proof.Machine

/-- A vector load: every active lane reads at its address into its destination lane (16 R276). -/
def vectorLoad (h : Hints) (len : Nat) (k : KReg) (ty : MemType) (o : Order) (sc : Scope) (d : VReg) (a : SReg)
    (ix : Index) (scale : Nat) (disp : Int) (s : State) : Host.Outcome State Fault Refusal :=
  run h 1 len s fun s => do
    let act ← active s k
    let idx ← readIndex s act ix
    -- the destination is free and, where it is spilled, its backing area can be written
    targetVW s ty.is64 d.toNat act
    let (base, s) ← readS s a
    let lanes := (activeList act).map (fun l =>
      { lane := l, va := laneAddr base idx scale disp l, dest := .lane d.toNat l ty.is64 })
    let checked ← checkLanes s (memSize ty) .read none lanes
    counterRoom s Op.ld
    let owed : List Owed := .v d.toNat :: (if ty.is64 then [.v (d.toNat + 1)] else [])
    pure (issueLanes s o sc .load (memSize ty) (memSigned ty)
      { tag := s.tag, ld := true, left := 0, owed := owed, acq := isAcquire o sc } checked)

/-- A vector store (16 R276). -/
def vectorStore (h : Hints) (len : Nat) (k : KReg) (ty : MemType) (o : Order) (sc : Scope) (d : VReg) (a : SReg)
    (ix : Index) (scale : Nat) (disp : Int) (s : State) : Host.Outcome State Fault Refusal :=
  run h 1 len s fun s => do
    let act ← active s k
    let idx ← readIndex s act ix
    let x ← readVW s ty.is64 d.toNat act
    let (base, s) ← readS s a
    let lanes := (activeList act).map (fun l => { lane := l, va := laneAddr base idx scale disp l, data := x l })
    let checked ← checkLanes s (memSize ty) .write none lanes
    counterRoom s Op.st
    pure (issueLanes s o sc .store (memSize ty) false { tag := s.tag, st := true, left := 0 } (highestOnly checked))

/-- VLD. -/
def execVld (h : Hints) (k : KReg) (ty : MemType) (o : Order) (sc : Scope) (d : VReg) (a : SReg) (ix : Index)
    (scale : BitVec 4) (s : State) : Host.Outcome State Fault Refusal :=
  vectorLoad h 8 k ty o sc d a ix (2 ^ scale.toNat) 0 s

def execVld96 (h : Hints) (k : KReg) (ty : MemType) (o : Order) (sc : Scope) (d : VReg) (a : SReg) (ix : Index)
    (scale : BitVec 4) (disp : Word) (s : State) : Host.Outcome State Fault Refusal :=
  vectorLoad h 12 k ty o sc d a ix (2 ^ scale.toNat) disp.toInt s

def execVld128 (h : Hints) (k : KReg) (ty : MemType) (o : Order) (sc : Scope) (d : VReg) (a : SReg) (ix : Index)
    (disp scale : Word) (s : State) : Host.Outcome State Fault Refusal :=
  vectorLoad h 16 k ty o sc d a ix scale.toNat disp.toInt s

/-- VST. -/
def execVst (h : Hints) (k : KReg) (ty : MemType) (o : Order) (sc : Scope) (d : VReg) (a : SReg) (ix : Index)
    (scale : BitVec 4) (s : State) : Host.Outcome State Fault Refusal :=
  vectorStore h 8 k ty o sc d a ix (2 ^ scale.toNat) 0 s

def execVst96 (h : Hints) (k : KReg) (ty : MemType) (o : Order) (sc : Scope) (d : VReg) (a : SReg) (ix : Index)
    (scale : BitVec 4) (disp : Word) (s : State) : Host.Outcome State Fault Refusal :=
  vectorStore h 12 k ty o sc d a ix (2 ^ scale.toNat) disp.toInt s

def execVst128 (h : Hints) (k : KReg) (ty : MemType) (o : Order) (sc : Scope) (d : VReg) (a : SReg) (ix : Index)
    (disp scale : Word) (s : State) : Host.Outcome State Fault Refusal :=
  vectorStore h 16 k ty o sc d a ix scale.toNat disp.toInt s

/-- VCST packs the active lanes into consecutive elements and restarts from %row_progress (16 R277). -/
def packedStore (h : Hints) (len : Nat) (k : KReg) (ty : MemType) (o : Order) (sc : Scope) (d : VReg) (a : SReg)
    (disp : Int) (stride : Nat) (s : State) : Host.Outcome State Fault Refusal :=
  run h 1 len s fun s => do
    let act ← active s k
    let from' := s.w.rows.toNat
    let x ← atProgress from' (readVW s ty.is64 d.toNat act)
    let (base, s) ← readS s a
    let size := memSize ty
    let step := if stride = 0 then size else stride
    let elems := ((rangeFrom 0 gWidth).zip (activeList act)).drop from'
    let lanes := elems.map (fun e =>
      ({ lane := e.2, va := (((base.toNat : Int) + disp + e.1 * step) % 2 ^ 64).toNat, data := x e.2 } : LaneAcc))
    let result (n : Nat) (l : LaneAcc) : Except Nat (Nat × Nat) :=
      if n = 0 && step % size ≠ 0 && canonical l.va then .error causeMisaligned
      else (s.accessOf l.lane).checkAccess s.cur.1 s.w.ctx l.va size .write none
    let results := (rangeFrom 0 lanes.length).zip lanes |>.map (fun e => (e.2, result e.1 e.2))
    let good (r : LaneAcc × Except Nat (Nat × Nat)) : Option Checked :=
      match r.2 with
      | .ok v => some { acc := r.1, pa := v.1, attr := v.2 }
      | .error _ => none
    let done := (results.takeWhile (fun r => (good r).isSome)).filterMap good
    counterRoom s Op.st
    let put (o' : State) (rows : Nat) : State :=
      (issueLanes o' o sc .store size false { tag := o'.tag, st := true, left := 0 } (highestOnly done)).updW
        (fun w => { w with rows := BitVec.ofNat 32 rows })
    match results.drop done.length with
    | [] => pure (put s 0)
    | (l, r) :: more =>
      let p := from' + done.length
      let cause := match r with
        | .error c => c
        | .ok _ => 0
      let bad := ((l, r) :: more).filterMap (fun e => match e.2 with
        | .error _ => some e.1.lane
        | .ok _ => none)
      .error (.trap (fun o => put o p)
        { cause := cause, iaddr := s.w.pc, resume := s.w.pc, vaddr := l.va, lanes := maskOf (fun i => bad.contains i)
          progress := p, access := 1 })

/-- VCST. -/
def execVcst (h : Hints) (k : KReg) (ty : MemType) (o : Order) (sc : Scope) (d : VReg) (a : SReg) (s : State) :
    Host.Outcome State Fault Refusal :=
  packedStore h 8 k ty o sc d a 0 0 s

def execVcst96 (h : Hints) (k : KReg) (ty : MemType) (o : Order) (sc : Scope) (d : VReg) (a : SReg) (disp : Word)
    (s : State) : Host.Outcome State Fault Refusal :=
  packedStore h 12 k ty o sc d a disp.toInt 0 s

def execVcst128 (h : Hints) (k : KReg) (ty : MemType) (o : Order) (sc : Scope) (d : VReg) (a : SReg)
    (disp stride : Word) (s : State) : Host.Outcome State Fault Refusal :=
  packedStore h 16 k ty o sc d a disp.toInt stride.toNat s

/-- SLD (16 R276). -/
def scalarLoad (h : Hints) (len : Nat) (ty : MemType) (o : Order) (sc : Scope) (d a : SReg) (disp : Word) (s : State) :
    Host.Outcome State Fault Refusal :=
  run h 1 len s fun s => do
    let (base, s) ← readS s a
    let checked ← scalarCheck s (scalarAddr base disp) (memSize ty) .read none
    counterRoom s Op.ld
    scalarRoom s d
    pure (issueLanes s o sc .load (memSize ty) (memSigned ty)
      { tag := s.tag, ld := true, left := 0, owed := owedS d, acq := isAcquire o sc }
      [{ checked with acc := { checked.acc with dest := .scalar d } }])

def execSld (h : Hints) (ty : MemType) (o : Order) (sc : Scope) (d a : SReg) (s : State) :
    Host.Outcome State Fault Refusal :=
  scalarLoad h 8 ty o sc d a 0 s

def execSld96 (h : Hints) (ty : MemType) (o : Order) (sc : Scope) (d a : SReg) (disp : Word) (s : State) :
    Host.Outcome State Fault Refusal :=
  scalarLoad h 12 ty o sc d a disp s

/-- SST (16 R276): D is the data. -/
def scalarStore (h : Hints) (len : Nat) (ty : MemType) (o : Order) (sc : Scope) (d a : SReg) (disp : Word)
    (s : State) : Host.Outcome State Fault Refusal :=
  run h 1 len s fun s => do
    let (base, s) ← readS s a
    let (x, s) ← readS s d
    let checked ← scalarCheck s (scalarAddr base disp) (memSize ty) .write none
    counterRoom s Op.st
    pure (issueLanes s o sc .store (memSize ty) false { tag := s.tag, st := true, left := 0 }
      [{ checked with acc := { checked.acc with data := x.toNat } }])

def execSst (h : Hints) (ty : MemType) (o : Order) (sc : Scope) (d a : SReg) (s : State) :
    Host.Outcome State Fault Refusal :=
  scalarStore h 8 ty o sc d a 0 s

def execSst96 (h : Hints) (ty : MemType) (o : Order) (sc : Scope) (d a : SReg) (disp : Word) (s : State) :
    Host.Outcome State Fault Refusal :=
  scalarStore h 12 ty o sc d a disp s

/-- ATOM: each active lane's read-modify-write (16 R279). -/
def vectorAtomic (h : Hints) (len : Nat) (k : KReg) (ty : MemType) (op : AtomOp) (o : Order) (sc : Scope) (d : VReg)
    (a : SReg) (ix : Index) (c : VReg) (scale : Nat) (disp : Int) (s : State) : Host.Outcome State Fault Refusal :=
  run h 1 len s fun s => do
    let act ← active s k
    let idx ← readIndex s act ix
    let x ← readVW s ty.is64 c.toNat act
    let y ← if op = .cas then readVW s ty.is64 (c.toNat + (if ty.is64 then 2 else 1)) act else pure (fun _ => 0)
    targetVW s ty.is64 d.toNat act
    let (base, s) ← readS s a
    let lanes := (activeList act).map (fun l =>
      { lane := l, va := laneAddr base idx scale disp l, data := x l, data2 := y l, dest := .lane d.toNat l ty.is64 })
    let checked ← checkLanes s (memSize ty) .atomic (some (op, ty)) lanes
    counterRoom s Op.ld
    let owed : List Owed := .v d.toNat :: (if ty.is64 then [.v (d.toNat + 1)] else [])
    pure (issueLanes s o sc (.atomic op ty) (memSize ty) false
      { tag := s.tag, ld := true, left := 0, owed := owed, acq := isAcquire o sc } checked)

/-- ATOM, 64-bit form: the index is unsigned and scaled by the element size. -/
def execAtom (h : Hints) (k : KReg) (ty : MemType) (op : AtomOp) (o : Order) (sc : Scope) (d : VReg) (a : SReg)
    (b c : VReg) (s : State) : Host.Outcome State Fault Refusal :=
  vectorAtomic h 8 k ty op o sc d a (.vec b false) c (memSize ty) 0 s

def execAtom96 (h : Hints) (k : KReg) (ty : MemType) (op : AtomOp) (o : Order) (sc : Scope) (d : VReg) (a : SReg)
    (b c : VReg) (disp : Word) (s : State) : Host.Outcome State Fault Refusal :=
  vectorAtomic h 12 k ty op o sc d a (.vec b false) c (memSize ty) disp.toInt s

def execAtom128 (h : Hints) (k : KReg) (ty : MemType) (op : AtomOp) (o : Order) (sc : Scope) (d : VReg) (a : SReg)
    (ix : Index) (c : VReg) (disp : Word) (scale : BitVec 24) (s : State) : Host.Outcome State Fault Refusal :=
  vectorAtomic h 16 k ty op o sc d a ix c scale.toNat disp.toInt s

/-- SATOM (16 R279). -/
def scalarAtomic (h : Hints) (len : Nat) (ty : MemType) (op : AtomOp) (o : Order) (sc : Scope) (d a b : SReg)
    (c : Option SReg) (disp : Word) (s : State) : Host.Outcome State Fault Refusal :=
  run h 1 len s fun s => do
    let (base, s) ← readS s a
    let (x, s) ← readS s b
    let (y, s) ← match c with
      | some r => readS s r
      | none => .ok (0, s)
    let checked ← scalarCheck s (scalarAddr base disp) (memSize ty) .atomic (some (op, ty))
    counterRoom s Op.ld
    scalarRoom s d
    let acc := { checked.acc with data := x.toNat, data2 := y.toNat, dest := .scalar d }
    pure (issueLanes s o sc (.atomic op ty) (memSize ty) false
      { tag := s.tag, ld := true, left := 0, owed := owedS d, acq := isAcquire o sc } [{ checked with acc := acc }])

def execSatom (h : Hints) (ty : MemType) (op : AtomOp) (o : Order) (sc : Scope) (d a b : SReg) (c : Option SReg)
    (s : State) : Host.Outcome State Fault Refusal :=
  scalarAtomic h 8 ty op o sc d a b c 0 s

def execSatom96 (h : Hints) (ty : MemType) (op : AtomOp) (o : Order) (sc : Scope) (d a b : SReg) (c : Option SReg)
    (disp : Word) (s : State) : Host.Outcome State Fault Refusal :=
  scalarAtomic h 12 ty op o sc d a b c disp s

end Sys2Proof.Machine
end

