-- ==== Sys2Proof/Machine/Dispatch.lean ====
section
/-!
DEFINITION. What every instruction and device step does: one arm for each.
-/
namespace Sys2Proof.Machine

def exec (i : Instr) (s : State) : Host.Outcome State Fault Refusal :=
  match i with
  | .nop h => Sys2Proof.Machine.execNop h s
  | .entry h => Sys2Proof.Machine.execEntry h s
  | .br h off => Sys2Proof.Machine.execBr h off s
  | .brs h cond a off => Sys2Proof.Machine.execBrs h cond a off s
  | .brv h vote km off => Sys2Proof.Machine.execBrv h vote km off s
  | .bru h km off => Sys2Proof.Machine.execBru h km off s
  | .call h off => Sys2Proof.Machine.execCall h off s
  | .callt h o sc a => Sys2Proof.Machine.execCallt h o sc a s
  | .jmpt h o sc a => Sys2Proof.Machine.execJmpt h o sc a s
  | .ret h => Sys2Proof.Machine.execRet h s
  | .loop h d off => Sys2Proof.Machine.execLoop h d off s
  | .exit h => Sys2Proof.Machine.execExit h s
  | .trap h code => Sys2Proof.Machine.execTrap h code s
  | .trapf h => Sys2Proof.Machine.execTrapf h s
  | .phase h ph => Sys2Proof.Machine.execPhase h ph s
  | .smov h d a => Sys2Proof.Machine.execSmov h d a s
  | .smovi h d imm => Sys2Proof.Machine.execSmovi h d imm s
  | .smovi128 h d imm => Sys2Proof.Machine.execSmovi128 h d imm s
  | .sadd h d a b => Sys2Proof.Machine.execSadd h d a b s
  | .sadd96 h d a imm => Sys2Proof.Machine.execSadd96 h d a imm s
  | .ssub h d a b => Sys2Proof.Machine.execSsub h d a b s
  | .ssub96 h d a imm => Sys2Proof.Machine.execSsub96 h d a imm s
  | .smul h d a b => Sys2Proof.Machine.execSmul h d a b s
  | .smul96 h d a imm => Sys2Proof.Machine.execSmul96 h d a imm s
  | .smulh h n d a b => Sys2Proof.Machine.execSmulh h n d a b s
  | .smulh96 h n d a imm => Sys2Proof.Machine.execSmulh96 h n d a imm s
  | .sdiv h n d a b => Sys2Proof.Machine.execSdiv h n d a b s
  | .sdiv96 h n d a imm => Sys2Proof.Machine.execSdiv96 h n d a imm s
  | .srem h n d a b => Sys2Proof.Machine.execSrem h n d a b s
  | .srem96 h n d a imm => Sys2Proof.Machine.execSrem96 h n d a imm s
  | .sand h d a b => Sys2Proof.Machine.execSand h d a b s
  | .sand96 h d a imm => Sys2Proof.Machine.execSand96 h d a imm s
  | .sor h d a b => Sys2Proof.Machine.execSor h d a b s
  | .sor96 h d a imm => Sys2Proof.Machine.execSor96 h d a imm s
  | .sxor h d a b => Sys2Proof.Machine.execSxor h d a b s
  | .sxor96 h d a imm => Sys2Proof.Machine.execSxor96 h d a imm s
  | .sshl h d a b => Sys2Proof.Machine.execSshl h d a b s
  | .sshl96 h d a imm => Sys2Proof.Machine.execSshl96 h d a imm s
  | .sshr h d a b => Sys2Proof.Machine.execSshr h d a b s
  | .sshr96 h d a imm => Sys2Proof.Machine.execSshr96 h d a imm s
  | .ssar h d a b => Sys2Proof.Machine.execSsar h d a b s
  | .ssar96 h d a imm => Sys2Proof.Machine.execSsar96 h d a imm s
  | .smin h n d a b => Sys2Proof.Machine.execSmin h n d a b s
  | .smin96 h n d a imm => Sys2Proof.Machine.execSmin96 h n d a imm s
  | .smax h n d a b => Sys2Proof.Machine.execSmax h n d a b s
  | .smax96 h n d a imm => Sys2Proof.Machine.execSmax96 h n d a imm s
  | .scmp h n p d a b => Sys2Proof.Machine.execScmp h n p d a b s
  | .scmp96 h n p d a imm => Sys2Proof.Machine.execScmp96 h n p d a imm s
  | .ssel h d a b c => Sys2Proof.Machine.execSsel h d a b c s
  | .spopc h d a => Sys2Proof.Machine.execSpopc h d a s
  | .sclz h d a => Sys2Proof.Machine.execSclz h d a s
  | .kand h d a b => Sys2Proof.Machine.execKand h d a b s
  | .kor h d a b => Sys2Proof.Machine.execKor h d a b s
  | .kxor h d a b => Sys2Proof.Machine.execKxor h d a b s
  | .kandn h d a b => Sys2Proof.Machine.execKandn h d a b s
  | .knot h d a => Sys2Proof.Machine.execKnot h d a s
  | .kmov h d a => Sys2Proof.Machine.execKmov h d a s
  | .kpopc h d a => Sys2Proof.Machine.execKpopc h d a s
  | .kfirst h d a => Sys2Proof.Machine.execKfirst h d a s
  | .krank h d a => Sys2Proof.Machine.execKrank h d a s
  | .ktos h d a hi => Sys2Proof.Machine.execKtos h d a hi s
  | .kfroms h d a hi => Sys2Proof.Machine.execKfroms h d a hi s
  | .kcmps h n p d a => Sys2Proof.Machine.execKcmps h n p d a s
  | .vmov h k wide d a => Sys2Proof.Machine.execVmov h k wide d a s
  | .vmov96 h k wide d imm => Sys2Proof.Machine.execVmov96 h k wide d imm s
  | .vmovs h k wide d a => Sys2Proof.Machine.execVmovs h k wide d a s
  | .vadd h k ty sat d a b => Sys2Proof.Machine.execVadd h k ty sat d a b s
  | .vadd96 h k ty sat d a imm => Sys2Proof.Machine.execVadd96 h k ty sat d a imm s
  | .vsub h k ty sat d a b => Sys2Proof.Machine.execVsub h k ty sat d a b s
  | .vsub96 h k ty sat d a imm => Sys2Proof.Machine.execVsub96 h k ty sat d a imm s
  | .vmul h k ty sat d a b => Sys2Proof.Machine.execVmul h k ty sat d a b s
  | .vmul96 h k ty sat d a imm => Sys2Proof.Machine.execVmul96 h k ty sat d a imm s
  | .vmulh h k ty d a b => Sys2Proof.Machine.execVmulh h k ty d a b s
  | .vmulh96 h k ty d a imm => Sys2Proof.Machine.execVmulh96 h k ty d a imm s
  | .vmad h k ty sat d a b c => Sys2Proof.Machine.execVmad h k ty sat d a b c s
  | .vand h k wide d a b => Sys2Proof.Machine.execVand h k wide d a b s
  | .vand96 h k wide d a imm => Sys2Proof.Machine.execVand96 h k wide d a imm s
  | .vor h k wide d a b => Sys2Proof.Machine.execVor h k wide d a b s
  | .vor96 h k wide d a imm => Sys2Proof.Machine.execVor96 h k wide d a imm s
  | .vxor h k wide d a b => Sys2Proof.Machine.execVxor h k wide d a b s
  | .vxor96 h k wide d a imm => Sys2Proof.Machine.execVxor96 h k wide d a imm s
  | .vshl h k wide d a b => Sys2Proof.Machine.execVshl h k wide d a b s
  | .vshl96 h k wide d a imm => Sys2Proof.Machine.execVshl96 h k wide d a imm s
  | .vshr h k ty d a b => Sys2Proof.Machine.execVshr h k ty d a b s
  | .vshr96 h k ty d a imm => Sys2Proof.Machine.execVshr96 h k ty d a imm s
  | .vsar h k ty d a b => Sys2Proof.Machine.execVsar h k ty d a b s
  | .vsar96 h k ty d a imm => Sys2Proof.Machine.execVsar96 h k ty d a imm s
  | .vmin h k ty d a b => Sys2Proof.Machine.execVmin h k ty d a b s
  | .vmin96 h k ty d a imm => Sys2Proof.Machine.execVmin96 h k ty d a imm s
  | .vmax h k ty d a b => Sys2Proof.Machine.execVmax h k ty d a b s
  | .vmax96 h k ty d a imm => Sys2Proof.Machine.execVmax96 h k ty d a imm s
  | .vcmp h k ty p d a b => Sys2Proof.Machine.execVcmp h k ty p d a b s
  | .vcmp96 h k ty p d a imm => Sys2Proof.Machine.execVcmp96 h k ty p d a imm s
  | .vsel h k wide d a b c => Sys2Proof.Machine.execVsel h k wide d a b c s
  | .vclz h k wide d a => Sys2Proof.Machine.execVclz h k wide d a s
  | .vpopc h k wide d a => Sys2Proof.Machine.execVpopc h k wide d a s
  | .vaddc h k ty d a b c => Sys2Proof.Machine.execVaddc h k ty d a b c s
  | .fadd h k rm d a b => Sys2Proof.Machine.execFadd h k rm d a b s
  | .fadd96 h k rm d a imm => Sys2Proof.Machine.execFadd96 h k rm d a imm s
  | .fsub h k rm d a b => Sys2Proof.Machine.execFsub h k rm d a b s
  | .fsub96 h k rm d a imm => Sys2Proof.Machine.execFsub96 h k rm d a imm s
  | .fmul h k rm d a b => Sys2Proof.Machine.execFmul h k rm d a b s
  | .fmul96 h k rm d a imm => Sys2Proof.Machine.execFmul96 h k rm d a imm s
  | .ffma h k rm d a b c => Sys2Proof.Machine.execFfma h k rm d a b c s
  | .fmin h k d a b => Sys2Proof.Machine.execFmin h k d a b s
  | .fmin96 h k d a imm => Sys2Proof.Machine.execFmin96 h k d a imm s
  | .fmax h k d a b => Sys2Proof.Machine.execFmax h k d a b s
  | .fmax96 h k d a imm => Sys2Proof.Machine.execFmax96 h k d a imm s
  | .fcmp h k p d a b => Sys2Proof.Machine.execFcmp h k p d a b s
  | .fcmp96 h k p d a imm => Sys2Proof.Machine.execFcmp96 h k p d a imm s
  | .fdiv h k rm d a b => Sys2Proof.Machine.execFdiv h k rm d a b s
  | .fsqrt h k rm d a => Sys2Proof.Machine.execFsqrt h k rm d a s
  | .frcp h k d a => Sys2Proof.Machine.execFrcp h k d a s
  | .frsq h k d a => Sys2Proof.Machine.execFrsq h k d a s
  | .fexp2 h k d a => Sys2Proof.Machine.execFexp2 h k d a s
  | .flog2 h k d a => Sys2Proof.Machine.execFlog2 h k d a s
  | .fcvt h k sat rm dt st d a => Sys2Proof.Machine.execFcvt h k sat rm dt st d a s
  | .fclass h k d a => Sys2Proof.Machine.execFclass h k d a s
  | .frnd h k rm d a => Sys2Proof.Machine.execFrnd h k rm d a s
  | .vshuf h k wide sel d a b => Sys2Proof.Machine.execVshuf h k wide sel d a b s
  | .vrot h k wide d a b => Sys2Proof.Machine.execVrot h k wide d a b s
  | .vbcast h k wide d a b => Sys2Proof.Machine.execVbcast h k wide d a b s
  | .vscan h k ty op rm d a => Sys2Proof.Machine.execVscan h k ty op rm d a s
  | .vred h k ty op rm d a => Sys2Proof.Machine.execVred h k ty op rm d a s
  | .vsegred h k ty op rm d a b => Sys2Proof.Machine.execVsegred h k ty op rm d a b s
  | .vcomp h k wide d a => Sys2Proof.Machine.execVcomp h k wide d a s
  | .reorder h k wide a b regs => Sys2Proof.Machine.execReorder h k wide a b regs s
  | .vld h k ty o sc d a ix scale => Sys2Proof.Machine.execVld h k ty o sc d a ix scale s
  | .vld96 h k ty o sc d a ix scale disp => Sys2Proof.Machine.execVld96 h k ty o sc d a ix scale disp s
  | .vld128 h k ty o sc d a ix disp scale => Sys2Proof.Machine.execVld128 h k ty o sc d a ix disp scale s
  | .vst h k ty o sc d a ix scale => Sys2Proof.Machine.execVst h k ty o sc d a ix scale s
  | .vst96 h k ty o sc d a ix scale disp => Sys2Proof.Machine.execVst96 h k ty o sc d a ix scale disp s
  | .vst128 h k ty o sc d a ix disp scale => Sys2Proof.Machine.execVst128 h k ty o sc d a ix disp scale s
  | .vldl h k o sc d a b c level status => Sys2Proof.Machine.execVldl h k o sc d a b c level status s
  | .vcst h k ty o sc d a => Sys2Proof.Machine.execVcst h k ty o sc d a s
  | .vcst96 h k ty o sc d a disp => Sys2Proof.Machine.execVcst96 h k ty o sc d a disp s
  | .vcst128 h k ty o sc d a disp stride => Sys2Proof.Machine.execVcst128 h k ty o sc d a disp stride s
  | .sld h ty o sc d a => Sys2Proof.Machine.execSld h ty o sc d a s
  | .sld96 h ty o sc d a disp => Sys2Proof.Machine.execSld96 h ty o sc d a disp s
  | .sst h ty o sc d a => Sys2Proof.Machine.execSst h ty o sc d a s
  | .sst96 h ty o sc d a disp => Sys2Proof.Machine.execSst96 h ty o sc d a disp s
  | .atom h k ty op o sc d a b c => Sys2Proof.Machine.execAtom h k ty op o sc d a b c s
  | .atom96 h k ty op o sc d a b c disp => Sys2Proof.Machine.execAtom96 h k ty op o sc d a b c disp s
  | .atom128 h k ty op o sc d a ix c disp scale => Sys2Proof.Machine.execAtom128 h k ty op o sc d a ix c disp scale s
  | .satom h ty op o sc d a b c => Sys2Proof.Machine.execSatom h ty op o sc d a b c s
  | .satom96 h ty op o sc d a b c disp => Sys2Proof.Machine.execSatom96 h ty op o sc d a b c disp s
  | .fence h o sc => Sys2Proof.Machine.execFence h o sc s
  | .ifence h => Sys2Proof.Machine.execIfence h s
  | .lodfence h a => Sys2Proof.Machine.execLodfence h a s
  | .lodfence96 h imm => Sys2Proof.Machine.execLodfence96 h imm s
  | .publish h d a => Sys2Proof.Machine.execPublish h d a s
  | .publish96 h d imm => Sys2Proof.Machine.execPublish96 h d imm s
  | .wait h ld st cp tl => Sys2Proof.Machine.execWait h ld st cp tl s
  | .semacq h sem b => Sys2Proof.Machine.execSemacq h sem b s
  | .semacq96 h sem imm => Sys2Proof.Machine.execSemacq96 h sem imm s
  | .semrel h sem b c => Sys2Proof.Machine.execSemrel h sem b c s
  | .semrel96 h sem c imm => Sys2Proof.Machine.execSemrel96 h sem c imm s
  | .binit h a b => Sys2Proof.Machine.execBinit h a b s
  | .barrive h d a => Sys2Proof.Machine.execBarrive h d a s
  | .bwait h d a b => Sys2Proof.Machine.execBwait h d a b s
  | .binval h a => Sys2Proof.Machine.execBinval h a s
  | .msend h d a b arg => Sys2Proof.Machine.execMsend h d a b arg s
  | .mrecv h d a => Sys2Proof.Machine.execMrecv h d a s
  | .tqpush h d a b c => Sys2Proof.Machine.execTqpush h d a b c s
  | .tqpop h d a b => Sys2Proof.Machine.execTqpop h d a b s
  | .spawn h k d a b => Sys2Proof.Machine.execSpawn h k d a b s
  | .spawn128 h k d b entryAddr => Sys2Proof.Machine.execSpawn128 h k d b entryAddr s
  | .launch h d a b => Sys2Proof.Machine.execLaunch h d a b s
  | .talloc h d a b => Sys2Proof.Machine.execTalloc h d a b s
  | .talloc96 h d a imm => Sys2Proof.Machine.execTalloc96 h d a imm s
  | .tfree h a => Sys2Proof.Machine.execTfree h a s
  | .tld h o sc a b c off sem => Sys2Proof.Machine.execTld h o sc a b c off sem s
  | .tst h o sc a b c off sem => Sys2Proof.Machine.execTst h o sc a b c off sem s
  | .mkshape h d a b disp => Sys2Proof.Machine.execMkshape h d a b disp s
  | .xcopy h mc lod o sc sem a b c rowMask colMask dtile stile => Sys2Proof.Machine.execXcopy h mc lod o sc sem a b c rowMask colMask dtile stile s
  | .xgather h o sc sem a b c count esz dt dtile limit => Sys2Proof.Machine.execXgather h o sc sem a b c count esz dt dtile limit s
  | .mgang h a => Sys2Proof.Machine.execMgang h a s
  | .mwload h a b c f scf kbm1 ta tile => Sys2Proof.Machine.execMwload h a b c f scf kbm1 ta tile s
  | .mmul h d a b c f scf mm1 kbm1 accum ta tile => Sys2Proof.Machine.execMmul h d a b c f scf mm1 kbm1 accum ta tile s
  | .mdrain h add o sc d a b sem ofmt mm1 dt dtile => Sys2Proof.Machine.execMdrain h add o sc d a b sem ofmt mm1 dt dtile s
  | .mstat h d sel clear => Sys2Proof.Machine.execMstat h d sel clear s
  | .pcfg h k wm1 hm1 => Sys2Proof.Machine.execPcfg h k wm1 hm1 s
  | .peval h k form add d a b c ox oy => Sys2Proof.Machine.execPeval h k form add d a b c ox oy s
  | .pld h k d a b tile ef => Sys2Proof.Machine.execPld h k d a b tile ef s
  | .pst h k d a b tile ef => Sys2Proof.Machine.execPst h k d a b tile ef s
  | .padd h k d a b => Sys2Proof.Machine.execPadd h k d a b s
  | .pmul h k d a b => Sys2Proof.Machine.execPmul h k d a b s
  | .pfma h k d a b c => Sys2Proof.Machine.execPfma h k d a b c s
  | .pmin h k d a b => Sys2Proof.Machine.execPmin h k d a b s
  | .pmax h k d a b => Sys2Proof.Machine.execPmax h k d a b s
  | .pexp2 h k d a => Sys2Proof.Machine.execPexp2 h k d a s
  | .prcp h k d a => Sys2Proof.Machine.execPrcp h k d a s
  | .pif h k p a b => Sys2Proof.Machine.execPif h k p a b s
  | .pelse h k => Sys2Proof.Machine.execPelse h k s
  | .pend h k => Sys2Proof.Machine.execPend h k s
  | .pblend h k d a b => Sys2Proof.Machine.execPblend h k d a b s
  | .pred h k op d a => Sys2Proof.Machine.execPred h k op d a s
  | .prow h k op d a => Sys2Proof.Machine.execProw h k op d a s
  | .binapp h k d a b c ts => Sys2Proof.Machine.execBinapp h k d a b c ts s
  | .rstart h k d => Sys2Proof.Machine.execRstart h k d s
  | .rbox h k d a b => Sys2Proof.Machine.execRbox h k d a b s
  | .rtri h k d a b => Sys2Proof.Machine.execRtri h k d a b s
  | .rpush h k d a c => Sys2Proof.Machine.execRpush h k d a c s
  | .rpop h k d a => Sys2Proof.Machine.execRpop h k d a s
  | .rstop h k d => Sys2Proof.Machine.execRstop h k d s
  | .csrr h d csr => Sys2Proof.Machine.execCsrr h d csr s
  | .csrw h csr a => Sys2Proof.Machine.execCsrw h csr a s
  | .feat h d a => Sys2Proof.Machine.execFeat h d a s
  | .feat96 h d imm => Sys2Proof.Machine.execFeat96 h d imm s
  | .tret h => Sys2Proof.Machine.execTret h s
  | .halt h => Sys2Proof.Machine.execHalt h s
  | .powerUp cfg cxl => Sys2Proof.Machine.execPowerUp cfg cxl s
  | .junction100C hot => Sys2Proof.Machine.execJunction100C hot s
  | .clusterRetirement cl => Sys2Proof.Machine.execClusterRetirement cl s
  | .sliceFailure sl => Sys2Proof.Machine.execSliceFailure sl s
  | .routerFailure site => Sys2Proof.Machine.execRouterFailure site s
  | .laneFailure link => Sys2Proof.Machine.execLaneFailure link s
  | .cxlPortDown port => Sys2Proof.Machine.execCxlPortDown port s
  | .peerRequest req => Sys2Proof.Machine.execPeerRequest req s
  | .pldmSensorRead sensor => Sys2Proof.Machine.execPldmSensorRead sensor s
  | .firmwareUpdate img => Sys2Proof.Machine.execFirmwareUpdate img s
  | .spdmRequest measurement => Sys2Proof.Machine.execSpdmRequest measurement s
  | .retirementClear cl => Sys2Proof.Machine.execRetirementClear cl s
  | .kick agent part queue seq => Sys2Proof.Machine.execKick agent part queue seq s
  | .commandKick agent queue seq => Sys2Proof.Machine.execCommandKick agent queue seq s
  | .go agent part queue newNext => Sys2Proof.Machine.execGo agent part queue newNext s
  | .cons agent part value => Sys2Proof.Machine.execCons agent part value s
  | .hactResume agent cl row => Sys2Proof.Machine.execHactResume agent cl row s
  | .hactEnd agent cl row => Sys2Proof.Machine.execHactEnd agent cl row s
  | .registerWrite agent addr size req => Sys2Proof.Machine.execRegisterWrite agent addr size req s
  | .ctxCreate queue record => Sys2Proof.Machine.execCtxCreate queue record s
  | .copyIn queue data => Sys2Proof.Machine.execCopyIn queue data s
  | .hostCompletion id ok data => Sys2Proof.Machine.execHostCompletion id ok data s
  | .peerCompletion id ok data => Sys2Proof.Machine.execPeerCompletion id ok data s
  | .linkLevelReplay link => Sys2Proof.Machine.execLinkLevelReplay link s
  | .mainSideFailure reason => Sys2Proof.Machine.execMainSideFailure reason s
  | .liveMigration ctx accepts => Sys2Proof.Machine.execLiveMigration ctx accepts s
  | .powerFailWarning => Sys2Proof.Machine.execPowerFailWarning s
  | .junction110C => Sys2Proof.Machine.execJunction110C s
  | .governorWindow => Sys2Proof.Machine.execGovernorWindow s
  | .spawnTimeout => Sys2Proof.Machine.execSpawnTimeout s
  | .starvationCount => Sys2Proof.Machine.execStarvationCount s
  | .packetReread => Sys2Proof.Machine.execPacketReread s
  | .creditReturn => Sys2Proof.Machine.execCreditReturn s
  | .packetGrant => Sys2Proof.Machine.execPacketGrant s
  | .packetInjection => Sys2Proof.Machine.execPacketInjection s
  | .lineTransfer => Sys2Proof.Machine.execLineTransfer s
  | .readRequest => Sys2Proof.Machine.execReadRequest s
  | .readResponse => Sys2Proof.Machine.execReadResponse s
  | .write => Sys2Proof.Machine.execWrite s
  | .atomicRequest => Sys2Proof.Machine.execAtomicRequest s
  | .acknowledgement => Sys2Proof.Machine.execAcknowledgement s
  | .mailboxPacket => Sys2Proof.Machine.execMailboxPacket s
  | .mailboxRefusal => Sys2Proof.Machine.execMailboxRefusal s
  | .copyData => Sys2Proof.Machine.execCopyData s
  | .multicastCopyData => Sys2Proof.Machine.execMulticastCopyData s
  | .lodFeedbackReport => Sys2Proof.Machine.execLodFeedbackReport s
  | .eddyAppend => Sys2Proof.Machine.execEddyAppend s
  | .lodFeedbackAnswer => Sys2Proof.Machine.execLodFeedbackAnswer s
  | .semaphoreAdd => Sys2Proof.Machine.execSemaphoreAdd s
  | .semaphoreAddAnswer => Sys2Proof.Machine.execSemaphoreAddAnswer s
  | .lateralAccess => Sys2Proof.Machine.execLateralAccess s
  | .engineElement => Sys2Proof.Machine.execEngineElement s
  | .pieceLanding => Sys2Proof.Machine.execPieceLanding s
  | .traversalResult => Sys2Proof.Machine.execTraversalResult s
  | .workgroupStart => Sys2Proof.Machine.execWorkgroupStart s
  | .evictionDone => Sys2Proof.Machine.execEvictionDone s
  | .workgroupResume => Sys2Proof.Machine.execWorkgroupResume s
  | .mergeDrained => Sys2Proof.Machine.execMergeDrained s
  | .binWaveStart => Sys2Proof.Machine.execBinWaveStart s
  | .spillRefill => Sys2Proof.Machine.execSpillRefill s
  | .park => Sys2Proof.Machine.execPark s
  | .workgroupLost => Sys2Proof.Machine.execWorkgroupLost s
  | .leaseFree => Sys2Proof.Machine.execLeaseFree s
  | .vaultRelease => Sys2Proof.Machine.execVaultRelease s
  | .planeRelease => Sys2Proof.Machine.execPlaneRelease s
  | .shootdownAcknowledge => Sys2Proof.Machine.execShootdownAcknowledge s
  | .checkpointCopy => Sys2Proof.Machine.execCheckpointCopy s
  | .launchCompletion => Sys2Proof.Machine.execLaunchCompletion s
  | .barrierDispatch => Sys2Proof.Machine.execBarrierDispatch s
  | .destructionComplete => Sys2Proof.Machine.execDestructionComplete s
  | .commandCompletion => Sys2Proof.Machine.execCommandCompletion s
  | .ctxDestroy => Sys2Proof.Machine.execCtxDestroy s
  | .copyOut => Sys2Proof.Machine.execCopyOut s
  | .shootdown => Sys2Proof.Machine.execShootdown s
  | .mboxAssign => Sys2Proof.Machine.execMboxAssign s
  | .mboxFree => Sys2Proof.Machine.execMboxFree s
  | .answerRetry => Sys2Proof.Machine.execAnswerRetry s
  | .answerDeliver => Sys2Proof.Machine.execAnswerDeliver s
  | .answerKill => Sys2Proof.Machine.execAnswerKill s
  | .checkpoint => Sys2Proof.Machine.execCheckpoint s
  | .restore => Sys2Proof.Machine.execRestore s
  | .logFree => Sys2Proof.Machine.execLogFree s
  | .fill => Sys2Proof.Machine.execFill s
  | .keyAgeOut => Sys2Proof.Machine.execKeyAgeOut s

end Sys2Proof.Machine
end

