-- ==== Sys2Proof/Machine/Issue.lean ====
section
/-!
DEFINITION. Issue: the delivery of logged records before an instruction, the attempt of one wave, the choice among the
waves of a sector, and the passing of clock cycles with what they count (08 R142; 10 R170, R171, R185; 14 R235).
-/
namespace Sys2Proof.Machine

/-- Delivers a logged record or a lost-fault trap, if one is due (08 R142). The lines of the log's header and of the record
move then. -/
def State.deliverDue (s : State) (cl row : Nat) (w : Wave) : Option State :=
  let log := s.areaUses cl w.ctx (s.ctxOf w.ctx).flog 64
  if w.intrap then none
  else match s.dueRecord cl w with
    | some (a, seq, b) =>
      some ((s.charge (log ++ s.areaUses cl w.ctx a 64)).takeTrap cl row
        { cause := 0x18, iaddr := w.pc, resume := w.pc, seq := seq, job := b })
    | none =>
      if w.lostFlt then some ((s.charge log).takeTrap cl row { cause := 0x19, iaddr := w.pc, resume := w.pc }) else none

/-- A trap at fetch or decoding uses the sector's cycle. -/
def State.trapAt (s : State) (cl row : Nat) (r : TrapRec) : State :=
  match s.waveAt? cl row with
  | none => s
  | some w => { s.takeTrap cl row r with cur := (cl, row) }.trapIssued w 0

/-- Runs the instruction at the pc of the wave that State.cur names. -/
def State.runAtPc (s : State) : Host.Outcome State Fault Refusal :=
  let cl := s.cur.1
  let row := s.cur.2
  let pc := s.w.pc
  match s.decodeAt cl row pc with
  | .fault c va => .next (s.trapAt cl row (fetchTrap pc c va))
  | .wait s' => .next (s'.updWave cl row (fun w => { w with why := .dep }))
  | .illegal p s' => .next (s'.trapAt cl row { cause := 0x10, iaddr := pc, resume := pc, info := p.toNat })
  | .instr i _ s' => exec i s'

/-- One attempt of a wave, whatever lines it moves: a record due is delivered; a first instruction that must be ENTRY is
checked; otherwise its instruction runs. State.issued says that the wave went on: past a FILL parcel, which takes no issue
cycle, or by using the sector's cycle. -/
def State.attemptFree (s : State) (cl row : Nat) : Host.Outcome State Fault Refusal :=
  let s := { s with cur := (cl, row), issued := false }
  match s.waveAt? cl row with
  | none => .next s
  | some w =>
    -- a BWAIT that has its outcome completes before the next instruction's records are delivered (08 R138)
    -- and so does an instruction whose charges have begun
    match if (w.bwait.bind BarrierWait.outcome).isSome || w.paid ≠ 0 then none else s.deliverDue cl row w with
    | some t => .next (t.trapIssued w 0)
    | none =>
      if w.endAt = some w.pc && !w.intrap then execExit { s := 0, y := false, e := 0 } s
      else if w.needEntry then
        match s.checkEntry cl row entryFuel w.pc with
        | .ok s' => s'.runAtPc
        | .noEntry => .next (s.trapAt cl row { cause := 0x12, iaddr := w.pc, resume := w.pc })
        | .fault c va => .next (s.trapAt cl row (fetchTrap w.pc c va))
        | .wait s' => .next (s'.updWave cl row (fun w => { w with why := .dep }))
      else s.runAtPc

/-- One attempt of a wave, which waits while the lines it would move are not covered (05 R98, R99) (DESIGN CHOICE, log 27). -/
def State.attempt (s : State) (cl row : Nat) : Host.Outcome State Fault Refusal :=
  match s.attemptFree cl row with
  | .next t =>
    if s.movesCovered t then .next t
    else .next ({ s with cur := (cl, row), issued := false }.updWave cl row (fun w => { w with why := .dep }))
  | o => o

/-- The wave may be considered for issue in this cycle: LEASED, running, its stall over (10 R170), its partition in
service (25 R362). A workgroup that has been stopped finishes a plane instruction whose steps have begun (22 R328). -/
def State.mayIssue (s : State) (cl row : Nat) (w : Wave) : Bool :=
  !w.draining && !w.halted && !s.outOfService cl &&
    (!(mgetD (s.cluster cl).wgs w.wgslot Wg.zero).stopped || s.planeBegun cl row) &&
    (!w.issuedOnce || decide (w.lastIssue + max 1 w.lastS ≤ s.now))

/-- The issue choice as one number, the least first (10 R171). -/
def issueKey (w : Wave) : Nat :=
  if 4096 ≤ w.starve then (2 ^ 64 - min w.starve (2 ^ 64)) * 2 ^ 80 + w.age
  else 2 ^ 200 + ((255 - min w.prio 255) * 8 + w.stage) * 2 ^ 80 + w.age

/-- The waves of a sector that may issue, in the order of 10 R171. -/
def State.sectorOrder (s : State) (cl sector : Nat) : List Nat :=
  (sortBy (fun x => issueKey x.2)
    ((s.cluster cl).waves.filter (fun x => x.1 / 16 == sector && s.mayIssue cl x.1 x.2))).map Prod.fst

/-- A wave of the sector has issued in this cycle (10 R170). -/
def State.sectorIssued (s : State) (cl sector : Nat) : Bool :=
  (mget (s.cluster cl).sectors sector).any (fun x => x.time == s.now)

/-- The wave would issue in this cycle, past the FILL parcels it stands at. -/
def State.wouldIssue (s : State) (cl row : Nat) : Nat → Bool
  | 0 => false
  | fuel + 1 =>
    match s.attempt cl row with
    | .next s1 =>
      s1.issued &&
        (((s1.waveAt? cl row).map (fun w => w.lastIssue == s.now && w.issuedOnce)).getD true || s1.wouldIssue cl row fuel)
    | _ => false

/-- Notes the waves that are ready but not chosen in this cycle (10 R171). The state asked is the one before the issue. -/
def State.starveRest (s0 : State) (cl : Nat) : List Nat → State → State
  | [], s => s
  | row :: t, s =>
    let s := if s0.wouldIssue cl row 65536 then
        s.updWave cl row (fun w => { w with starveAt := s0.now + 1, why := .outranked })
      else s
    s0.starveRest cl t s

/-- The waves of a sector that are ready in a cycle in which none of it issues (10 R171). -/
def State.passSector (s : State) (cl sector : Nat) : State :=
  if s.sectorIssued cl sector then s else { s with old := [] }.starveRest cl (s.sectorOrder cl sector) s

/-- Attempts the waves of a sector in order until one goes on. A wave that has only stepped over FILL leaves the sector's
cycle to a later turn. -/
def State.tryRows (s : State) (cl sector : Nat) : List Nat → Host.Outcome State Fault Refusal
  | [] => .next { s with issued := false }
  | row :: t =>
    match s.attempt cl row with
    | .next s1 =>
      if s1.issued then .next (if s1.sectorIssued cl sector then s.starveRest cl t s1 else s1)
      else s1.tryRows cl sector t
    | o => o

/-- A sector's turn to issue. -/
def State.issueSector (s : State) (cl sector : Nat) : Host.Outcome State Fault Refusal :=
  if s.sectorIssued cl sector then .next { s with issued := false }
  else s.tryRows cl sector (s.sectorOrder cl sector)

/-! ### Clock cycles and profile counts (10 R185) -/

/-- Counts a sector-cycle in which the launch's oldest wave leased in the sector waits, or there is none. -/
def Profile.wait (p : Profile) (mine : List (Nat × Wave)) (why : Nat → Wave → Why) : Profile :=
  match leastBy (fun x => x.2.age) mine with
  | none => { p with idle := p.idle + 1 }
  | some (row, w) =>
    let k := w.phase.toNat
    match why row w with
    | .budget => { p with budget := mset p.budget k (mgetD p.budget k 0 + 1) }
    | .sync => { p with sync := mset p.sync k (mgetD p.sync k 0 + 1) }
    | .none | .dep | .outranked => { p with dep := mset p.dep k (mgetD p.dep k 0 + 1) }

/-- The counts of one sector-cycle for one launch: the sector's last issue, its waves by row, and what holds a wave. -/
def Profile.count (p : Profile) (now launch : Nat) (last : Option SectorIssue) (waves : List (Nat × Wave))
    (why : Nat → Wave → Why) : Profile :=
  let mine := waves.filter (fun x => x.2.launch == launch && !x.2.draining)
  match last.filter (fun x => x.time == now) with
  | some x =>
    if x.launch = launch then { p with busy := mset p.busy x.phase (mgetD p.busy x.phase 0 + 1) }
    else if mine.any (fun x => x.2.starveAt == now + 1) then { p with outranked := p.outranked + 1 }
    else p.wait mine why
  | none => p.wait mine why

/-- The workgroups of a launch on a cluster are evicted: none of them is resident. -/
def Cluster.launchAway (k : Cluster) (launch : Nat) : Bool :=
  k.away.any (fun a => a.2.wg.launch == launch) && !k.wgs.any (fun g => g.2.launch == launch)

/-- Why the wave in a row does not issue as things stand: its stall is not over, or what an attempt finds (10 R185). -/
def State.whyNow (s : State) (cl row : Nat) (w : Wave) : Why :=
  if !s.mayIssue cl row w then .dep
  else match { s with old := [] }.attempt cl row with
    | .next s1 => ((s1.waveAt? cl row).map Wave.why).getD .dep
    | _ => .dep

/-- The counts of one cycle of a cluster over its four sectors; none while a launch's workgroups are evicted. -/
def State.countCycle (s : State) (cl : Nat) (k : Cluster) : Cluster :=
  { k with profiles := k.profiles.map (fun e =>
      (e.1, if k.launchAway e.1 then e.2
            else (rangeFrom 0 4).foldl (fun p sec =>
              p.count s.now e.1 (mget k.sectors sec) (k.waves.filter (fun x => x.1 / 16 == sec)) (s.whyNow cl)) e.2)) }

/-- A wave that was ready and did not issue waits one cycle more (10 R171). -/
def Wave.passed (w : Wave) (now : Nat) : Wave := if w.starveAt = now + 1 then { w with starve := w.starve + 1 } else w

/-- The sectors that hold a wave. -/
def State.busySectors (s : State) : List (Nat × Nat) :=
  s.clusters.flatMap (fun e =>
    ((rangeFrom 0 4).filter (fun sec => e.2.waves.any (fun x => x.1 / 16 == sec))).map (fun sec => (e.1, sec)))

/-- What the device does of itself, where the lines it moves are covered; otherwise it does it later (05 R98, R99) (DESIGN
CHOICE, log 27). -/
def State.ifCovered (s t : State) : State := if s.movesCovered t then t else s

/-- The profile blocks of launches whose last wave on a cluster has exited are written. -/
def State.settleProfiles (s : State) : State :=
  (s.clusters.flatMap (fun e => e.2.profiles.map (fun p => (e.1, p.1)))).foldl
    (fun s x => s.ifCovered (s.settleProfile x.1 x.2)) s

/-- One cycle ends: it is counted, and the waves that were ready and did not issue have waited. -/
def State.tick1 (s : State) : State :=
  let s := s.busySectors.foldl (fun s x => s.passSector x.1 x.2) s
  let counted (cl : Nat) (k : Cluster) : Cluster :=
    let k := s.countCycle cl k
    { k with waves := k.waves.map (fun x => (x.1, x.2.passed s.now)) }
  let clusters : SMap Cluster := s.clusters.map (fun e => (e.1, counted e.1 e.2))
  { s with now := s.now + 1, clusters := clusters }.settleProfiles

/-- Cycles pass. -/
def State.tick (s : State) : Nat → State
  | 0 => s
  | n + 1 => s.tick1.tick n

/-! ### Turns -/

/-- With no turn set, the first sector in which a wave issues does so; if there is none a cycle passes. -/
def State.idleTurn (s : State) : List (Nat × Nat) → Host.Outcome State Fault Refusal
  | [] => .next (s.tick 1)
  | (cl, sec) :: t =>
    match s.issueSector cl sec with
    | .next s1 => if s1.issued then .next s1 else s1.idleTurn t
    | o => o

/-- Runs what a turn says. An event whose lines are not covered does not take place. -/
def State.runTurn (s : State) : Act → Host.Outcome State Fault Refusal
  | .issue cl sector => s.issueSector cl sector
  | .event i =>
    match exec i s with
    | .next t => .next (s.ifCovered t)
    | o => o
  | .tick n => .next (s.tick n)

/-- One turn of the machine: the first of the agenda, or what happens when nothing is set (DESIGN CHOICE, log 3). -/
def State.turn (s : State) : Host.Outcome State Fault Refusal :=
  match s.agenda with
  | [] => { s with old := [], subj := {} }.idleTurn s.busySectors
  | t :: rest => { s with agenda := rest, old := t.old, subj := t.subj }.runTurn t.act

/-! ### Placing one instruction -/

/-- Where withFetchWord puts the range table and the code: HBM of column 0. -/
def probeTable : Nat := 0x1000
def probeCode : Nat := 0x2000

/-- The low bytes of a number. -/
def codeBytes (nbits w : Nat) : List Byte := natToBytes 16 (w % 2 ^ nbits)

/-- The machine with a wave of context 1 on cluster 0 whose code is one instruction, the cluster's first sector having the
next turn (DESIGN CHOICE, log 10). -/
def State.probe (s : State) (nbits w : Nat) : State :=
  let entry := natToBytes 8 (probeCode + 0x15) ++ natToBytes 8 probeCode ++ natToBytes 16 0
  let part : Part := { cols := rangeFrom 0 16, share := 1024, ready := true, home := rangeFrom 0 128 }
  let ctx : Ctx := { life := .resident, part := 0, range := probeTable }
  let wave : Wave := { Wave.zero with ctx := 1, pc := probeCode }
  let wg : Wg := { Wg.zero with ctx := 1, rows := [0] }
  let cl : Cluster :=
    { s.cluster 0 with
      waves := mset (s.cluster 0).waves 0 wave, wgs := mset (s.cluster 0).wgs 0 wg
      slots := mset (s.cluster 0).slots 0 { ctx := 1, sems := [], units := Config.windowUnits } }
  { s with
    mem := memWrite (memWrite s.mem probeTable entry) probeCode (codeBytes nbits w)
    parts := mset s.parts 0 part, ctxs := mset s.ctxs 1 ctx, clusters := mset s.clusters 0 cl
    agenda := [{ act := .issue 0 0 }] }

end Sys2Proof.Machine
end

