-- ==== Sys2Proof/Machine/Step.lean ====
section
/-!
DEFINITION. One step of the machine, and a machine whose next step runs one given instruction.
-/
namespace Sys2Proof.Machine

/-- One step: one turn of the agenda. -/
def step (s : State) : Host.Outcome State Fault Refusal := s.turn

/-- The state with an instruction stored where the next step fetches, and a wave to run it. -/
def State.withFetchWord (s : State) (nbits w : Nat) : State := s.probe nbits w

end Sys2Proof.Machine
end

