-- ==== Sys2Proof/Safety.lean ====
section
/-!
DEFINITION. The terms the statements use: the charge a wave instruction makes and the state in which it has completed, what
an instruction leaves alone, the results the spec's tables give, and the forms that every step keeps.
-/
namespace Sys2Proof.Machine

/-- Memory is in its canonical form. -/
def State.memOk (s : State) : Bool := Memory.wf s.mem

/-- The units that are still to be charged before the instruction of the wave at issue completes (10 R182). -/
def State.chargeOf (s : State) (c : Cost) (h : Hints) : Nat := (c.count - s.w.paid) * c.unit h + c.extra

/-- The context's budget on the cluster covers what is still to be charged (10 R183). -/
def State.covers (s : State) (c : Cost) (h : Hints) : Prop := s.chargeOf c h ≤ s.units s.cur.1 s.w.ctx

/-- The state once the instruction's effect is as s has it: its charge made, the wave's issue noted, the pc at next. -/
def State.completed (s : State) (c : Cost) (h : Hints) (ph : BitVec 4) (next : Option Nat) : State :=
  ((s.debit s.cur.1 s.w.ctx (s.chargeOf c h)).takePlane c true false).issueDone h ph next

/-- The state after a trap of the wave at issue, taken in s (11 R188 to R190): the wave, w before it, has used its sector's
cycle, and has the STALL hint of its instruction. -/
def State.trapped (s : State) (w : Wave) (stall : Nat) (r : TrapRec) : State :=
  (s.takeTrap s.cur.1 s.cur.2 r).trapIssued w stall

/-- The state of a wave that is held at issue. -/
def State.holding (s : State) (why : Why) : State := s.updW (fun w => { w with why := why })

/-- The state after an instruction of the wave at issue that goes on to the next one len bytes on; t is the state with its
effect made. -/
def State.goesOn (s t : State) (floor : Nat) (h : Hints) (len : Nat) : State :=
  t.completed { floor := floor } h s.w.phase (some ((s.w.pc + len) % 2 ^ 64))

/-- An instruction completes: a wave is at issue, the budget covers the charge, and exec answers the state with the effect
t and the pc at the next instruction. -/
def Completes (i : Instr) (h : Hints) (floor len : Nat) (s t : State) : Prop :=
  s.curWave?.isSome → t.covers { floor := floor } h → exec i s = .next (s.goesOn t floor h len)

/-- An instruction completes with a charge of its own (10 R182). -/
def CompletesAt (i : Instr) (h : Hints) (c : Cost) (len : Nat) (s t : State) : Prop :=
  s.curWave?.isSome → t.covers c h → exec i s = .next (t.completed c h s.w.phase (some ((s.w.pc + len) % 2 ^ 64)))

/-- A control instruction completes: its effect t has set the pc. -/
def JumpCompletes (i : Instr) (h : Hints) (s t : State) : Prop :=
  s.curWave?.isSome → t.covers {} h → exec i s = .next (t.completed {} h s.w.phase none)

/-- The wave at issue stands at another address. -/
def State.withPc (s : State) (pc : Nat) : State := s.updW (fun w => { w with pc := pc })

/-- The target of a branch (14 R229). -/
def State.targetOf (s : State) (off : Word) : Nat := (((s.w.pc : Int) + 4 * off.toInt) % 2 ^ 64).toNat

/-- The record of an exact trap at the instruction at issue that carries nothing else. -/
def State.plainRec (s : State) (cause : Nat) : TrapRec := { cause := cause, iaddr := s.w.pc, resume := s.w.pc }

/-- The record of an exact memory fault at the instruction at issue (11 R187). -/
def State.memRec (s : State) (cause : Nat) (kind : Kind) (va : Nat) (lanes : Mask) : TrapRec :=
  { s.plainRec cause with vaddr := va, lanes := lanes, access := kind.code }

/-! ### Frames -/

/-- Everything outside the clusters and the partitions is as it was. -/
def State.sameOutside (s t : State) : Prop :=
  t.mem = s.mem ∧ t.poison = s.poison ∧ t.dev = s.dev ∧ t.ctxs = s.ctxs ∧ t.slices = s.slices ∧ t.ops = s.ops ∧
    t.packets = s.packets ∧ t.laterals = s.laterals ∧ t.jobs = s.jobs ∧ t.addTiles = s.addTiles ∧ t.traversals = s.traversals ∧
    t.launches = s.launches ∧ t.hostReqs = s.hostReqs ∧ t.peerReqs = s.peerReqs ∧ t.shootdowns = s.shootdowns ∧
    t.hostOut = s.hostOut ∧ t.checkpoints = s.checkpoints ∧ t.now = s.now ∧ t.nextId = s.nextId ∧ t.fresh = s.fresh

/-- What of a cluster no arithmetic instruction touches. -/
def Cluster.sameUnits (k k' : Cluster) : Prop :=
  k'.retired = k.retired ∧ k'.tiles = k.tiles ∧ k'.bins = k.bins ∧ k'.plane = k.plane ∧ k'.mill = k.mill ∧
    k'.rayStacks = k.rayStacks ∧ k'.div = k.div ∧ k'.latch = k.latch ∧ k'.tcache = k.tcache ∧ k'.away = k.away ∧
    k'.vaultOwner = k.vaultOwner ∧ k'.startQ = k.startQ ∧ k'.held = k.held ∧ k'.heldThings = k.heldThings ∧
    k'.unposted = k.unposted ∧ k'.tables = k.tables ∧ k'.icache = k.icache ∧ k'.planeTurn = k.planeTurn

/-- The special registers of a wave that only system instructions, PHASE, traps and VCST change. -/
def Wave.sameSpecial (w w' : Wave) : Prop :=
  w'.fflagsEn = w.fflagsEn ∧ w'.gang = w.gang ∧ w'.phase = w.phase ∧ w'.rows = w.rows ∧ w'.tvec = w.tvec ∧
    w'.tepc = w.tepc ∧ w'.cause = w.cause ∧ w'.intrap = w.intrap ∧ w'.dlvSeq = w.dlvSeq ∧ w'.lostFlt = w.lostFlt ∧
    w'.base = w.base ∧ w'.bound = w.bound ∧ w'.ctx = w.ctx ∧ w'.prio = w.prio ∧ w'.wnum = w.wnum ∧ w'.stage = w.stage

/-- Frame of an arithmetic instruction of the wave at issue: of its registers only those named may have changed, its lane
flags only if flags says so, and nothing else but the workgroup's queues, the wave's issue state and pc, and the budget. -/
def State.frame (s t : State) (sregs : List Nat) (kregs : List Nat) (vregs : List Nat) (flags : Bool) : Prop :=
  s.sameOutside t ∧ t.cur = s.cur ∧
  (∀ cl, (s.cluster cl).sameUnits (t.cluster cl)) ∧
  (∀ cl row, (cl, row) ≠ s.cur → t.waveAt? cl row = s.waveAt? cl row) ∧
  (∀ n, n ∉ sregs → mgetD t.w.s n 0 = mgetD s.w.s n 0) ∧
  (∀ n, n ∉ kregs → mgetD t.w.k n 0 = mgetD s.w.k n 0) ∧
  (∀ r l, r ∉ vregs → l < 128 → t.w.lane r l = s.w.lane r l) ∧
  (flags = false → t.w.lflags = s.w.lflags) ∧
  s.w.sameSpecial t.w

/-- The scalar register a field names, if it names one. -/
def scalarRegs : SReg → List Nat
  | .s n => [n.toNat]
  | .q _ => []
  | .zs => []

/-- The vector registers a field names. -/
def vregs (wide : Bool) (r : VReg) : List Nat := if wide then [r.toNat, r.toNat + 1] else [r.toNat]

/-- The 64-bit or the 96-bit form of an instruction, as its second operand is a register or an immediate; and its length. -/
def formOf {α : Type} (reg : α → Instr) (imm : Word → Instr) : Second α → Instr
  | .reg r => reg r
  | .imm x => imm x
def lengthOf {α : Type} : Second α → Nat
  | .reg _ => 8
  | .imm _ => 12

/-! ### Scalar results (14 R240 to R244) -/

/-- Reads scalar operands in order. -/
def readSources (s : State) : List (Second SReg) → Attempt (List DWord × State)
  | [] => .ok ([], s)
  | a :: t => do
    let (x, s) ← readS2 s a
    let (xs, s) ← readSources s t
    pure (x :: xs, s)

/-- A scalar instruction as the table of 14 R240 has it: hints, length, destination, operands in order and result. -/
structure ScalarRule where
  h : Hints
  len : Nat
  d : SReg
  srcs : List (Second SReg)
  result : List DWord → DWord

/-- A result of two operands. -/
def of2 {α β : Type} (z : α) (f : α → α → β) (l : List α) : β := f (l.getD 0 z) (l.getD 1 z)

/-- A 64-bit operand as a number: unsigned under .n64. -/
def operand (n : Bool) (x : DWord) : Int := if n then (x.toNat : Int) else x.toInt

/-- The table of 14 R240, with R241 to R244. -/
def scalarRule : Instr → Option ScalarRule
  | .smov h d a => some ⟨h, 8, d, [.reg a], fun l => l.getD 0 0⟩
  | .smovi h d imm => some ⟨h, 12, d, [], fun _ => imm.signExtend 64⟩
  | .smovi128 h d imm => some ⟨h, 16, d, [], fun _ => imm⟩
  | .sadd h d a b => some ⟨h, 8, d, [.reg a, .reg b], of2 0 fun x y => BitVec.ofNat 64 (x.toNat + y.toNat)⟩
  | .sadd96 h d a i => some ⟨h, 12, d, [.reg a, .imm i], of2 0 fun x y => BitVec.ofNat 64 (x.toNat + y.toNat)⟩
  | .ssub h d a b => some ⟨h, 8, d, [.reg a, .reg b], of2 0 fun x y => BitVec.ofInt 64 (x.toInt - y.toInt)⟩
  | .ssub96 h d a i => some ⟨h, 12, d, [.reg a, .imm i], of2 0 fun x y => BitVec.ofInt 64 (x.toInt - y.toInt)⟩
  | .smul h d a b => some ⟨h, 8, d, [.reg a, .reg b], of2 0 fun x y => BitVec.ofNat 64 (x.toNat * y.toNat)⟩
  | .smul96 h d a i => some ⟨h, 12, d, [.reg a, .imm i], of2 0 fun x y => BitVec.ofNat 64 (x.toNat * y.toNat)⟩
  | .smulh h n d a b => some ⟨h, 8, d, [.reg a, .reg b], of2 0 (highHalf n)⟩
  | .smulh96 h n d a i => some ⟨h, 12, d, [.reg a, .imm i], of2 0 (highHalf n)⟩
  | .sdiv h n d a b => some ⟨h, 8, d, [.reg a, .reg b], of2 0 (quotient n)⟩
  | .sdiv96 h n d a i => some ⟨h, 12, d, [.reg a, .imm i], of2 0 (quotient n)⟩
  | .srem h n d a b => some ⟨h, 8, d, [.reg a, .reg b], of2 0 (remainder n)⟩
  | .srem96 h n d a i => some ⟨h, 12, d, [.reg a, .imm i], of2 0 (remainder n)⟩
  | .sand h d a b => some ⟨h, 8, d, [.reg a, .reg b], of2 0 (· &&& ·)⟩
  | .sand96 h d a i => some ⟨h, 12, d, [.reg a, .imm i], of2 0 (· &&& ·)⟩
  | .sor h d a b => some ⟨h, 8, d, [.reg a, .reg b], of2 0 (· ||| ·)⟩
  | .sor96 h d a i => some ⟨h, 12, d, [.reg a, .imm i], of2 0 (· ||| ·)⟩
  | .sxor h d a b => some ⟨h, 8, d, [.reg a, .reg b], of2 0 (· ^^^ ·)⟩
  | .sxor96 h d a i => some ⟨h, 12, d, [.reg a, .imm i], of2 0 (· ^^^ ·)⟩
  | .sshl h d a b => some ⟨h, 8, d, [.reg a, .reg b], of2 0 shiftLeft⟩
  | .sshl96 h d a i => some ⟨h, 12, d, [.reg a, .imm i], of2 0 shiftLeft⟩
  | .sshr h d a b => some ⟨h, 8, d, [.reg a, .reg b], of2 0 shiftRight⟩
  | .sshr96 h d a i => some ⟨h, 12, d, [.reg a, .imm i], of2 0 shiftRight⟩
  | .ssar h d a b => some ⟨h, 8, d, [.reg a, .reg b], of2 0 shiftArith⟩
  | .ssar96 h d a i => some ⟨h, 12, d, [.reg a, .imm i], of2 0 shiftArith⟩
  | .smin h n d a b => some ⟨h, 8, d, [.reg a, .reg b], of2 0 fun x y => BitVec.ofInt 64 (min (operand n x) (operand n y))⟩
  | .smin96 h n d a i =>
    some ⟨h, 12, d, [.reg a, .imm i], of2 0 fun x y => BitVec.ofInt 64 (min (operand n x) (operand n y))⟩
  | .smax h n d a b => some ⟨h, 8, d, [.reg a, .reg b], of2 0 fun x y => BitVec.ofInt 64 (max (operand n x) (operand n y))⟩
  | .smax96 h n d a i =>
    some ⟨h, 12, d, [.reg a, .imm i], of2 0 fun x y => BitVec.ofInt 64 (max (operand n x) (operand n y))⟩
  | .scmp h n p d a b => some ⟨h, 8, d, [.reg a, .reg b], of2 0 (compare64 n p)⟩
  | .scmp96 h n p d a i => some ⟨h, 12, d, [.reg a, .imm i], of2 0 (compare64 n p)⟩
  | .ssel h d a b c =>
    some ⟨h, 8, d, [.reg a, .reg b, .reg c], fun l => if l.getD 2 0 = 0 then l.getD 1 0 else l.getD 0 0⟩
  | .spopc h d a =>
    some ⟨h, 8, d, [.reg a], fun l => BitVec.ofNat 64 ((List.range 64).countP (fun i => (l.getD 0 0).getLsbD i))⟩
  | .sclz h d a =>
    some ⟨h, 8, d, [.reg a], fun l => BitVec.ofNat 64 (if (l.getD 0 0).toNat = 0 then 64 else 63 - Nat.log2 (l.getD 0 0).toNat)⟩
  | _ => none
where
  /-- Bits 127 to 64 of the exact product. -/
  highHalf (n : Bool) (x y : DWord) : DWord := BitVec.ofInt 64 ((operand n x * operand n y) / 2 ^ 64)
  /-- R242. -/
  quotient (n : Bool) (x y : DWord) : DWord :=
    if y = 0 then 0xFFFFFFFFFFFFFFFF else BitVec.ofInt 64 ((operand n x).tdiv (operand n y))
  remainder (n : Bool) (x y : DWord) : DWord :=
    if y = 0 then x else BitVec.ofInt 64 (operand n x - operand n y * (operand n x).tdiv (operand n y))
  /-- R243: the count is any unsigned number. -/
  shiftLeft (x y : DWord) : DWord := BitVec.ofNat 64 (x.toNat * 2 ^ y.toNat)
  shiftRight (x y : DWord) : DWord := BitVec.ofNat 64 (x.toNat / 2 ^ y.toNat)
  shiftArith (x y : DWord) : DWord := BitVec.ofInt 64 (x.toInt / 2 ^ y.toNat)
  /-- SCMP. -/
  compare64 (n : Bool) (p : IntPred) (x y : DWord) : DWord :=
    if intPred p (operand n x) (operand n y) then 1 else 0

/-! ### Vector results (15 R247 to R262) -/

/-- A vector operand: a register or an even/odd pair, or an immediate of a width. -/
inductive VSrc where
  | reg (wide : Bool) (r : VReg)
  | imm (wide : Bool) (i : Word)

/-- Reads vector operands as the patterns of the lanes of a mask. -/
def readVecs (s : State) (m : Mask) : List VSrc → Attempt (List (Nat → Nat))
  | [] => .ok []
  | .reg wide r :: t => do
    let x ← readVW s wide r.toNat m.getLsbD
    let xs ← readVecs s m t
    pure (x :: xs)
  | .imm wide i :: t => do
    let xs ← readVecs s m t
    pure ((fun _ => if wide then (i.signExtend 64).toNat else i.toNat) :: xs)

/-- A vector integer instruction as its table has it: hints, floor class, length, predicate, width, destination, operands
and the result of a lane. -/
structure VectorRule where
  h : Hints
  floor : Nat
  len : Nat
  k : KReg
  wide : Bool
  d : VReg
  srcs : List VSrc
  lane : List Nat → Nat

/-- Val of a w-bit pattern under a type (15 R251): signed for .i, unsigned for .n. -/
def laneVal (ty : VType) (x : Nat) : Int :=
  match ty with
  | .i32 => (BitVec.ofNat 32 x).toInt
  | .n32 => (x % 2 ^ 32 : Nat)
  | .i64 => (BitVec.ofNat 64 x).toInt
  | .n64 => (x % 2 ^ 64 : Nat)

/-- Min(T) and Max(T). -/
def leastOf : VType → Int
  | .i32 => -(2 ^ 31)
  | .i64 => -(2 ^ 63)
  | .n32 | .n64 => 0
def greatestOf : VType → Int
  | .i32 => 2 ^ 31 - 1
  | .i64 => 2 ^ 63 - 1
  | .n32 => 2 ^ 32 - 1
  | .n64 => 2 ^ 64 - 1

def widthOf (wide : Bool) : Nat := if wide then 64 else 32

/-- Clamp under .sat, then res mod 2^w. -/
def narrow (ty : VType) (sat : Bool) (res : Int) : Nat :=
  let res := if sat then (if res < leastOf ty then leastOf ty else if greatestOf ty < res then greatestOf ty else res) else res
  (res % 2 ^ widthOf ty.is64).toNat

/-- An arithmetic lane of two operands. -/
def arith2 (ty : VType) (sat : Bool) (f : Int → Int → Int) : List Nat → Nat :=
  of2 0 fun x y => narrow ty sat (f (laneVal ty x) (laneVal ty y))

/-- The shifts of 15 R252 by an unsigned count. -/
def shl (w : Nat) : List Nat → Nat := of2 0 fun x n => x * 2 ^ n % 2 ^ w
def shr : List Nat → Nat := of2 0 fun x n => x / 2 ^ n
def sar (wide : Bool) : List Nat → Nat :=
  of2 0 fun x n => ((laneVal (if wide then .i64 else .i32) x / 2 ^ n) % 2 ^ widthOf wide).toNat

/-- The tables of 15 R250 to R252 and VMOV. -/
def vectorRule : Instr → Option VectorRule
  | .vmov h k wide d a => some ⟨h, 1, 8, k, wide, d, [.reg wide a], fun l => l.getD 0 0⟩
  | .vmov96 h k wide d i => some ⟨h, 1, 12, k, wide, d, [.imm wide i], fun l => l.getD 0 0⟩
  | .vadd h k ty sat d a b => some ⟨h, 1, 8, k, ty.is64, d, [.reg ty.is64 a, .reg ty.is64 b], arith2 ty sat (· + ·)⟩
  | .vadd96 h k ty sat d a i => some ⟨h, 1, 12, k, ty.is64, d, [.reg ty.is64 a, .imm ty.is64 i], arith2 ty sat (· + ·)⟩
  | .vsub h k ty sat d a b => some ⟨h, 1, 8, k, ty.is64, d, [.reg ty.is64 a, .reg ty.is64 b], arith2 ty sat (· - ·)⟩
  | .vsub96 h k ty sat d a i => some ⟨h, 1, 12, k, ty.is64, d, [.reg ty.is64 a, .imm ty.is64 i], arith2 ty sat (· - ·)⟩
  | .vmul h k ty sat d a b => some ⟨h, 2, 8, k, ty.is64, d, [.reg ty.is64 a, .reg ty.is64 b], arith2 ty sat (· * ·)⟩
  | .vmul96 h k ty sat d a i => some ⟨h, 2, 12, k, ty.is64, d, [.reg ty.is64 a, .imm ty.is64 i], arith2 ty sat (· * ·)⟩
  | .vmulh h k ty d a b => some ⟨h, 2, 8, k, ty.is64, d, [.reg ty.is64 a, .reg ty.is64 b], high ty⟩
  | .vmulh96 h k ty d a i => some ⟨h, 2, 12, k, ty.is64, d, [.reg ty.is64 a, .imm ty.is64 i], high ty⟩
  | .vmad h k ty sat d a b c =>
    some ⟨h, 2, 8, k, ty.is64, d, [.reg ty.is64 a, .reg ty.is64 b, .reg ty.is64 c], fun l =>
      narrow ty sat (laneVal ty (l.getD 0 0) * laneVal ty (l.getD 1 0) + laneVal ty (l.getD 2 0))⟩
  | .vand h k wide d a b => some ⟨h, 1, 8, k, wide, d, [.reg wide a, .reg wide b], of2 0 (· &&& ·)⟩
  | .vand96 h k wide d a i => some ⟨h, 1, 12, k, wide, d, [.reg wide a, .imm wide i], of2 0 (· &&& ·)⟩
  | .vor h k wide d a b => some ⟨h, 1, 8, k, wide, d, [.reg wide a, .reg wide b], of2 0 (· ||| ·)⟩
  | .vor96 h k wide d a i => some ⟨h, 1, 12, k, wide, d, [.reg wide a, .imm wide i], of2 0 (· ||| ·)⟩
  | .vxor h k wide d a b => some ⟨h, 1, 8, k, wide, d, [.reg wide a, .reg wide b], of2 0 (· ^^^ ·)⟩
  | .vxor96 h k wide d a i => some ⟨h, 1, 12, k, wide, d, [.reg wide a, .imm wide i], of2 0 (· ^^^ ·)⟩
  | .vshl h k wide d a b => some ⟨h, 1, 8, k, wide, d, [.reg wide a, .reg false b], shl (widthOf wide)⟩
  | .vshl96 h k wide d a i => some ⟨h, 1, 12, k, wide, d, [.reg wide a, .imm wide i], shl (widthOf wide)⟩
  | .vshr h k ty d a b => some ⟨h, 1, 8, k, ty.is64, d, [.reg ty.is64 a, .reg false b], shr⟩
  | .vshr96 h k ty d a i => some ⟨h, 1, 12, k, ty.is64, d, [.reg ty.is64 a, .imm ty.is64 i], shr⟩
  | .vsar h k ty d a b => some ⟨h, 1, 8, k, ty.is64, d, [.reg ty.is64 a, .reg false b], sar ty.is64⟩
  | .vsar96 h k ty d a i => some ⟨h, 1, 12, k, ty.is64, d, [.reg ty.is64 a, .imm ty.is64 i], sar ty.is64⟩
  | .vmin h k ty d a b => some ⟨h, 1, 8, k, ty.is64, d, [.reg ty.is64 a, .reg ty.is64 b], arith2 ty false min⟩
  | .vmin96 h k ty d a i => some ⟨h, 1, 12, k, ty.is64, d, [.reg ty.is64 a, .imm ty.is64 i], arith2 ty false min⟩
  | .vmax h k ty d a b => some ⟨h, 1, 8, k, ty.is64, d, [.reg ty.is64 a, .reg ty.is64 b], arith2 ty false max⟩
  | .vmax96 h k ty d a i => some ⟨h, 1, 12, k, ty.is64, d, [.reg ty.is64 a, .imm ty.is64 i], arith2 ty false max⟩
  | .vclz h k wide d a => some ⟨h, 1, 8, k, wide, d, [.reg wide a], fun l =>
      if l.getD 0 0 = 0 then widthOf wide else widthOf wide - 1 - Nat.log2 (l.getD 0 0)⟩
  | .vpopc h k wide d a => some ⟨h, 1, 8, k, wide, d, [.reg wide a], fun l =>
      (List.range (widthOf wide)).countP (fun i => (l.getD 0 0).testBit i)⟩
  | _ => none
where
  /-- High half of the product. -/
  high (ty : VType) : List Nat → Nat := of2 0 fun x y =>
    ((laneVal ty x * laneVal ty y / 2 ^ widthOf ty.is64) % 2 ^ widthOf ty.is64).toNat

/-- What a masked instruction gives each lane: the result at active lanes, nothing elsewhere. -/
def atActive {α β : Type} (m : Mask) (xs : List (Nat → α)) (f : List α → β) (l : Nat) : Option β :=
  if m.getLsbD l then some (f (xs.map (fun x => x l))) else none

/-- A floating-point instruction as the tables of 15 R256 have it: the result of a lane and the flags it raises. -/
structure FloatRule where
  h : Hints
  floor : Nat
  len : Nat
  k : KReg
  d : VReg
  srcs : List (Second VReg)
  lane : List Word → Word × FFlags

/-- Reads .f32 operands at the lanes of a mask. -/
def readFloats (s : State) (m : Mask) : List (Second VReg) → Attempt (List (Nat → Word))
  | [] => .ok []
  | .reg r :: t => do
    let x ← readV s r.toNat m.getLsbD
    let xs ← readFloats s m t
    pure (x :: xs)
  | .imm i :: t => do
    let xs ← readFloats s m t
    pure ((fun _ => i) :: xs)

/-- A lane of one operand. -/
def of1 {α β : Type} (z : α) (f : α → β) (l : List α) : β := f (l.getD 0 z)

/-- The tables of 15 R256: floors, lengths, operands and the operation of each instruction. -/
def floatRule : Instr → Option FloatRule
  | .fadd h k rm d a b => some ⟨h, 3, 8, k, d, [.reg a, .reg b], of2 0 (f32add rm)⟩
  | .fadd96 h k rm d a i => some ⟨h, 3, 12, k, d, [.reg a, .imm i], of2 0 (f32add rm)⟩
  | .fsub h k rm d a b => some ⟨h, 3, 8, k, d, [.reg a, .reg b], of2 0 (f32sub rm)⟩
  | .fsub96 h k rm d a i => some ⟨h, 3, 12, k, d, [.reg a, .imm i], of2 0 (f32sub rm)⟩
  | .fmul h k rm d a b => some ⟨h, 3, 8, k, d, [.reg a, .reg b], of2 0 (f32mul rm)⟩
  | .fmul96 h k rm d a i => some ⟨h, 3, 12, k, d, [.reg a, .imm i], of2 0 (f32mul rm)⟩
  | .ffma h k rm d a b c =>
    some ⟨h, 3, 8, k, d, [.reg a, .reg b, .reg c], fun l => f32fma rm (l.getD 0 0) (l.getD 1 0) (l.getD 2 0)⟩
  | .fmin h k d a b => some ⟨h, 3, 8, k, d, [.reg a, .reg b], of2 0 (f32minmax false)⟩
  | .fmin96 h k d a i => some ⟨h, 3, 12, k, d, [.reg a, .imm i], of2 0 (f32minmax false)⟩
  | .fmax h k d a b => some ⟨h, 3, 8, k, d, [.reg a, .reg b], of2 0 (f32minmax true)⟩
  | .fmax96 h k d a i => some ⟨h, 3, 12, k, d, [.reg a, .imm i], of2 0 (f32minmax true)⟩
  | .fdiv h k rm d a b => some ⟨h, 4, 8, k, d, [.reg a, .reg b], of2 0 (f32div rm)⟩
  | .fsqrt h k rm d a => some ⟨h, 4, 8, k, d, [.reg a], of1 0 (f32sqrt rm)⟩
  | .frcp h k d a => some ⟨h, 4, 8, k, d, [.reg a], of1 0 f32rcp⟩
  | .frsq h k d a => some ⟨h, 4, 8, k, d, [.reg a], of1 0 f32rsq⟩
  | .fexp2 h k d a => some ⟨h, 4, 8, k, d, [.reg a], of1 0 f32exp2⟩
  | .flog2 h k d a => some ⟨h, 4, 8, k, d, [.reg a], of1 0 f32log2⟩
  | .fcvt h k sat rm dt st d a => some ⟨h, 2, 8, k, d, [.reg a], of1 0 (f32cvt dt st rm sat)⟩
  | .fclass h k d a => some ⟨h, 2, 8, k, d, [.reg a], of1 0 fun x => (f32class x, 0)⟩
  | .frnd h k rm d a => some ⟨h, 2, 8, k, d, [.reg a], of1 0 (f32rnd rm)⟩
  | _ => none

/-! ### Folds (15 R267) -/

/-- The accumulator after some values in order; none of no value. -/
def accOf (ty : RedType) (op : RedOp) (rm : Rnd) : List Nat → Option Nat
  | [] => none
  | x :: t => some (t.foldl (fun acc y => (foldVal ty op rm acc y).1) (firstVal ty x).1)

/-- The values of the lanes below n that p takes, in ascending order. -/
def lanesBelow (p : Nat → Bool) (x : Nat → Nat) (n : Nat) : List Nat := ((List.range n).filter p).map x

/-- The flags that a lane's step of a fold raises, given the values folded before it. -/
def stepFlags (ty : RedType) (op : RedOp) (rm : Rnd) (before : List Nat) (x : Nat) : FFlags :=
  match accOf ty op rm before with
  | none => (firstVal ty x).2
  | some a => (foldVal ty op rm a x).2

/-- head(i): the greatest j ≤ i that is 0 or a set bit of the mask. -/
def headOf (m : Mask) : Nat → Nat
  | 0 => 0
  | i + 1 => if m.getLsbD (i + 1) then i + 1 else headOf m i

/-- The identity of an operation. -/
def identityOf (ty : RedType) (op : RedOp) : Nat :=
  match op, ty with
  | .and, .i32 | .and, .n32 | .and, .f32 => 0xFFFFFFFF
  | .and, .i64 | .and, .n64 => 0xFFFFFFFFFFFFFFFF
  | .min, .i32 => 0x7FFFFFFF
  | .min, .n32 => 0xFFFFFFFF
  | .min, .i64 => 0x7FFFFFFFFFFFFFFF
  | .min, .n64 => 0xFFFFFFFFFFFFFFFF
  | .min, .f32 => 0x7F800000
  | .max, .i32 => 0x80000000
  | .max, .i64 => 0x8000000000000000
  | .max, .f32 => 0xFF800000
  | .max, .n32 | .max, .n64 => 0
  | .add, _ | .or, _ | .xor, _ | .fadd, _ => 0

/-- Extend: a 32-bit accumulator widened for the scalar destination. -/
def extendAcc (ty : RedType) (x : Nat) : DWord :=
  match ty with
  | .i32 => (BitVec.ofNat 32 x).signExtend 64
  | .n32 | .f32 | .i64 | .n64 => BitVec.ofNat 64 x

/-! ### Forms of loads, stores and atomics (16 R271 to R279) -/

/-- A vector access as its form has it; disp and scale are the numbers that count. -/
structure LaneForm where
  h : Hints
  len : Nat
  k : KReg
  ty : MemType
  o : Order
  sc : Scope
  d : VReg
  a : SReg
  ix : Index
  scale : Nat
  disp : Int

/-- The address of a lane: base + index × scale + displacement modulo 2^64 (16 R272). -/
def LaneForm.addr (f : LaneForm) (base : DWord) (idx : Nat → Int) (l : Nat) : Nat :=
  (((base.toNat : Int) + idx l * f.scale + f.disp) % 2 ^ 64).toNat

/-- Bytes of an element (16 R276). -/
def elemBytes : MemType → Nat
  | .i8 | .n8 => 1
  | .i16 | .n16 => 2
  | .b32 | .i32 | .n32 | .f32 => 4
  | .b64 | .i64 | .n64 => 8

def loadForm : Instr → Option LaneForm
  | .vld h k ty o sc d a ix scale => some ⟨h, 8, k, ty, o, sc, d, a, ix, 2 ^ scale.toNat, 0⟩
  | .vld96 h k ty o sc d a ix scale disp => some ⟨h, 12, k, ty, o, sc, d, a, ix, 2 ^ scale.toNat, disp.toInt⟩
  | .vld128 h k ty o sc d a ix disp scale => some ⟨h, 16, k, ty, o, sc, d, a, ix, scale.toNat, disp.toInt⟩
  | _ => none

def storeForm : Instr → Option LaneForm
  | .vst h k ty o sc d a ix scale => some ⟨h, 8, k, ty, o, sc, d, a, ix, 2 ^ scale.toNat, 0⟩
  | .vst96 h k ty o sc d a ix scale disp => some ⟨h, 12, k, ty, o, sc, d, a, ix, 2 ^ scale.toNat, disp.toInt⟩
  | .vst128 h k ty o sc d a ix disp scale => some ⟨h, 16, k, ty, o, sc, d, a, ix, scale.toNat, disp.toInt⟩
  | _ => none

/-- VCST: disp is the displacement and scale the stride, 0 standing for the element size. -/
def packedForm : Instr → Option LaneForm
  | .vcst h k ty o sc d a => some ⟨h, 8, k, ty, o, sc, d, a, .noIndex, 0, 0⟩
  | .vcst96 h k ty o sc d a disp => some ⟨h, 12, k, ty, o, sc, d, a, .noIndex, 0, disp.toInt⟩
  | .vcst128 h k ty o sc d a disp stride => some ⟨h, 16, k, ty, o, sc, d, a, .noIndex, stride.toNat, disp.toInt⟩
  | _ => none

/-- ATOM with its operation and its operand register. -/
def atomForm : Instr → Option (LaneForm × AtomOp × VReg)
  | .atom h k ty op o sc d a b c => some (⟨h, 8, k, ty, o, sc, d, a, .vec b false, elemBytes ty, 0⟩, op, c)
  | .atom96 h k ty op o sc d a b c disp => some (⟨h, 12, k, ty, o, sc, d, a, .vec b false, elemBytes ty, disp.toInt⟩, op, c)
  | .atom128 h k ty op o sc d a ix c disp scale => some (⟨h, 16, k, ty, o, sc, d, a, ix, scale.toNat, disp.toInt⟩, op, c)
  | _ => none

/-! ### Things due -/

/-- A packet of a kind that carries an access of a wave has reached its home in device memory and may be served: State.subj
names it, nothing before it from its source waits, it is not out over a link, no ingress and no drain tile keeps it out, its
target is there, and line tokens cover the moves of its lines. -/
def State.requestDue (s : State) (id : Nat) (p : Packet) (a : Access) (kind : Nat) : Prop :=
  s.subj.a = id ∧ mget s.packets id = some p ∧ p.kind = kind ∧ p.answer = false ∧
    (∃ c, p.loc = .arrived c ∧ c ≤ s.now) ∧ p.body = .access a ∧ sliceHomed a.pa = true ∧
    s.queuedBehind id p = false ∧ s.onLink id = false ∧ s.noTarget a.pa = false ∧ s.lockedOut a = false ∧
    s.thingHeld (.request id) = false ∧ (s.moveLines a.uses).isSome

/-- No byte of a range lies in a line of the barrier engine. -/
def State.noBarrier (s : State) (pa n : Nat) : Prop :=
  ∀ l, pa / 64 ≤ l → 64 * l < pa + n → (s.slice (s.lineHome (64 * l))).barriers.contains (64 * l) = false

/-- A packet is the answer to an access: it goes back from its home with the result. -/
def State.answered (t : State) (id : Nat) (p : Packet) (a : Access) (kind result : Nat) : Prop :=
  ∃ q, mget t.packets id = some q ∧ q.kind = kind ∧ q.answer = true ∧ q.src = p.dst ∧ q.dst = p.src ∧ q.loc = .agent ∧
    q.body = .access { a with performed := true, result := result }

/-- A packet has reached its destination, State.subj names it, and no cluster holds it. -/
def State.packetDue (s : State) (id : Nat) (p : Packet) (kind : Nat) (answer : Bool) : Prop :=
  s.subj.a = id ∧ mget s.packets id = some p ∧ p.kind = kind ∧ p.answer = answer ∧
    (∃ c, p.loc = .arrived c ∧ c ≤ s.now) ∧ s.isHeld id = false

/-- Memory of t is that of s with bytes written from an address up. -/
def State.storedAt (s t : State) (pa : Nat) (bs : List Byte) : Prop :=
  ∀ a, memByte t.mem a = if pa ≤ a ∧ a < pa + bs.length then bs.getD (a - pa) 0 else memByte s.mem a

/-- A command of a kind is due at a queue, for a partition that exists. -/
def State.commandDue (s : State) (queue op : Nat) (c : Command) (part : Nat) : Prop :=
  s.cmdDue queue op = some c ∧ c.part queue = part ∧ (mget s.parts part).isSome

/-- A packet at a destination has become its answer. -/
def State.repliedTo (t : State) (id : Nat) (p : Packet) (kind : Nat) (body : Body) : Prop :=
  ∃ q, mget t.packets id = some q ∧ q.kind = kind ∧ q.answer = true ∧ q.src = p.dst ∧ q.body = body

/-- The read of the ring entry that a queue has reached is out over the link. -/
def State.ringAsked (s t : State) (part q : Nat) (r : RingQueue) : Prop :=
  mget t.hostReqs s.nextId =
    some { ask := .packetRead part q, fn := part, link := r.link, addr := r.ring + r.next % r.slots * 64, len := 64 }

/-- A command queue has carried out the command c, with a result. -/
def State.resulted (t : State) (queue n : Nat) (c : Command) : Prop :=
  (t.queue queue commandQueue).cmd = some { c with result := some n, waitingFor := [] }

/-! ### The Millrace (20 R308 to R316) -/

/-- The wave at issue is in no gang, no other wave waits at the latch, and its workgroup holds the array with state m. -/
def State.loneMill (s : State) (m : Mill) : Prop :=
  s.w.gang = 0 ∧ (s.cluster s.cur.1).latch = [] ∧ (∀ e, e ∈ (s.cluster s.cur.1).waves → e.2.arrived = none) ∧
    s.myMill s.cur.1 s.w.ctx s.w.wgslot = some m

/-- The latch has let the wave at issue pass. -/
def State.pastLatch (s : State) : State := s.setCluster s.cur.1 { s.cluster s.cur.1 with latch := [] }

/-- An operand of n bytes at a virtual address translates to runs, and reads as some bytes in s', the state with the
operands' lines drawn. -/
def State.operandIs (s s' : State) (va n : Nat) (runs : List Run) (bs : List Byte) : Prop :=
  s.operand va n = .ok runs ∧ readRuns s' runs = .ok (.ok bs, s')

/-- The lines that the reads of runs use. -/
def lineUses (runs : List Run) : List (Nat × LineUse) := runs.flatMap (fun r => usesOf r.pa r.len (fun _ => .read r.ca))

/-- Nothing that the wave's matrix operands must wait for is under way. -/
def State.quietOperands (s : State) : Prop :=
  s.pendingOf s.tag = [] ∧ s.orderAfter false = [] ∧ s.jobsOn s.cur.1 s.w.ctx = [] ∧
    ∀ home, s.sentBefore s.cur.1 home (s.w.mark.getD s.nextId) = []

/-- The blocks of an activation row: number, values and scale (20 R310). -/
def rowBlocks (f : Fmt) (scf : ScaleFmt) (kb : Nat) (act scales : List Byte) : List (Nat × List FVal × Option (Nat × Int)) :=
  (rangeFrom 0 kb).map (fun b =>
    (b, (((codesOf f act).drop (24 * b)).take 24).map (elemValue f), scaleValue scf ((scales.map BitVec.toNat).getD b 0)))

/-! ### The plane (22 R318 to R326) -/

/-- A cell executes: within the extent, enabled, and its row and its column gated on by the mask (22 R318). -/
def Plane.runs (p : Plane) (m : Mask) (c : Nat) : Bool :=
  decide (c < 4096) && decide (c % 64 ≤ p.wm1.toNat) && decide (c / 64 ≤ p.hm1.toNat) && p.enable.getLsbD c &&
    m.getLsbD (c / 64) && m.getLsbD (64 + c % 64)

/-- What a plane holds beside its cells, flags and enables. -/
def Plane.sameForm (p q : Plane) : Prop :=
  q.ctx = p.ctx ∧ q.wgslot = p.wgslot ∧ q.wm1 = p.wm1 ∧ q.hm1 = p.hm1 ∧ q.en = p.en

/-- The enables of a plane. -/
def Plane.sameEnables (p q : Plane) : Prop := q.enable = p.enable ∧ q.stack = p.stack

/-- Plane q is p with the executing cells of register d set to f and its flags raised there; everything else is as it was. -/
def Plane.setTo (p q : Plane) (m : Mask) (d : PReg) (f : Nat → Word × FFlags) : Prop :=
  p.sameForm q ∧ p.sameEnables q ∧
    (∀ c, p.runs m c = true → q.cell d c = (f c).1 ∧ mgetD q.flags c 0 = mgetD p.flags c 0 ||| (f c).2) ∧
    (∀ c, p.runs m c = false → mgetD q.flags c 0 = mgetD p.flags c 0) ∧
    (∀ r c, c < 4096 → r ≠ d ∨ p.runs m c = false → q.cell r c = p.cell r c)

/-- A cell operation as the table of 22 R323 has it: hints, mask, plane steps, destination and the result of a cell. -/
structure PlaneRule where
  h : Hints
  k : KReg
  steps : Nat
  d : PReg
  cell : Plane → Nat → Word × FFlags

/-- The table of 22 R323. -/
def planeRule : Instr → Option PlaneRule
  | .padd h k d a b => some ⟨h, k, 1, d, fun p c => planeAdd (p.cell a c) (p.cell b c)⟩
  | .pmul h k d a b => some ⟨h, k, 1, d, fun p c => planeMul (p.cell a c) (p.cell b c)⟩
  | .pfma h k d a b e => some ⟨h, k, 1, d, fun p c => planeFma (p.cell a c) (p.cell b c) (p.cell e c)⟩
  | .pmin h k d a b => some ⟨h, k, 1, d, fun p c => f32minmax false (p.cell a c) (p.cell b c)⟩
  | .pmax h k d a b => some ⟨h, k, 1, d, fun p c => f32minmax true (p.cell a c) (p.cell b c)⟩
  | .pexp2 h k d a => some ⟨h, k, 2, d, fun p c => planeExp2 (p.cell a c)⟩
  | .prcp h k d a => some ⟨h, k, 2, d, fun p c => planeRcp (p.cell a c)⟩
  | .pblend h k d a b =>
    some ⟨h, k, 2, d, fun p c =>
      let t := planeSub (p.cell b c) (p.cell d c)
      let r := planeFma (p.cell a c) t.1 (p.cell d c)
      (r.1, r.2 ||| t.2)⟩
  | _ => none

/-- The accumulator of a plane reduction after some values in order (22 R326). -/
def planeAcc (op : PlaneRed) : List Word → Option Word
  | [] => none
  | x :: t => some (t.foldl (fun acc y => (planeRedStep op acc y).1) (planeFirst x).1)

/-- The flags that a cell raises in a reduction, after the values before it. -/
def planeStepFlags (op : PlaneRed) (before : List Word) (x : Word) : FFlags :=
  match planeAcc op before with
  | none => (planeFirst x).2
  | some a => (planeRedStep op a x).2

/-- The values of the cells below n that p takes, in ascending order of y and then of x. -/
def Plane.valuesBelow (p : Plane) (a : PReg) (take : Nat → Bool) (n : Nat) : List Word :=
  ((List.range n).filter take).map (p.cell a)

end Sys2Proof.Machine
end

