-- ==== Sys2Proof/Certificates/Slice0/Obligations.lean ====
section
/-!
DEFINITION. The statements about the model, for the provers.
-/
open Sys2Proof Sys2Proof.Machine

/-- 12 R200 to R212, 13: every well-formed instruction that has an encoding decodes back from its words, whatever follows
them; no bit of a field is dropped. -/
def Obligations.EncodingRoundTrip : Prop :=
  ∀ (i : Instr) (rest : List Word), i.wf = true → encode i ≠ [] →
    decodeParcels (encode i ++ rest) = some (i, i.byteLen) ∧ (i.byteLen = 4 ∨ i.byteLen = 8 ∨ i.byteLen = 12 ∨ i.byteLen = 16)

/-- 12 R201, R204: what the decoder accepts is well formed, and its words are the encoding of what it answers: no word with a
reserved bit set, an unlisted value or an unassigned opcode is taken for an instruction. -/
def Obligations.DecodeSound : Prop :=
  ∀ (ps : List Word) (i : Instr) (len : Nat), decodeParcels ps = some (i, len) →
    i.wf = true ∧ len = i.byteLen ∧ ps.take (len / 4) = encode i

/-- Words written out from the encodings of 12 and 13, and words that are refused: a length code of 3 that is no FILL, k0 as a
written mask, an odd register of a pair, a reserved bit. -/
def Obligations.ManualWords : Prop :=
  let h0 : Hints := { s := 0, y := false, e := 0 }
  decodeParcels [0x3] = some (.fill, 4) ∧
  decodeParcels [0x0149_6000, 0x0000_0006] = some (.kcmps h0 false .lt 1 (.s 6), 8) ∧
  decodeParcels [0x0909_0000, 0x0000_0002] = some (.krank h0 9 2, 8) ∧
  decodeParcels [0x024B_E001, 0x0000_0001, 0x0000_0064] = some (.vcmp96 h0 0 .i32 .lt 2 1 0x64, 12) ∧
  decodeParcels [0x0514_0000, 0x1000_0706] = some (.vshuf h0 0 false .lxor 5 6 7, 8) ∧
  decodeParcels [0x051F_4001, 0x0000_0000, 0x0000_0003] = some (.feat96 h0 (.s 5) 3, 12) ∧
  decodeParcels [0x001F_6000, 0x0000_0000] = some (.tret h0, 8) ∧
  decodeParcels [0x0000_0007] = none ∧
  decodeParcels [0x0049_6000, 0x0000_0006] = none ∧
  decodeParcels [0x001F_6000, 0x0000_0100] = none

/-- 12 R202, 10 R170, R171: a turn of a sector attempts its waves in the order of issue; the first, if no logged record is due
and no ENTRY check is open, runs the instruction that the bytes at its pc decode to, and the sector's turn is over if that
went on, else the next wave is attempted. Bytes that decode to nothing trap as ILLEGAL with their first parcel. A turn that is
an event runs that event; a turn of n cycles lets n cycles pass. That turns stand in an agenda is the model's choice (log 3), and
so is that a wave whose attempt moves lines that no tokens cover waits, and that an event which would move such lines does not take
place (log 27). -/
def Obligations.StepRunsDecoded : Prop :=
  (∀ (s : State) (cl sec row pa attr : Nat) (more : List Nat) (turns : List Turn) (w : Wave),
    s.agenda = { act := .issue cl sec } :: turns → s.sectorIssued cl sec = false →
    let s1 : State := { s with agenda := turns, old := [], subj := {} }
    let s2 : State := { s1 with cur := (cl, row), issued := false }
    s1.sectorOrder cl sec = row :: more → s.waveAt? cl row = some w → s2.deliverDue cl row w = none → w.needEntry = false →
    w.endAt ≠ some w.pc ∨ w.intrap = true →
    s2.translate cl w.ctx (w.pc / 32 * 32) .fetch = .ok (pa, attr) →
    (∀ l, region pa ≠ .host l) → (∀ l, region pa ≠ .peer l) →
    -- the block as it is read: from memory, or for a vault whose range is diverted from its shadow
    ∀ (bs : List Byte) (s2' : State), s2.readFor w.ctx pa 32 = .bytes bs s2' →
    ((∀ n, region pa ≠ .vault n) → bs = memRead s.mem pa 32) ∧
    let s3 := s2'.tookBlock cl row pa attr w { ctx := w.ctx, va := w.pc / 32 * 32, bytes := bs }
    -- the wave has waited, and the next is attempted
    let waits := (s2.updWave cl row (fun w => { w with why := .dep })).tryRows cl sec more
    (∀ i len t, decodeBytes (bs.drop (w.pc % 32)) = some (i, len) → exec i s3 = .next t →
      (s1.movesCovered t = true →
        step s = if t.issued then .next (if t.sectorIssued cl sec then s1.starveRest cl more t else t)
          else t.tryRows cl sec more) ∧
      (s1.movesCovered t = false → step s = waits)) ∧
    (decodeBytes (bs.drop (w.pc % 32)) = none →
      let first := ((parcelsOfBytes (bs.drop (w.pc % 32))).headD 0).toNat
      let t := s3.trapAt cl row { cause := 0x10, iaddr := w.pc, resume := w.pc, info := first }
      (s1.movesCovered t = true → step s = .next (if t.sectorIssued cl sec then s1.starveRest cl more t else t)) ∧
      (s1.movesCovered t = false → step s = waits))) ∧
  (∀ (s : State) (i : Instr) (t : Turn) (turns : List Turn), s.agenda = t :: turns → t.act = .event i →
    let s1 : State := { s with agenda := turns, old := t.old, subj := t.subj }
    ∀ u, exec i s1 = .next u → step s = .next (if s1.movesCovered u then u else s1)) ∧
  (∀ (s : State) (n : Nat) (t : Turn) (turns : List Turn), s.agenda = t :: turns → t.act = .tick n →
    ∃ u, step s = .next u ∧ u.now = s.now + n ∧ u.agenda = turns ∧
      ((∀ e, e ∈ s.clusters → e.2.profiles = []) → u.mem = s.mem))

/-- 25 R359, R358, 03 R49: the machine before power-up has its main side off, no partition, no context, nothing in flight, and
vaults that read as zero; its memory is in canonical form. That other memory reads as zero is the model's choice (log 2), and
so is that a slice has its 304 tokens before the first window (log 94). -/
def Obligations.ResetState : Prop :=
  let s := State.reset
  s.memOk = true ∧ s.dev.main = .off ∧ s.parts = [] ∧ s.ctxs = [] ∧ s.clusters = [] ∧ s.slices = [] ∧ s.packets = [] ∧
    s.laterals = [] ∧ s.jobs = [] ∧ s.traversals = [] ∧ s.launches = [] ∧ s.hostOut = [] ∧ s.poison = [] ∧
    (∀ a, memByte s.mem a = 0) ∧ (∀ n, (s.cluster n).waves = [] ∧ (s.cluster n).retired = false) ∧
    (∀ n, (s.slice n).tokens = 304 ∧ (s.slice n).lines = [])

/-- Every step keeps memory in its canonical form: addresses strictly rising, none listed with the byte that an unlisted
address reads as. -/
def Obligations.MemoryKept : Prop :=
  ∀ (s t : State), s.memOk = true → step s = .next t → t.memOk = true

/-- No instruction stops the machine: every one answers a next state where a wave is at issue, and every step of the device
does in every state; so does a turn that is no wave instruction run as an event. 10 R182, R183: an instruction's charge is its
floor class or its hint's, whichever is the greater, and one whose charge the budget does not cover stays at issue having done
nothing but begin the charges that are covered. -/
def Obligations.EveryInstructionAnswers : Prop :=
  (∀ (i : Instr) (s : State), s.curWave?.isSome → ∃ t, exec i s = .next t) ∧
  (∀ (s : State), (∀ t turns i, s.agenda = t :: turns → t.act = .event i → s.curWave?.isSome) → ∃ t, step s = .next t) ∧
  (∀ (c : Cost) (h : Hints), classUnits c.pass c.floor ≤ c.unit h ∧ classUnits c.pass (max h.e.toNat c.floor) ≤ c.unit h ∧
    (c.unit h = classUnits c.pass c.floor ∨ c.unit h = classUnits c.pass (max h.e.toNat c.floor))) ∧
  (classUnits 369 0 = 0 ∧ classUnits 369 1 = 16 ∧ classUnits 369 2 = 32 ∧ classUnits 369 3 = 58 ∧ classUnits 369 4 = 116 ∧
    classUnits 369 5 = 1066 ∧ classUnits 369 6 = 369 ∧ classUnits 369 7 = 232) ∧
  (∀ (t : State) (c : Cost) (h : Hints), t.covers c h →
    t.pay c h = (true, (t.debit t.cur.1 t.w.ctx (t.chargeOf c h)).takePlane c true false)) ∧
  (∀ (h : Hints) (s : State), s.curWave?.isSome → s.units s.cur.1 s.w.ctx < s.chargeOf {} h →
    ∃ t, exec (.nop h) s = .next t ∧ t.w.pc = s.w.pc ∧ t.w.why = .budget ∧ t.mem = s.mem ∧ t.w.s = s.w.s ∧ t.issued = s.issued)

/-- 14 R240, R241, R244: each scalar instruction, in each of its lengths, reads its operands in order and writes the result
the table gives; and it completes there. -/
def Obligations.ScalarResults : Prop :=
  ∀ (i : Instr) (r : ScalarRule) (s s1 t : State) (xs : List DWord),
    scalarRule i = some r → readSources s r.srcs = .ok (xs, s1) → writeS s1 r.d (r.result xs) = .ok t →
    Completes i r.h 0 r.len s t

/-- 14 R243: shift counts are unsigned 64-bit values; a count of 64 or more shifts everything out.

14 R242: SDIV and SREM never trap and raise no flag; their results at a zero divisor, at −2^63 ÷ −1 and otherwise. -/
def Obligations.ShiftsAndDivision : Prop :=
  (∀ (h : Hints) (d a : SReg) (b : Second SReg) (s s1 s2 t : State) (x n : DWord),
      readS s a = .ok (x, s1) → readS2 s1 b = .ok (n, s2) →
      (writeS s2 d (if n.toNat < 64 then x <<< n.toNat else 0) = .ok t →
        Completes (formOf (.sshl h d a) (.sshl96 h d a) b) h 0 (lengthOf b) s t) ∧
      (writeS s2 d (if n.toNat < 64 then x >>> n.toNat else 0) = .ok t →
        Completes (formOf (.sshr h d a) (.sshr96 h d a) b) h 0 (lengthOf b) s t) ∧
      (writeS s2 d (if n.toNat < 64 then x.sshiftRight n.toNat else if x.getLsbD 63 then BitVec.allOnes 64 else 0) = .ok t →
        Completes (formOf (.ssar h d a) (.ssar96 h d a) b) h 0 (lengthOf b) s t) ∧
      (∀ imm : Word, b = .imm imm → imm.getLsbD 31 = true → 64 ≤ n.toNat)) ∧
  (∀ (h : Hints) (n : Bool) (d a : SReg) (b : Second SReg) (s s1 s2 t : State) (x y : DWord),
      readS s a = .ok (x, s1) → readS2 s1 b = .ok (y, s2) →
      (∀ q : DWord,
        ((y = 0 ∧ q = 0xFFFFFFFFFFFFFFFF) ∨
          (n = false ∧ x = 0x8000000000000000 ∧ y = BitVec.allOnes 64 ∧ q = 0x8000000000000000) ∨
          (n = false ∧ y ≠ 0 ∧ (x ≠ 0x8000000000000000 ∨ y ≠ BitVec.allOnes 64) ∧ q.toInt = x.toInt.tdiv y.toInt) ∨
          (n = true ∧ y ≠ 0 ∧ q.toNat = x.toNat / y.toNat)) →
        writeS s2 d q = .ok t →
        Completes (formOf (.sdiv h n d a) (.sdiv96 h n d a) b) h 0 (lengthOf b) s t ∧ t.w.lflags = s.w.lflags) ∧
      (∀ r : DWord,
        ((y = 0 ∧ r = x) ∨
          (n = false ∧ x = 0x8000000000000000 ∧ y = BitVec.allOnes 64 ∧ r = 0) ∨
          (n = false ∧ y ≠ 0 ∧ (x ≠ 0x8000000000000000 ∨ y ≠ BitVec.allOnes 64) ∧ r.toInt = x.toInt.tmod y.toInt) ∨
          (n = true ∧ y ≠ 0 ∧ r.toNat = x.toNat % y.toNat)) →
        writeS s2 d r = .ok t →
        Completes (formOf (.srem h n d a) (.srem96 h n d a) b) h 0 (lengthOf b) s t ∧ t.w.lflags = s.w.lflags))

/-- 12 R205, R206: what a scalar source reads. zs reads zero; a register that no return owes reads its value; a queue
register pops the oldest entry, and an empty queue holds the wave at issue with the state as it was.

12 R205, R206: what a scalar destination does. zs discards; a register takes the value; a queue register pushes behind
the entries it holds; a full queue holds the wave. -/
def Obligations.ScalarOperands : Prop :=
  (∀ (s : State),
      readS s .zs = .ok (0, s) ∧
      (∀ n, s.owed.contains (.s n.toNat) = false → readS s (.s n) = .ok (mgetD s.w.s n.toNat 0, s)) ∧
      (∀ n q, s.owed.contains (.q n.toNat) = false → s.wg.queues[n.toNat]? = some q →
        (∀ x rest, q.entries = x :: rest → ∃ t, readS s (.q n) = .ok (x, t) ∧ t.mem = s.mem ∧
          t.wg.queues[n.toNat]? = some { q with entries := rest } ∧
          ∀ m, m ≠ n.toNat → t.wg.queues[m]? = s.wg.queues[m]?) ∧
        (q.entries = [] → readS s (.q n) = .error (.held .sync id)))) ∧
  (∀ (s : State) (x : DWord),
      writeS s .zs x = .ok s ∧
      (∀ n, s.owed.contains (.s n.toNat) = false → s.curWave?.isSome →
        ∃ t, writeS s (.s n) x = .ok t ∧ mgetD t.w.s n.toNat 0 = x ∧
          (∀ m, m ≠ n.toNat → mgetD t.w.s m 0 = mgetD s.w.s m 0) ∧ t.mem = s.mem) ∧
      (∀ n q, waitPoint s .wg = .ok () → s.wg.queues[n.toNat]? = some q →
        (q.entries.length + s.queueOwed n.toNat < q.depth →
          ∃ t, writeS s (.q n) x = .ok t ∧ t.wg.queues[n.toNat]? = some { q with entries := q.entries ++ [x] } ∧
            t.mem = s.mem) ∧
        (q.depth ≤ q.entries.length + s.queueOwed n.toNat → writeS s (.q n) x = .error (.held .sync id))))

/-- What the register writes that the instructions share leave alone, and what completing does: of the wave's registers only
the one written changes, no other wave, no special register, no memory. -/
def Obligations.EffectFrames : Prop :=
  (∀ (s t : State) (n : BitVec 7) (x : DWord), writeS s (.s n) x = .ok t →
    s.frame t [n.toNat] [] [] false ∧ t.w.pc = s.w.pc) ∧
  (∀ (s t : State) (k : KReg) (m : Mask), writeK s k m = .ok t → s.frame t [] [k.toNat] [] false ∧ t.w.pc = s.w.pc) ∧
  (∀ (s t : State) (wide : Bool) (r : Nat) (f : Nat → Option Nat), (if wide then r + 1 else r) < s.w.bound → writeVW s wide r f = .ok t →
    s.frame t [] [] (if wide then [r, r + 1] else [r]) false ∧ t.w.pc = s.w.pc ∧
    (s.curWave?.isSome → ∀ l, l < 128 →
      (∀ x, f l = some x → t.w.lane r l = BitVec.ofNat 32 x ∧ (wide = true → t.w.lane (r + 1) l = BitVec.ofNat 32 (x / 2 ^ 32))) ∧
      (f l = none → t.w.lane r l = s.w.lane r l ∧ t.w.lane (r + 1) l = s.w.lane (r + 1) l))) ∧
  (∀ (s : State) (f : Nat → FFlags), s.frame (s.raiseLanes f) [] [] [] true ∧ (s.raiseLanes f).w.pc = s.w.pc ∧
    (s.curWave?.isSome → ∀ l, l < 128 → mgetD (s.raiseLanes f).w.lflags l 0 = mgetD s.w.lflags l 0 ||| f l)) ∧
  (∀ (s : State) (c : Cost) (h : Hints) (ph : BitVec 4) (next : Option Nat), s.curWave?.isSome →
    let t := s.completed c h ph next
    -- a plane instruction has also had its turn at the plane
    (c.plane = false → s.frame t [] [] [] false) ∧
      (s.sameOutside t ∧ t.cur = s.cur ∧ t.w.s = s.w.s ∧ t.w.k = s.w.k ∧ t.w.v = s.w.v ∧ s.w.sameSpecial t.w ∧
        (t.cluster s.cur.1).plane = (s.cluster s.cur.1).plane ∧ (t.cluster s.cur.1).tiles = (s.cluster s.cur.1).tiles ∧
        ∀ cl row, (cl, row) ≠ s.cur → t.waveAt? cl row = s.waveAt? cl row) ∧ t.w.lflags = s.w.lflags ∧ t.issued = true ∧ t.w.pc = next.getD s.w.pc ∧ t.w.lastIssue = s.now ∧
      t.w.issuedOnce = true ∧ t.w.starve = 0 ∧ t.w.lastS = h.s.toNat ∧
      (h.y = true → t.w.age = (s.cluster s.cur.1).ageCtr) ∧ (h.y = false → t.w.age = s.w.age))

/-- The frame of the scalar instructions: of the wave's registers only the destination changes, no flag, no special
register, no byte of memory. A queue register that is popped or pushed changes the workgroup's queue.

The frame of the vector integer and floating-point instructions: with a destination in the register file only the
active lanes of the destination change, and for floating point the lane flags; memory stays. A destination in the
backing store changes no register of the file. -/
def Obligations.RegisterFrames : Prop :=
  (∀ (i : Instr) (r : ScalarRule) (s s1 t : State) (xs : List DWord),
      scalarRule i = some r → s.curWave?.isSome → readSources s r.srcs = .ok (xs, s1) →
      writeS s1 r.d (r.result xs) = .ok t → t.covers {} r.h →
      ∃ u, exec i s = .next u ∧ s.frame u (scalarRegs r.d) [] [] false ∧ u.w.pc = (s.w.pc + r.len) % 2 ^ 64) ∧
  ((∀ (i : Instr) (r : VectorRule) (s t : State) (m : Mask) (xs : List (Nat → Nat)),
      vectorRule i = some r → s.curWave?.isSome → readK s r.k = .ok m → readVecs s m r.srcs = .ok xs →
      writeVW s r.wide r.d.toNat (atActive m xs r.lane) = .ok t → t.covers { floor := r.floor } r.h →
      ∃ u, exec i s = .next u ∧ u.w.pc = (s.w.pc + r.len) % 2 ^ 64 ∧ u.mem = t.mem ∧
        (r.d.toNat + 1 < s.w.bound → s.frame u [] [] (vregs r.wide r.d) false ∧
          ∀ l, l < 128 → m.getLsbD l = false → u.w.lane r.d.toNat l = s.w.lane r.d.toNat l) ∧
        (s.w.bound ≤ r.d.toNat → u.w.v = s.w.v ∧ u.w.s = s.w.s ∧ u.w.k = s.w.k ∧ u.w.lflags = s.w.lflags)) ∧
    (∀ (i : Instr) (r : FloatRule) (s t : State) (m : Mask) (xs : List (Nat → Word)),
      floatRule i = some r → s.curWave?.isSome → readK s r.k = .ok m → readFloats s m r.srcs = .ok xs →
      writeV s r.d.toNat (atActive m xs (fun l => (r.lane l).1)) = .ok t → t.covers { floor := r.floor } r.h →
      r.d.toNat < s.w.bound →
      ∃ u, exec i s = .next u ∧ u.w.pc = (s.w.pc + r.len) % 2 ^ 64 ∧ s.frame u [] [] [r.d.toNat] true ∧
        ∀ l, l < 128 → m.getLsbD l = false →
          u.w.lane r.d.toNat l = s.w.lane r.d.toNat l ∧ mgetD u.w.lflags l 0 = mgetD s.w.lflags l 0))

/-- 14 R245, R246: each mask instruction's result; and it completes there.

12 R205: k0 reads as all ones and is never written; another mask reads what was written to it, and a write leaves the
other masks alone. -/
def Obligations.MaskInstructions : Prop :=
  (∀ (h : Hints) (s t : State),
      (∀ d a b x y, readK s a = .ok x → readK s b = .ok y →
        (writeK s d (x &&& y) = .ok t → Completes (.kand h d a b) h 0 8 s t) ∧
        (writeK s d (x ||| y) = .ok t → Completes (.kor h d a b) h 0 8 s t) ∧
        (writeK s d (x ^^^ y) = .ok t → Completes (.kxor h d a b) h 0 8 s t) ∧
        (writeK s d (x &&& ~~~y) = .ok t → Completes (.kandn h d a b) h 0 8 s t)) ∧
      (∀ d a x, readK s a = .ok x →
        (writeK s d (~~~x) = .ok t → Completes (.knot h d a) h 0 8 s t) ∧
        (writeK s d x = .ok t → Completes (.kmov h d a) h 0 8 s t)) ∧
      (∀ d a x, readK s a = .ok x →
        (writeS s d (BitVec.ofNat 64 ((List.range 128).countP (fun i => x.getLsbD i))) = .ok t →
          Completes (.kpopc h d a) h 0 8 s t) ∧
        (∀ n, (x = 0 → n = 128) → (x ≠ 0 → x.getLsbD n = true ∧ ∀ i, i < n → x.getLsbD i = false) →
          writeS s d (BitVec.ofNat 64 n) = .ok t → Completes (.kfirst h d a) h 0 8 s t) ∧
        (writeS s d (x.extractLsb' 0 64) = .ok t → Completes (.ktos h d a false) h 0 8 s t) ∧
        (writeS s d (x.extractLsb' 64 64) = .ok t → Completes (.ktos h d a true) h 0 8 s t)) ∧
      (∀ d a x, readK s a = .ok x →
        writeV s d.toNat (fun i => some (BitVec.ofNat 32 ((List.range i).countP (fun j => x.getLsbD j)))) = .ok t →
        Completes (.krank h d a) h 0 8 s t) ∧
      (∀ d a x m s1, readS s a = .ok (x, s1) → readK s1 d = .ok m →
        (writeK s1 d (m.extractLsb' 64 64 ++ x) = .ok t → Completes (.kfroms h d a false) h 0 8 s t) ∧
        (writeK s1 d (x ++ m.extractLsb' 0 64) = .ok t → Completes (.kfroms h d a true) h 0 8 s t)) ∧
      (∀ n p d a x m s1, readS s a = .ok (x, s1) →
        (∀ i : Nat, i < 128 → m.getLsbD i = intPred p (i : Int) (operand n x)) →
        writeK s1 d m = .ok t → Completes (.kcmps h n p d a) h 0 8 s t)) ∧
  ((∀ (w : Wave), w.mask 0 = BitVec.allOnes 128) ∧
    (∀ (s : State) (m : Mask), s.setK 0 m = s) ∧
    (∀ (s : State) (k : KReg) (m : Mask), k ≠ 0 → s.curWave?.isSome →
      (s.setK k m).w.mask k = m) ∧
    (∀ (s : State) (k j : KReg) (m : Mask), j ≠ k → s.curWave?.isSome →
      (s.setK k m).w.mask j = s.w.mask j))

/-- 15 R247, R248, R251, R252: each vector integer instruction writes its result to the active lanes of its destination,
the inactive lanes keeping their contents; and it completes there.

15 R251 for VMOVS: the scalar, read once, in every active lane. -/
def Obligations.VectorResults : Prop :=
  (∀ (i : Instr) (r : VectorRule) (s t : State) (m : Mask) (xs : List (Nat → Nat)),
      vectorRule i = some r → readK s r.k = .ok m → readVecs s m r.srcs = .ok xs →
      writeVW s r.wide r.d.toNat (atActive m xs r.lane) = .ok t →
      Completes i r.h r.floor r.len s t) ∧
  (∀ (h : Hints) (k : KReg) (wide : Bool) (d : VReg) (a : SReg) (s s1 t : State) (m : Mask) (x : DWord),
      readK s k = .ok m → readS s a = .ok (x, s1) →
      writeVW s1 wide d.toNat (fun l => if m.getLsbD l then some x.toNat else none) = .ok t →
      Completes (.vmovs h k wide d a) h 1 8 s t)

/-- 15 R253: VADDC adds with the carry of kC and leaves the carry out there; the bits of inactive lanes keep their values.

15 R254: VCMP and VSEL. -/
def Obligations.CarriesAndSelects : Prop :=
  (∀ (h : Hints) (k : KReg) (ty : VType) (d a b : VReg) (c : KReg) (s s1 t : State) (m x kc : Mask) (xa xb : Nat → Nat),
      readK s k = .ok m → readVW s ty.is64 a.toNat m.getLsbD = .ok xa → readVW s ty.is64 b.toNat m.getLsbD = .ok xb → readK s c = .ok kc →
      writeVW s ty.is64 d.toNat
        (fun l => if m.getLsbD l then some ((xa l + xb l + (kc.getLsbD l).toNat) % 2 ^ widthOf ty.is64) else none) = .ok s1 →
      (∀ l, l < 128 → m.getLsbD l = false → x.getLsbD l = kc.getLsbD l) →
      (∀ l, l < 128 → m.getLsbD l = true →
        x.getLsbD l =
          (if ty.signed then
            decide (laneVal ty (xa l) + laneVal ty (xb l) + (kc.getLsbD l).toNat < leastOf ty ∨
              greatestOf ty < laneVal ty (xa l) + laneVal ty (xb l) + (kc.getLsbD l).toNat)
          else decide (2 ^ widthOf ty.is64 ≤ xa l + xb l + (kc.getLsbD l).toNat))) →
      writeK s1 c x = .ok t →
      Completes (.vaddc h k ty d a b c) h 1 8 s t) ∧
  (∀ (h : Hints) (k : KReg) (s t : State) (m : Mask), readK s k = .ok m →
      (∀ ty p d a b xa xb x, readVW s ty.is64 a.toNat m.getLsbD = .ok xa → readVW s ty.is64 b.toNat m.getLsbD = .ok xb →
        (∀ l, l < 128 → x.getLsbD l = (m.getLsbD l && intPred p (laneVal ty (xa l)) (laneVal ty (xb l)))) →
        writeK s d x = .ok t → Completes (.vcmp h k ty p d a b) h 1 8 s t) ∧
      (∀ ty p d a imm xa x, readVW s ty.is64 a.toNat m.getLsbD = .ok xa →
        (∀ l, l < 128 → x.getLsbD l = (m.getLsbD l &&
          intPred p (laneVal ty (xa l)) (laneVal ty (if ty.is64 then (imm.signExtend 64).toNat else imm.toNat)))) →
        writeK s d x = .ok t → Completes (.vcmp96 h k ty p d a imm) h 1 12 s t) ∧
      (∀ wide d a b c xa xb kc, readVW s wide a.toNat m.getLsbD = .ok xa → readVW s wide b.toNat m.getLsbD = .ok xb → readK s c = .ok kc →
        writeVW s wide d.toNat
          (fun l => if m.getLsbD l then some (if kc.getLsbD l then xa l else xb l) else none) = .ok t →
        Completes (.vsel h k wide d a b c) h 1 8 s t))

/-- 15 R247, R256: each vector floating-point instruction but FCMP writes the active lanes and raises the flags of those lanes
only; and it completes there. -/
def Obligations.FloatResults : Prop :=
  ∀ (i : Instr) (r : FloatRule) (s s1 : State) (m : Mask) (xs : List (Nat → Word)),
    floatRule i = some r → readK s r.k = .ok m → readFloats s m r.srcs = .ok xs →
    writeV s r.d.toNat (atActive m xs (fun l => (r.lane l).1)) = .ok s1 →
    Completes i r.h r.floor r.len s
      (s1.raiseLanes (fun l => ((atActive m xs r.lane l).map Prod.snd).getD 0))

/-- 15 R259: FCMP writes its mask as VCMP does and raises NV in active lanes; the predicates, .lt in the order of the values,
and the NaNs on which each raises NV.

15 R258: FMIN and FMAX with NaNs and signed zeros. -/
def Obligations.FloatCompareMinMax : Prop :=
  ((∀ (h : Hints) (k : KReg) (p : FloatPred) (d : KReg) (a : VReg) (s s1 : State) (m x : Mask) (xa : Nat → Word),
      readK s k = .ok m → readV s a.toNat m.getLsbD = .ok xa →
      (∀ b xb, readV s b.toNat m.getLsbD = .ok xb →
        (∀ l, l < 128 → x.getLsbD l = (m.getLsbD l && (f32cmp p (xa l) (xb l)).1)) → writeK s d x = .ok s1 →
        Completes (.fcmp h k p d a b) h 3 8 s
          (s1.raiseLanes (fun l => if m.getLsbD l then (f32cmp p (xa l) (xb l)).2 else 0))) ∧
      (∀ imm, (∀ l, l < 128 → x.getLsbD l = (m.getLsbD l && (f32cmp p (xa l) imm).1)) → writeK s d x = .ok s1 →
        Completes (.fcmp96 h k p d a imm) h 3 12 s
          (s1.raiseLanes (fun l => if m.getLsbD l then (f32cmp p (xa l) imm).2 else 0)))) ∧
    (∀ (x y : Word),
      let un := (f32val x).isNaN || (f32val y).isNaN
      let sn := (f32val x).isSNaN || (f32val y).isSNaN
      (∀ p, ((f32cmp p x y).2 = flNV ↔
          ((p = .lt ∨ p = .le ∨ p = .gt ∨ p = .ge) ∧ un) ∨ ((p = .eq ∨ p = .ne ∨ p = .uo ∨ p = .ord) ∧ sn)) ∧
        ((f32cmp p x y).2 = flNV ∨ (f32cmp p x y).2 = 0)) ∧
      (un → (f32cmp .eq x y).1 = false ∧ (f32cmp .ne x y).1 = true ∧ (f32cmp .lt x y).1 = false ∧
        (f32cmp .le x y).1 = false ∧ (f32cmp .gt x y).1 = false ∧ (f32cmp .ge x y).1 = false ∧
        (f32cmp .uo x y).1 = true ∧ (f32cmp .ord x y).1 = false) ∧
      (¬ un → (f32cmp .ne x y).1 = !(f32cmp .eq x y).1 ∧ (f32cmp .le x y).1 = !(f32cmp .gt x y).1 ∧
        (f32cmp .ge x y).1 = !(f32cmp .lt x y).1 ∧ (f32cmp .uo x y).1 = false ∧ (f32cmp .ord x y).1 = true ∧
        (f32cmp .gt x y).1 = (f32cmp .lt y x).1 ∧
        (((f32cmp .eq x y).1 = true ∧ (f32cmp .lt x y).1 = false ∧ (f32cmp .gt x y).1 = false) ∨
          ((f32cmp .eq x y).1 = false ∧ (f32cmp .lt x y).1 = !(f32cmp .gt x y).1))) ∧
      (x = 0 → y = 0x80000000 → (f32cmp .eq x y).1 = true) ∧
      -- the order of finite values, and the infinities at its ends
      (∀ n m e n' m' e', f32val x = .fin n m e → f32val y = .fin n' m' e' →
        let lo := min e e'
        ((f32cmp .lt x y).1 = true ↔
          (if n then -(m : Int) else m) * 2 ^ (e - lo).toNat < (if n' then -(m' : Int) else m') * 2 ^ (e' - lo).toNat)) ∧
      (¬ un → f32val x = .inf true → ((f32cmp .lt x y).1 = true ↔ f32val y ≠ .inf true)) ∧
      (¬ un → f32val y = .inf false → ((f32cmp .lt x y).1 = true ↔ f32val x ≠ .inf false)))) ∧
  ((∀ (h : Hints) (mx : Bool) (k : KReg) (d a : VReg) (b : Second VReg) (s s1 : State) (m : Mask) (xa xb : Nat → Word),
      readK s k = .ok m → readV s a.toNat m.getLsbD = .ok xa →
      (match b with
        | .reg r => readV s r.toNat m.getLsbD = .ok xb
        | .imm x => xb = fun _ => x) →
      let lane (l : Nat) : Word × FFlags := f32minmax mx (xa l) (xb l)
      writeV s d.toNat (fun l => if m.getLsbD l then some (lane l).1 else none) = .ok s1 →
      Completes (if mx then formOf (.fmax h k d a) (.fmax96 h k d a) b else formOf (.fmin h k d a) (.fmin96 h k d a) b) h 3
        (lengthOf b) s (s1.raiseLanes (fun l => if m.getLsbD l then (lane l).2 else 0))) ∧
    (∀ (mx : Bool) (x y : Word),
      let r := f32minmax mx x y
      ((f32val x).isNaN = true → (f32val y).isNaN = false → r.1 = y) ∧
      ((f32val x).isNaN = false → (f32val y).isNaN = true → r.1 = x) ∧
      ((f32val x).isNaN = true → (f32val y).isNaN = true → r.1 = nanF32) ∧
      (r.2 = if (f32val x).isSNaN || (f32val y).isSNaN then flNV else 0) ∧
      ((f32val x).isNaN = false → (f32val y).isNaN = false →
        (r.1 = x ∨ r.1 = y) ∧
        (fvalLt (f32val x) (f32val y) = true → r.1 = if mx then y else x) ∧
        (fvalLt (f32val y) (f32val x) = true → r.1 = if mx then x else y)) ∧
      ((x = 0 ∧ y = 0x80000000) ∨ (x = 0x80000000 ∧ y = 0) → r.1 = if mx then 0 else 0x80000000)))

/-- 15 R257, 09 R147: the decisions on invalid operations, division by zero, square roots and the sign of a zero sum; and
every NaN that FADD to FSQRT give is the canonical one.

09 R147, 15 R249: every NaN that FADD, FSUB, FMUL, FFMA, FDIV and FSQRT give is the canonical one. -/
def Obligations.FloatDecisions : Prop :=
  ((∀ (rm : Rnd) (x y z : Word), ((f32val x = .inf false ∨ f32val x = .inf true) ∧ (f32val y).isZero = true ∨
        (f32val x).isZero = true ∧ (f32val y = .inf false ∨ f32val y = .inf true)) →
      (f32fma rm x y z).1 = nanF32 ∧ (f32fma rm x y z).2.getLsbD 4 = true) ∧
    (∀ (rm : Rnd) (n : Bool) (m : Nat) (e : Int) (x y : Word), f32val x = .fin n m e → m ≠ 0 →
      (f32val y).isZero = true →
      f32div rm x y = (if n != (f32val y).neg? then 0xFF800000 else 0x7F800000, flDZ)) ∧
    (∀ (rm : Rnd) (x y : Word), ((f32val x).isZero = true ∧ (f32val y).isZero = true) ∨
        ((f32val x = .inf false ∨ f32val x = .inf true) ∧ (f32val y = .inf false ∨ f32val y = .inf true)) →
      f32div rm x y = (nanF32, flNV)) ∧
    (∀ (rm : Rnd), f32sqrt rm 0x80000000 = (0x80000000, 0)) ∧
    (∀ (rm : Rnd) (x : Word), (f32val x).isNaN = false → (f32val x).isZero = false → (f32val x).neg? = true →
      f32sqrt rm x = (nanF32, flNV)) ∧
    (∀ (rm : Rnd) (x y : Word), (f32val x).isNaN = false → f32val x ≠ .inf false → f32val x ≠ .inf true →
      f32val y = (f32val x).negate → f32add rm x y = (if rm = .rd then 0x80000000 else 0, 0))) ∧
  (∀ (rm : Rnd) (x y z : Word),
      ((f32val (f32add rm x y).1).isNaN = true → (f32add rm x y).1 = nanF32) ∧
      ((f32val (f32sub rm x y).1).isNaN = true → (f32sub rm x y).1 = nanF32) ∧
      ((f32val (f32mul rm x y).1).isNaN = true → (f32mul rm x y).1 = nanF32) ∧
      ((f32val (f32fma rm x y z).1).isNaN = true → (f32fma rm x y z).1 = nanF32) ∧
      ((f32val (f32div rm x y).1).isNaN = true → (f32div rm x y).1 = nanF32) ∧
      ((f32val (f32sqrt rm x).1).isNaN = true → (f32sqrt rm x).1 = nanF32))

/-- 15 R264, R266: VSHUF, VROT and VBCAST; a source lane from G up reads as zero, active or not.

15 R268: VCOMP packs the active lanes; the lanes behind them keep their contents. -/
def Obligations.ShufflesAndCompaction : Prop :=
  (∀ (h : Hints) (k : KReg) (wide : Bool) (d a : VReg) (s t : State) (m : Mask) (xa : Nat → Nat),
      let src (j : Nat) : Nat := if j < 128 then xa j else 0
      -- the lanes that active lanes name are read, and no others
      let reads (s : State) (f : Nat → Nat) : Prop :=
        ∃ x, readVW s wide a.toNat (((List.range 128).filter (fun i => m.getLsbD i)).map f).contains = .ok x ∧
          ∀ i, i < 128 → m.getLsbD i = true → f i < 128 → x (f i) = xa (f i)
      readK s k = .ok m →
      (∀ (b : VReg) (xb : Nat → Nat), readVW s false b.toNat m.getLsbD = .ok xb →
        (reads s xb → writeVW s wide d.toNat (fun i => if m.getLsbD i then some (src (xb i)) else none) = .ok t →
          Completes (.vshuf h k wide .lidx d a b) h 2 8 s t) ∧
        (reads s (fun i => (i + xb i) % 128) →
          writeVW s wide d.toNat (fun i => if m.getLsbD i then some (src ((i + xb i) % 128)) else none) = .ok t →
          Completes (.vshuf h k wide .lrot d a b) h 2 8 s t) ∧
        (reads s (fun i => (i ^^^ xb i) % 128) →
          writeVW s wide d.toNat (fun i => if m.getLsbD i then some (src ((i ^^^ xb i) % 128)) else none) = .ok t →
          Completes (.vshuf h k wide .lxor d a b) h 2 8 s t)) ∧
      (∀ (b : SReg) (n : DWord) (s1 : State), readS s b = .ok (n, s1) →
        (reads s1 (fun i => (i + n.toNat) % 128) →
          writeVW s1 wide d.toNat (fun i => if m.getLsbD i then some (src ((i + n.toNat) % 128)) else none) = .ok t →
          Completes (.vrot h k wide d a b) h 2 8 s t) ∧
        ((∃ x, readVW s1 wide a.toNat (fun l => l == n.toNat && m != 0) = .ok x ∧
            (n.toNat < 128 → m ≠ 0 → x n.toNat = xa n.toNat)) →
          writeVW s1 wide d.toNat (fun i => if m.getLsbD i then some (src n.toNat) else none) = .ok t →
          Completes (.vbcast h k wide d a b) h 2 8 s t))) ∧
  (∀ (h : Hints) (k : KReg) (wide : Bool) (d a : VReg) (s t : State) (m : Mask) (x : Nat → Nat),
      readK s k = .ok m → readVW s wide a.toNat m.getLsbD = .ok x →
      writeVW s wide d.toNat (fun n => (lanesBelow (fun i => m.getLsbD i) x 128)[n]?) = .ok t →
      Completes (.vcomp h k wide d a) h 2 8 s t)

/-- 15 R267: VSCAN, VRED and VSEGRED fold the active lanes in ascending order.

15 R269, R270: REORDER sorts the active lanes of the waves its list names stably by the low 16 bits of their keys and moves the
listed registers, or pairs, with them; of one wave alone, and of several, which complete together. -/
def Obligations.ReductionsAndReorder : Prop :=
  (∀ (h : Hints) (k : KReg) (ty : RedType) (op : RedOp) (rm : Rnd) (a : VReg) (s t : State) (m : Mask) (x : Nat → Nat),
      readK s k = .ok m → readVW s ty.is64 a.toNat m.getLsbD = .ok x →
      let act (i : Nat) : Bool := m.getLsbD i
      let upTo (i : Nat) : List Nat := lanesBelow act x (i + 1)
      let flags (i : Nat) : FFlags := if act i then stepFlags ty op rm (lanesBelow act x i) (x i) else 0
      (∀ d, writeVW s ty.is64 d.toNat (fun i => if act i then accOf ty op rm (upTo i) else none) = .ok t →
        Completes (.vscan h k ty op rm d a) h 2 8 s (t.raiseLanes flags)) ∧
      (∀ d, writeS s d (extendAcc ty ((accOf ty op rm (upTo 127)).getD (identityOf ty op))) = .ok t →
        Completes (.vred h k ty op rm d a) h 2 8 s (t.raiseLanes flags)) ∧
      (∀ d b mb, readK s b = .ok mb →
        let seg (i : Nat) (j : Nat) : Bool := act j && headOf mb j == headOf mb i
        let segFlags (i : Nat) : FFlags := if act i then stepFlags ty op rm (lanesBelow (seg i) x i) (x i) else 0
        writeVW s ty.is64 d.toNat (fun i => if act i then accOf ty op rm (lanesBelow (seg i) x 128) else none) = .ok t →
        Completes (.vsegred h k ty op rm d a b) h 2 8 s (t.raiseLanes segFlags))) ∧
  (∀ (h : Hints) (k : KReg) (wide : Bool) (a : VReg) (b : SReg) (regs : List VReg) (s s1 t : State) (m : Mask)
      (key : Nat → Nat) (x : VReg → Nat → Nat) (list : DWord) (order : List Nat),
      readK s k = .ok m → readVW s false a.toNat m.getLsbD = .ok key →
      (∀ r, r ∈ regs → readVW s wide r.toNat m.getLsbD = .ok (x r)) →
      readS s b = .ok (list, s1) → s1.owed = s.owed →
      -- no other wave of the workgroup waits at the crossbar
      (∀ e, e ∈ (s.cluster s.cur.1).waves → e.1 ≠ s.cur.2 → e.2.wgslot = s.w.wgslot → e.2.arrived = none) → list.toNat % 2 ^ 16 = 2 ^ s.w.wnum → s.w.wnum < 16 → s.wg.rows[s.w.wnum]? = some s.cur.2 →
      s.wg.exited.contains s.w.wnum = false → a.toNat < s.w.bound →
      (∀ r, r ∈ regs → r.toNat + (if wide then 1 else 0) < s.w.bound) →
      -- order lists the active lanes by ascending key, equal keys in lane order
      order.Perm ((List.range 128).filter (fun i => m.getLsbD i)) →
      order.Pairwise (fun i j => key i % 65536 < key j % 65536 ∨ (key i % 65536 = key j % 65536 ∧ i < j)) →
      regs.foldlM (fun (u : State) r => writeVW u wide r.toNat (fun l =>
        if m.getLsbD l then (order[((List.range l).countP (fun i => m.getLsbD i))]?).map (x r) else none)) s1 = .ok t →
      s.curWave?.isSome → t.covers { floor := 4 } h →
      exec (.reorder h k wide a b regs) s = .next (s.goesOn t 4 h 16)) ∧
  (∀ (h : Hints) (k : KReg) (wide : Bool) (a : VReg) (b : SReg) (regs : List VReg) (s s1 t0 t : State) (list : DWord)
      (lists : SMap Nat) (hintsOf : Nat → Hints) (maskOf : Nat → KReg) (listOf : Nat → SReg) (act : Nat → Nat → Bool)
      (key : Nat → Nat → Word) (x : Nat → VReg → Nat → Nat) (order : List (Nat × Nat)),
      let named := (List.range 16).filter (fun n => list.getLsbD n)
      let rows := named.filterMap (fun n => s.wg.rows[n]?)
      let others := (named.filter (fun n => n ≠ s.w.wnum)).filterMap (fun n => s.wg.rows[n]?)
      let pos := rows.flatMap (fun row => ((List.range 128).filter (act row)).map (fun l => (row, l)))
      let keyAt (p : Nat × Nat) : Nat := (key p.1 p.2).toNat % 65536
      readS s b = .ok (list, s1) → s.wg.rows[s.w.wnum]? = some s.cur.2 → s.w.wnum ∈ named →
      (∀ n, n ∈ named → n < s.wg.rows.length ∧ n ∉ s.wg.exited) → s.wg.rows.Nodup →
      -- every other wave named has arrived, with a REORDER of the same shape and list and of the same stage
      crossLists s [(s.cur.2, b)] s.cur.1 s.w.wgslot = .ok lists →
      (∀ row, row ∈ others → mget lists row = some (list.toNat % 65536) ∧ ∃ w, s.waveAt? s.cur.1 row = some w ∧
        w.stage = s.w.stage ∧ w.arrived = some (.reorder (hintsOf row) (maskOf row) wide a (listOf row) regs)) →
      otherCrossing s1 (list.toNat % 65536) lists = [] → maskOf s.cur.2 = k →
      holdsOf (crossValues s k a.toNat wide regs) = .ok () →
      (∀ row, row ∈ rows →
        crossValues (s1.asRow row) (maskOf row) a.toNat wide regs = .ok (act row, key row, regs.map (x row))) →
      -- order lists the positions by ascending key, equal keys as the positions stand
      order.Perm pos →
      order.Pairwise (fun p q => keyAt p < keyAt q ∨ (keyAt p = keyAt q ∧ pos.idxOf p < pos.idxOf q)) →
      rows.foldlM (fun (u : State) row => regs.foldlM (fun (u : State) r => writeAs u row (fun v => writeVW v wide r.toNat
        (fun l => if act row l then (order[pos.idxOf (row, l)]?).map (fun p => x p.1 r p.2) else none))) u) s1 = .ok t0 →
      others.foldlM (fun (u : State) row => do
        let v ← writeAs u row (fun v => (readS v (listOf row)).map Prod.snd)
        pure (v.completeAs row (hintsOf row) 16)) t0 = .ok t →
      let extra := (others.map (fun row => ({ floor := 4 } : Cost).unit (hintsOf row))).sum
      s.curWave?.isSome → t.covers { floor := 4, extra := extra } h →
      exec (.reorder h k wide a b regs) s =
        .next (t.completed { floor := 4, extra := extra } h s.w.phase (some ((s.w.pc + 16) % 2 ^ 64))))

/-- 14 R231, R239: NOP and ENTRY take an issue cycle and change no state of the wave; FILL moves past its parcel and takes no
issue cycle; PHASE sets %phase. -/
def Obligations.PaddingAndPhase : Prop :=
  ∀ (h : Hints) (ph : BitVec 4) (s : State),
    Completes (.nop h) h 0 8 s s ∧ Completes (.entry h) h 0 8 s s ∧
    Completes (.phase h ph) h 0 8 s (s.updW (fun w => { w with phase := ph })) ∧
    (s.curWave?.isSome → ∃ t, exec .fill s = .next t ∧ t.w.pc = (s.w.pc + 4) % 2 ^ 64 ∧ t.w.lastIssue = s.w.lastIssue ∧
      s.frame t [] [] [] false)

/-- 14 R229, R232: BR, BRS, BRV and BRU go to their target when their condition holds, else to the next instruction.

14 R233: LOOP decrements modulo 2^64 and branches while the counter is not zero; a counter of 0 becomes 2^64 − 1 and
the branch is taken. -/
def Obligations.BranchesAndLoops : Prop :=
  (∀ (h : Hints) (off : Word) (s : State),
      let goes (t : State) (taken : Bool) : State :=
        t.withPc (if taken then s.targetOf off else (s.w.pc + 12) % 2 ^ 64)
      JumpCompletes (.br h off) h s (goes s true) ∧
      (∀ a x t, readS s a = .ok (x, t) →
        JumpCompletes (.brs h .z a off) h s (goes t (decide (x = 0))) ∧
        JumpCompletes (.brs h .nz a off) h s (goes t (decide (x ≠ 0))) ∧
        JumpCompletes (.brs h .neg a off) h s (goes t (x.getLsbD 63)) ∧
        JumpCompletes (.brs h .nneg a off) h s (goes t (!x.getLsbD 63))) ∧
      (∀ km m, readK s km = .ok m →
        JumpCompletes (.brv h .any km off) h s (goes s (decide (m ≠ 0))) ∧
        JumpCompletes (.brv h .all km off) h s (goes s (decide (m = BitVec.allOnes 128))) ∧
        JumpCompletes (.brv h .noneSet km off) h s (goes s (decide (m = 0))) ∧
        (m = BitVec.allOnes 128 → JumpCompletes (.bru h km off) h s (goes s true)) ∧
        (m = 0 → JumpCompletes (.bru h km off) h s (goes s false)) ∧
        (m ≠ BitVec.allOnes 128 → m ≠ 0 → s.curWave?.isSome →
          exec (.bru h km off) s = .next (s.trapped s.w h.s.toNat (s.plainRec 0x11))))) ∧
  (∀ (h : Hints) (d : BitVec 7) (off : Word) (s : State), s.owed.contains (.s d.toNat) = false →
      let x := mgetD s.w.s d.toNat 0
      (x = 0 → JumpCompletes (.loop h d off) h s
        ((s.setS d.toNat 0xFFFFFFFFFFFFFFFF).withPc (s.targetOf off))) ∧
      (x = 1 → JumpCompletes (.loop h d off) h s ((s.setS d.toNat 0).withPc ((s.w.pc + 12) % 2 ^ 64))) ∧
      (2 ≤ x.toNat → JumpCompletes (.loop h d off) h s
        ((s.setS d.toNat (BitVec.ofNat 64 (x.toNat - 1))).withPc (s.targetOf off))))

/-- 14 R234, R236: CALL, CALLT, JMPT and RET with the link register s127 and the ENTRY check of their target. -/
def Obligations.CallsAndReturns : Prop :=
  ∀ (h : Hints) (s : State),
    (s.owed.contains (.s 127) = false → JumpCompletes (.ret h) h s (s.withPc ((mgetD s.w.s 127 0).toNat / 4 * 4))) ∧
    (∀ off s1, s.owed.contains (.s 127) = false → s.checkEntry s.cur.1 s.cur.2 entryFuel (s.targetOf off) = .ok s1 →
      JumpCompletes (.call h off) h s ((s1.withPc (s.targetOf off)).setS 127 (BitVec.ofNat 64 (s.w.pc + 12)))) ∧
    (∀ off, s.owed.contains (.s 127) = false → s.checkEntry s.cur.1 s.cur.2 entryFuel (s.targetOf off) = .noEntry →
      s.curWave?.isSome →
      exec (.call h off) s = .next
        ((((s.withPc (s.targetOf off)).setS 127 (BitVec.ofNat 64 (s.w.pc + 12))).updW
          (fun w => { w with needEntry := true })).trapped s.w h.s.toNat
            { cause := 0x12, iaddr := s.w.pc, resume := s.targetOf off })) ∧
    (∀ o sc a x s1 e s1' s2, s.owed.contains (.s 127) = false → readS s a = .ok (x, s1) →
      -- the entry is read; where it is acquired, once at its address and after the wave's device-scope point
      ((o = .acq ∧ sc ≠ .wave ∧ waitPoint s1 .dev = .ok () ∧ s1.w.entry = some (x.toNat, e) ∧ s1' = s1) ∨
        (o = .acq ∧ sc ≠ .wave ∧ waitPoint s1 .dev = .ok () ∧ (∀ va e0, s1.w.entry = some (va, e0) → va ≠ x.toNat) ∧
          ∃ t, entryRead s1 x.toNat = .ok (e, t) ∧ s1' = t.dropFetched.noteAcquire) ∨
        ((o ≠ .acq ∨ sc = .wave) ∧ entryRead s1 x.toNat = .ok (e, s1'))) →
      s1'.checkEntry s1'.cur.1 s1'.cur.2 entryFuel (e / 4 * 4) = .ok s2 →
      JumpCompletes (.callt h o sc a) h s ((s2.withPc (e / 4 * 4)).setS 127 (BitVec.ofNat 64 (s.w.pc + 8))) ∧
      JumpCompletes (.jmpt h o sc a) h s (s2.withPc (e / 4 * 4))) ∧
    (∀ o sc a x s1, readS s a = .ok (x, s1) → (o = .acq → sc ≠ .wave → waitPoint s1 .dev = .ok ()) →
      (∀ va e0, s1.w.entry = some (va, e0) → va ≠ x.toNat) → canonical x.toNat = true → x.toNat % 8 ≠ 0 → s.curWave?.isSome →
      exec (.jmpt h o sc a) s = .next (s.trapped s.w h.s.toNat (s.memRec causeMisaligned .read x.toNat 0)) ∧
      (s.owed.contains (.s 127) = false →
        exec (.callt h o sc a) s = .next (s.trapped s.w h.s.toNat (s.memRec causeMisaligned .read x.toNat 0))))

/-- 14 R237: EXIT ends the wave, its row draining and its number among the workgroup's exited; a wave that holds a record
traps with ASYNC at the EXIT instead.

14 R238, 11 R192: TRAP raises USER with its code and resumes at the next instruction. TRAPF raises ARITH where a lane
holds an enabled flag, else PLANE_ARITH where a cell of the plane it holds does, else nothing; each once the plane
instructions before it have raised their flags. -/
def Obligations.ExitAndSoftwareTraps : Prop :=
  (∀ (h : Hints) (s : State),
      (s.w.held = [] →
        JumpCompletes (.exit h) h s
          (((s.updW (fun w => { w with draining := true })).updWg s.cur.1 s.w.wgslot
            (fun g => { g with exited := without s.w.wnum g.exited ++ [s.w.wnum] })).failWaiters s.cur.1 s.w.wgslot s.w.wnum)) ∧
      (∀ r rest, s.w.held = r :: rest → s.curWave?.isSome →
        exec (.exit h) s = .next (s.trapped s.w h.s.toNat
          { s.plainRec 0x18 with seq := r.seq, job := r.bytes false }))) ∧
  (∀ (h : Hints) (s : State),
      let lanes := enabledFlags s.w.lflags s.w.fflagsEn
      let laneTrap : TrapRec := { s.plainRec 0x16 with lanes := keyMap 128 lanes, flags := orAll lanes }
      (∀ code, s.curWave?.isSome →
        exec (.trap h code) s = .next (s.trapped s.w h.s.toNat
          { cause := 0x15, iaddr := s.w.pc, resume := s.w.pc + 12, info := code.toNat })) ∧
      ((∀ e, e ∈ s.w.lflags → e.2 &&& s.w.fflagsEn = 0) →
        (∀ p, s.myPlane = some p → ∀ e, e ∈ p.flags → e.2 &&& p.en = 0) → flagsRaised s = .ok () → Completes (.trapf h) h 0 8 s s) ∧
      ((∃ e, e ∈ s.w.lflags ∧ e.2 &&& s.w.fflagsEn ≠ 0) → flagsRaised s = .ok () → s.curWave?.isSome →
        exec (.trapf h) s = .next (s.trapped s.w h.s.toNat laneTrap)) ∧
      (∀ p, (∀ e, e ∈ s.w.lflags → e.2 &&& s.w.fflagsEn = 0) → s.myPlane = some p →
        (∃ e, e ∈ p.flags ∧ e.2 &&& p.en ≠ 0) → flagsRaised s = .ok () → s.curWave?.isSome →
        exec (.trapf h) s = .next (s.trapped s.w h.s.toNat
          { s.plainRec 0x17 with cells := keyMap 4096 (enabledFlags p.flags p.en), flags := orAll (enabledFlags p.flags p.en) })))

/-- 11 R187, R188: delivery of a trap outside a handler, its area writable: the record goes to the wave's trap area,
%tepc, %tstat and the pc are set, INTRAP is raised, and no register, mask or flag changes.

11 R188: TRET clears INTRAP and goes to %tepc; outside a handler it is ILLEGAL, with its first parcel in INFO. -/
def Obligations.TrapDeliveryAndReturn : Prop :=
  (∀ (s s1 : State) (cl row : Nat) (w : Wave) (r : TrapRec),
      s.waveAt? cl row = some w → w.intrap = false → w.tvec.getLsbD 0 = true → r.cause ≠ 0x18 →
      r.areaParts.foldlM (fun s x => s.hwWrite cl w.ctx (s.trapArea cl w + x.1) x.2) s = .ok s1 →
      ∃ w', (s.deliver cl row r).waveAt? cl row = some w' ∧
        (s.deliver cl row r).mem = s1.mem ∧
        w'.tepc = BitVec.ofNat 64 (r.resume / 4 * 4) ∧ w'.cause = BitVec.ofNat 8 r.cause ∧ w'.intrap = true ∧
        w'.pc = w.tvec.toNat / 4 * 4 ∧ w'.needEntry = true ∧
        w'.s = w.s ∧ w'.k = w.k ∧ w'.v = w.v ∧ w'.lflags = w.lflags ∧ w'.fflagsEn = w.fflagsEn ∧ w'.gang = w.gang ∧
        w'.phase = w.phase ∧ w'.rows = w.rows ∧ w'.tvec = w.tvec ∧ w'.stage = w.stage) ∧
  (∀ (h : Hints) (s : State),
      (s.w.intrap = true →
        JumpCompletes (.tret h) h s (s.updW (fun w =>
          { w with intrap := false, pc := w.tepc.toNat / 4 * 4, needEntry := w.recheck, recheck := false }))) ∧
      (s.w.intrap = false → s.curWave?.isSome →
        exec (.tret h) s = .next (s.trapped s.w h.s.toNat
          { s.plainRec 0x10 with info := (((encode (.tret h)).headD 0).toNat) })))

/-- 11 R188, R189: a trap inside a handler, or with %tvec.EN clear, escalates: the workgroup is stopped for parking with
the record pending, as DOUBLE inside a handler, and nothing of the trap registers changes.

11 R190: a memory cause that HOSTMASK covers stops the workgroup and becomes the wave's pending record, inside a
handler too; any other trap is delivered. -/
def Obligations.TrapEscalation : Prop :=
  (∀ (s : State) (cl row : Nat) (w : Wave) (r : TrapRec),
      s.waveAt? cl row = some w → (w.intrap = true ∨ w.tvec.getLsbD 0 = false) →
      ∃ w', (s.deliver cl row r).waveAt? cl row = some w' ∧
        w'.pending = some (if w.intrap then { r with cause := 0x1A } else r) ∧ w'.pc = r.iaddr ∧
        w'.tepc = w.tepc ∧ w'.cause = w.cause ∧ w'.intrap = w.intrap ∧ w'.s = w.s ∧ w'.k = w.k ∧ w'.v = w.v ∧
        (s.deliver cl row r).mem = s.mem ∧
        (∀ g, mget (s.cluster cl).wgs w.wgslot = some g →
          ∃ g', mget ((s.deliver cl row r).cluster cl).wgs w.wgslot = some g' ∧ g'.stopped = true ∧ g'.escalated = true)) ∧
  (∀ (s : State) (cl row : Nat) (w : Wave) (r : TrapRec),
      s.waveAt? cl row = some w → w.bwait = none →
      (1 ≤ r.cause → r.cause ≤ 12 → (s.ctxOf w.ctx).hostMask.testBit r.cause = true →
        ∃ w', (s.takeTrap cl row r).waveAt? cl row = some w' ∧ w'.pending = some r ∧ w'.pc = r.iaddr ∧
          w'.intrap = w.intrap ∧ w'.tepc = w.tepc ∧ w'.s = w.s ∧ w'.k = w.k ∧ w'.v = w.v ∧
          (s.takeTrap cl row r).mem = s.mem ∧
          (∀ g, mget (s.cluster cl).wgs w.wgslot = some g →
            ∃ g', mget ((s.takeTrap cl row r).cluster cl).wgs w.wgslot = some g' ∧ g'.stopped = true)) ∧
      ((r.cause = 0 ∨ 12 < r.cause ∨ (s.ctxOf w.ctx).hostMask.testBit r.cause = false) →
        s.takeTrap cl row r = (s.leaveQueues cl row).deliver cl row r))

/-- 16 R272, R273, R276: a vector load whose lanes all pass their checks puts one read in flight for each active lane, at
base + index × scale + displacement, for its lane of the destination; the register is owed until they return; no byte
of memory changes.

06 R103, 16 R272, R273, R276: a vector store puts one write in flight for each active lane, the highest-numbered of
those that store at one address; no byte of memory changes before they perform.

16 R277: VCST stores the active lanes packed at base + displacement + k × stride from element %row_progress on, of
those at one place the last, and
sets %row_progress to zero when none faults; at the first element that faults it stops with that element's number in
%row_progress and in PROGRESS, the earlier elements written. -/
def Obligations.VectorMemory : Prop :=
  (∀ (i : Instr) (f : LaneForm) (s s1 : State) (m : Mask) (idx : Nat → Int) (base : DWord) (ok : List Checked),
      loadForm i = some f → readK s f.k = .ok m → readIndex s m.getLsbD f.ix = .ok idx →
      targetVW s f.ty.is64 f.d.toNat m.getLsbD = .ok () → readS s f.a = .ok (base, s1) →
      checkLanes s1 (elemBytes f.ty) .read none
        (((List.range 128).filter (fun l => m.getLsbD l)).map (fun l =>
          { lane := l, va := f.addr base idx l, dest := .lane f.d.toNat l f.ty.is64 })) = .ok ok →
      counterRoom s1 Op.ld = .ok () →
      let t := issueLanes s1 f.o f.sc .load (elemBytes f.ty) (memSigned f.ty)
        { tag := s1.tag, ld := true, left := 0
          owed := if f.ty.is64 then [.v f.d.toNat, .v (f.d.toNat + 1)] else [.v f.d.toNat], acq := isAcquire f.o f.sc } ok
      Completes i f.h 1 f.len s t ∧ t.mem = s.mem) ∧
  (∀ (i : Instr) (f : LaneForm) (s s1 : State) (m : Mask) (idx : Nat → Int) (x : Nat → Nat) (base : DWord)
      (ok : List Checked),
      storeForm i = some f → readK s f.k = .ok m → readIndex s m.getLsbD f.ix = .ok idx →
      readVW s f.ty.is64 f.d.toNat m.getLsbD = .ok x → readS s f.a = .ok (base, s1) →
      checkLanes s1 (elemBytes f.ty) .write none
        (((List.range 128).filter (fun l => m.getLsbD l)).map (fun l =>
          { lane := l, va := f.addr base idx l, data := x l })) = .ok ok →
      counterRoom s1 Op.st = .ok () →
      let t := issueLanes s1 f.o f.sc .store (elemBytes f.ty) false { tag := s1.tag, st := true, left := 0 } (highestOnly ok)
      Completes i f.h 1 f.len s t ∧ t.mem = s.mem) ∧
  (∀ (i : Instr) (f : LaneForm) (s s1 : State) (m : Mask) (x : Nat → Nat) (base : DWord),
      packedForm i = some f → readK s f.k = .ok m → readVW s f.ty.is64 f.d.toNat m.getLsbD = .ok x →
      readS s f.a = .ok (base, s1) →
      counterRoom s1 Op.st = .ok () →
      let size := elemBytes f.ty
      let stride := if f.scale = 0 then size else f.scale
      let act := (List.range 128).filter (fun l => m.getLsbD l)
      let ea (k : Nat) : Nat := (((base.toNat : Int) + f.disp + k * stride) % 2 ^ 64).toNat
      let chk (k : Nat) : Except Nat (Nat × Nat) :=
        (s1.accessOf (act.getD k 0)).checkAccess s1.cur.1 s1.w.ctx (ea k) size .write none
      let first := s.w.rows.toNat
      -- the elements from first up to n, with the places their checks gave
      let done (n : Nat) (ok : List Checked) : Prop :=
        ok.map (fun c => (c.acc.lane, c.acc.va, c.acc.data, c.pa, c.attr)) =
          ((List.range n).drop first).filterMap (fun k => match chk k with
            | .ok v => some (act.getD k 0, ea k, x (act.getD k 0), v.1, v.2)
            | .error _ => none) ∧
        ok.all (fun c => c.acc.data2 == 0 && c.acc.dest == Dest.none) = true
      let put (rows : Nat) (ok : List Checked) (o : State) : State :=
        (issueLanes o f.o f.sc .store size false { tag := o.tag, st := true, left := 0 } (highestOnly ok)).updW
          (fun w => { w with rows := BitVec.ofNat 32 rows })
      (∀ ok, (stride % size = 0 ∨ act.length ≤ first) → (∀ k, first ≤ k → k < act.length → ∃ v, chk k = .ok v) →
        done act.length ok → Completes i f.h 1 f.len s (put 0 ok s1)) ∧
      -- a stride that is no multiple of the element misaligns the first element
      (stride % size ≠ 0 → first < act.length → canonical (ea first) = true → s.curWave?.isSome →
        ∃ lanes, exec i s = .next ((put first [] s).trapped s.w f.h.s.toNat
          { s.memRec causeMisaligned .write (ea first) lanes with progress := first }) ∧ lanes.getLsbD (act.getD first 0) = true) ∧
      (∀ ok p c, stride % size = 0 → first ≤ p → p < act.length → (∀ k, first ≤ k → k < p → ∃ v, chk k = .ok v) →
        chk p = .error c → done p ok → s.curWave?.isSome →
        exec i s = .next ((put p ok s).trapped s.w f.h.s.toNat
          { s.memRec c .write (ea p) (maskOf (fun l => (List.range act.length).any (fun k =>
              p ≤ k && act.getD k 0 == l && (match chk k with
                | .error _ => true
                | .ok _ => false)))) with progress := p })))

/-- 16 R276: SLD and SST act once at S(A) + displacement. That the trap of a scalar access has LANES 0 is the model's reading (log
78). -/
def Obligations.ScalarLoadsAndStores : Prop :=
  ∀ (h : Hints) (ty : MemType) (o : Order) (sc : Scope) (d a : SReg) (s s1 : State) (base : DWord),
    readS s a = .ok (base, s1) →
    let acc (va : Nat) : LaneAcc := { lane := 0, va := va }
    let load (va : Nat) (v : Nat × Nat) : State :=
      issueLanes s1 o sc .load (elemBytes ty) (memSigned ty)
        { tag := s1.tag, ld := true, left := 0, owed := owedS d, acq := isAcquire o sc }
        [{ acc := { acc va with dest := .scalar d }, pa := v.1, attr := v.2 }]
    let store (s2 : State) (va : Nat) (x : DWord) (v : Nat × Nat) : State :=
      issueLanes s2 o sc .store (elemBytes ty) false { tag := s2.tag, st := true, left := 0 }
        [{ acc := { acc va with data := x.toNat }, pa := v.1, attr := v.2 }]
    let chk (t : State) (kind : Kind) (va : Nat) : Except Nat (Nat × Nat) :=
      t.checkAccess t.cur.1 t.w.ctx va (elemBytes ty) kind none
    let ea (disp : Word) : Nat := (base + disp.signExtend 64).toNat
    (counterRoom s1 Op.ld = .ok () → scalarRoom s1 d = .ok () →
      (∀ v, chk s1 .read base.toNat = .ok v → Completes (.sld h ty o sc d a) h 1 8 s (load base.toNat v)) ∧
      (∀ disp v, chk s1 .read (ea disp) = .ok v →
        Completes (.sld96 h ty o sc d a disp) h 1 12 s (load (ea disp) v))) ∧
    (∀ x s2, readS s1 d = .ok (x, s2) → counterRoom s2 Op.st = .ok () →
      (∀ v, chk s2 .write base.toNat = .ok v → Completes (.sst h ty o sc d a) h 1 8 s (store s2 base.toNat x v)) ∧
      (∀ disp v, chk s2 .write (ea disp) = .ok v →
        Completes (.sst96 h ty o sc d a disp) h 1 12 s (store s2 (ea disp) x v))) ∧
    (∀ c, chk s1 .read base.toNat = .error c → s.curWave?.isSome →
      exec (.sld h ty o sc d a) s = .next (s.trapped s.w h.s.toNat (s.memRec c .read base.toNat 0)))

/-- 16 R272, R273, R279: ATOM and SATOM put a read-modify-write in flight for each active lane, or one, whose old value the
destination gets. -/
def Obligations.AtomicsIssue : Prop :=
  (∀ (i : Instr) (f : LaneForm) (op : AtomOp) (c : VReg) (s s1 : State) (m : Mask) (idx : Nat → Int) (x y : Nat → Nat)
    (base : DWord) (ok : List Checked),
    atomForm i = some (f, op, c) → readK s f.k = .ok m → readIndex s m.getLsbD f.ix = .ok idx →
    readVW s f.ty.is64 c.toNat m.getLsbD = .ok x →
    (op = .cas → readVW s f.ty.is64 (c.toNat + (if f.ty.is64 then 2 else 1)) m.getLsbD = .ok y) →
    (op ≠ .cas → y = fun _ => 0) → targetVW s f.ty.is64 f.d.toNat m.getLsbD = .ok () → readS s f.a = .ok (base, s1) →
    checkLanes s1 (elemBytes f.ty) .atomic (some (op, f.ty))
      (((List.range 128).filter (fun l => m.getLsbD l)).map (fun l =>
        { lane := l, va := f.addr base idx l, data := x l, data2 := y l, dest := .lane f.d.toNat l f.ty.is64 })) = .ok ok →
    counterRoom s1 Op.ld = .ok () →
    let t := issueLanes s1 f.o f.sc (.atomic op f.ty) (elemBytes f.ty) false
      { tag := s1.tag, ld := true, left := 0
        owed := if f.ty.is64 then [.v f.d.toNat, .v (f.d.toNat + 1)] else [.v f.d.toNat], acq := isAcquire f.o f.sc } ok
    Completes i f.h 1 f.len s t ∧ t.mem = s.mem) ∧
  (∀ (h : Hints) (ty : MemType) (op : AtomOp) (o : Order) (sc : Scope) (d a b : SReg) (c : Option SReg) (disp : Word)
    (s s1 s2 s3 : State) (base x y : DWord) (v : Nat × Nat) (wide : Bool),
    readS s a = .ok (base, s1) → readS s1 b = .ok (x, s2) →
    (c = none → y = 0 ∧ s3 = s2) → (∀ r, c = some r → readS s2 r = .ok (y, s3)) →
    let ea := if wide then (base + disp.signExtend 64).toNat else base.toNat
    s3.checkAccess s3.cur.1 s3.w.ctx ea (elemBytes ty) .atomic (some (op, ty)) = .ok v →
    counterRoom s3 Op.ld = .ok () → scalarRoom s3 d = .ok () →
    let t := issueLanes s3 o sc (.atomic op ty) (elemBytes ty) false
      { tag := s3.tag, ld := true, left := 0, owed := owedS d, acq := isAcquire o sc }
      [{ acc := { lane := 0, va := ea, data := x.toNat, data2 := y.toNat, dest := .scalar d }, pa := v.1, attr := v.2 }]
    t.mem = s.mem ∧
    (if wide then Completes (.satom96 h ty op o sc d a b c disp) h 1 12 s t
      else Completes (.satom h ty op o sc d a b c) h 1 8 s t))

/-- 03 R57, 06 R101, R102: WRITE. A store that reaches its home slice writes its bytes, lowest first, at its address;
every other byte of memory stays; the packet becomes the acknowledgement.

06 R101, R102: READ_REQUEST. A load that reaches its home slice takes the value its bytes hold there, and nothing in
memory changes; the packet becomes the response.

16 R279: ATOMIC_REQUEST. One indivisible read-modify-write at the home: the result is the old value, and memory holds
the new one, every other byte as before. -/
def Obligations.AccessesPerform : Prop :=
  (∀ (s : State) (id : Nat) (p : Packet) (a : Access),
      s.requestDue id p a 2 → a.kind = .store → s.noBarrier a.pa a.size →
      ∃ t, exec .write s = .next t ∧ memRead t.mem a.pa a.size = natToBytes a.size a.data ∧
        (∀ x, (x < a.pa ∨ a.pa + a.size ≤ x) → memByte t.mem x = memByte s.mem x) ∧ t.answered id p a 4 0) ∧
  (∀ (s : State) (id : Nat) (p : Packet) (a : Access),
      s.requestDue id p a 0 → a.kind = .load →
      ∃ t, exec .readRequest s = .next t ∧ t.mem = s.mem ∧ t.answered id p a 1 (bytesToNat (memRead s.mem a.pa a.size))) ∧
  (∀ (s : State) (id : Nat) (p : Packet) (a : Access) (op : AtomOp) (ty : MemType),
      s.requestDue id p a 3 → a.kind = .atomic op ty → a.size = elemBytes ty → ty ≠ .f32 → s.noBarrier a.pa a.size →
      let w := 8 * a.size
      let old := bytesToNat (memRead s.mem a.pa a.size)
      let x := a.data % 2 ^ w
      let num (n : Nat) : Int := if memSigned ty = true ∧ 2 ^ (w - 1) ≤ n then (n : Int) - 2 ^ w else n
      ∃ t new, exec .atomicRequest s = .next t ∧ t.answered id p a 4 old ∧
        bytesToNat (memRead t.mem a.pa a.size) = new ∧
        (∀ y, (y < a.pa ∨ a.pa + a.size ≤ y) → memByte t.mem y = memByte s.mem y) ∧
        (op = .add → new = (old + x) % 2 ^ w) ∧ (op = .exch → new = x) ∧
        (op = .and → new = old &&& x) ∧ (op = .or → new = old ||| x) ∧ (op = .xor → new = old ^^^ x) ∧
        (op = .min → new = if num x < num old then x else old) ∧
        (op = .max → new = if num old < num x then x else old) ∧
        (op = .cas → new = if old = x then a.data2 % 2 ^ w else old))

/-- 16 R274, R276, R279: READ_RESPONSE and ACKNOWLEDGEMENT. The value of a load or atomic lands in the register it was meant
for, extended as its type says, in a wave that is resident; every other register of that wave and all of memory stay; and its
packet is gone. -/
def Obligations.AnswersLand : Prop :=
  ∀ (s : State) (id : Nat) (p : Packet) (a : Access) (w : Wave),
    (s.packetDue id p 1 true ∧ a.kind = .load ∨ s.packetDue id p 4 true ∧ ∃ op ty, a.kind = .atomic op ty) →
    p.body = .access a → s.regsEntry a.tag = none → s.residentOf a.tag = some w →
    let x : Nat := if a.kind = .load ∧ a.signed = true ∧ 2 ^ (8 * a.size - 1) ≤ a.result % 2 ^ (8 * a.size)
      then (2 ^ 64 + a.result % 2 ^ (8 * a.size) - 2 ^ (8 * a.size)) % 2 ^ 64 else a.result % 2 ^ (8 * a.size)
    0 < a.size → a.size ≤ 8 →
    ∃ t w', exec (if a.kind = .load then .readResponse else .acknowledgement) s = .next t ∧
      t.waveAt? a.tag.cl a.tag.row = some w' ∧ mget t.packets id = none ∧
      (∀ r l, a.dest = .lane r l false → l < 128 → r < w.bound →
        w'.lane r l = BitVec.ofNat 32 x ∧ (∀ r' l', l' < 128 → (r', l') ≠ (r, l) → w'.lane r' l' = w.lane r' l') ∧
        w'.s = w.s ∧ w'.k = w.k ∧ t.mem = s.mem) ∧
      (∀ r l, a.dest = .lane r l true → l < 128 → r + 1 < w.bound →
        w'.lane r l = BitVec.ofNat 32 x ∧ w'.lane (r + 1) l = BitVec.ofNat 32 (x / 2 ^ 32) ∧
        (∀ r' l', l' < 128 → (r', l') ≠ (r, l) → (r', l') ≠ (r + 1, l) → w'.lane r' l' = w.lane r' l') ∧
        w'.s = w.s ∧ w'.k = w.k ∧ t.mem = s.mem) ∧
      (∀ n, a.dest = .scalar (.s n) →
        mgetD w'.s n.toNat 0 = BitVec.ofNat 64 x ∧ (∀ m, m ≠ n.toNat → mgetD w'.s m 0 = mgetD w.s m 0) ∧
        w'.v = w.v ∧ w'.k = w.k ∧ t.mem = s.mem) ∧
      (a.dest = .scalar .zs → w' = w ∧ t.mem = s.mem)

/-- 06 R108, 16 R280, R282: FENCE, IFENCE and WAIT. What a fence must come after, each later access of the wave waits for.

07 R125, 16 R281: PUBLISH posts what the window holds in each slice, then its counter, and returns the counter; nothing
of the window is held any more; a window from 16 up or with EN = 0 gives 0 and posts nothing. That it reaches every slice in one
instant, and posts under the window's fields as they stand, is the model's choice (logs 109, 110), and so is that a write above
2^49 goes nowhere (log 87). -/
def Obligations.FencesAndPublication : Prop :=
  (∀ (h : Hints) (s : State),
      (∀ o sc, Completes (.fence h o sc) h 1 8 s (s.fenceEffect o sc) ∧
        (s.curWave?.isSome → sc ≠ .wave → ∀ id, s.isPending id = true →
          (((o = .rel ∨ o = .ar) ∧ id ∈ s.pointAt s.tag sc) ∨
            (o = .acq ∧ ∃ a, (id, a) ∈ s.pendingOf s.tag ∧ AccessKind.isLoad a.kind = true)) →
          id ∈ (s.fenceEffect o sc).orderAfter true ∧ (o ≠ .rel → id ∈ (s.fenceEffect o sc).orderAfter false))) ∧
      (waitPoint s .dev = .ok () → Completes (.ifence h) h 1 8 s s.dropFetched) ∧
      (∀ ld st cp tl : Byte,
        let within (limit : Byte) (which : Op → Bool) : Prop := limit = 0xFF ∨ s.counter s.tag which ≤ limit.toNat
        let all : Prop := within ld Op.ld ∧ within st Op.st ∧ within cp Op.cp ∧ within tl Op.tl
        (all → (∀ r, r ∈ s.w.held → waitNames ld cp tl r = false) → Completes (.wait h ld st cp tl) h 1 12 s s) ∧
        (¬ all → s.curWave?.isSome → exec (.wait h ld st cp tl) s = .next (s.holding .dep)) ∧
        (∀ r l1 l2, all → s.w.held = l1 ++ r :: l2 → (∀ q, q ∈ l1 → waitNames ld cp tl q = false) →
          waitNames ld cp tl r = true → s.curWave?.isSome →
          exec (.wait h ld st cp tl) s = .next (s.trapped s.w h.s.toNat { s.plainRec 0x18 with seq := r.seq, job := r.bytes false })))) ∧
  (∀ (h : Hints) (d : SReg) (s s1 t : State) (win : Nat) (i : Instr) (len : Nat),
      ((∃ a x, i = .publish h d a ∧ len = 8 ∧ readS s a = .ok (x, s1) ∧ win = x.toNat) ∨
        (∃ imm, i = .publish96 h d imm ∧ len = 12 ∧ s1 = s ∧ win = imm.toNat)) →
      waitPoint s1 .sys = .ok () → counterRoom s1 Op.ld = .ok () →
      (∀ p w, mget s1.parts (s1.partOfCtx s1.w.ctx) = some p → mget p.windows win = some w → win < 16 → w.en = true →
        let part := s1.partOfCtx s1.w.ctx
        let v := (w.version + 1) % 2 ^ 64
        let u := (s1.publish part win w).2
        let posted (addr : Nat) (bs : List Byte) : List HostOut :=
          if addr + bs.length ≤ 2 ^ 49 then [.write part w.link addr bs] else []
        let held := (s1.slicesOf part).flatMap (fun n => (s1.slice n).pub.filter (fun e => e.win == win))
        ((s1.publish part win w).1 = v ∧
          u.hostOut = s1.hostOut ++ held.flatMap (fun e => posted e.addr e.bytes) ++ posted w.vaddr (natToBytes 8 v) ∧
          (∀ n, n ∈ s1.slicesOf part → (u.slice n).pub = (s1.slice n).pub.filter (fun e => e.win != win)) ∧ u.mem = s1.mem) ∧
        (writeS u d (BitVec.ofNat 64 v) = .ok t → Completes i h 1 len s t)) ∧
      ((16 ≤ win ∨ ∀ p w, mget s1.parts (s1.partOfCtx s1.w.ctx) = some p → mget p.windows win = some w → w.en = false) →
        writeS s1 d 0 = .ok t → Completes i h 1 len s t))

/-- 16 R283: SEMACQ takes its count once no earlier waiter remains and the count suffices, else waits in order of arrival;
a semaphore with its error bit set traps with the record it holds.

16 R284: SEMREL of the own cluster with nothing to wait for, and no add of the wave's own that still waits, adds to the
semaphore modulo 2^32; one to another cluster of the partition sends the add by a packet to that cluster; a cluster outside the partition is an ISOLATION fault. -/
def Obligations.Semaphores : Prop :=
  (∀ (h : Hints) (sem : BitVec 6) (s s1 : State) (n : Nat) (i : Instr) (len : Nat),
      ((∃ b x, i = .semacq h sem b ∧ len = 8 ∧ readS s b = .ok (x, s1) ∧ n = x.toNat % 2 ^ 32) ∨
        (∃ imm, i = .semacq96 h sem imm ∧ len = 12 ∧ s1 = s ∧ n = imm.toNat)) →
      let m := s1.semOf s1.cur.1 s1.w.ctx sem.toNat
      ((m.error = false ∨ m.held = none) → (m.waiters = [] ∨ m.waiters.head? = some s1.cur.2) → n ≤ m.count →
        Completes i h 1 len s (s1.noteAcquire.updSem s1.cur.1 s1.w.ctx sem.toNat (fun m =>
          { m with count := m.count - n, waiters := without s1.cur.2 m.waiters }))) ∧
      ((m.error = false ∨ m.held = none) →
        (m.count < n ∨ ∃ r rest, m.waiters = r :: rest ∧ r ≠ s1.cur.2) → s.curWave?.isSome →
        exec i s = .next ((s.updSem s.cur.1 s.w.ctx sem.toNat (fun m =>
          if m.waiters.contains s.cur.2 then m else { m with waiters := m.waiters ++ [s.cur.2] })).holding .sync)) ∧
      (∀ r, m.error = true → m.held = some r → s.curWave?.isSome →
        exec i s = .next ((s.updSem s.cur.1 s.w.ctx sem.toNat (fun m => { m with error := false, held := none })).trapped
          s.w h.s.toNat { s.plainRec 0x18 with seq := r.seq, job := r.bytes false }))) ∧
  (∀ (h : Hints) (sem : BitVec 6) (s s1 : State) (n c : Nat) (i : Instr) (len : Nat),
      ((∃ b c' x y s0, i = .semrel h sem b c' ∧ len = 8 ∧ readS s b = .ok (x, s0) ∧ readS s0 c' = .ok (y, s1) ∧
          n = x.toNat % 2 ^ 32 ∧ c = y.toNat) ∨
        (∃ c' y imm, i = .semrel96 h sem c' imm ∧ len = 12 ∧ readS s c' = .ok (y, s1) ∧ n = imm.toNat ∧ c = y.toNat)) →
      let own := s1.cur.1
      let target := if c.testBit 7 then c % 128 else own
      (target = own → (s1.cluster own).retired = false → counterRoom s1 Op.st = .ok () →
        (∀ id, id ∈ s1.pointDev s1.tag → s1.isPending id = false) →
        (∀ x, x ∈ s1.laterals → x.2.kind = .semRel → x.2.tag ≠ s1.tag) → s1.semsEntry own s1.w.ctx = none →
        Completes i h 1 len s (s1.updSem own s1.w.ctx sem.toNat (fun m => { m with count := (m.count + n) % 2 ^ 32 }))) ∧
      (target ≠ own → s1.partOfCluster target = s1.partOfCluster own → (s1.cluster target).retired = false →
        counterRoom s1 Op.st = .ok () →
        ∃ t id p a, Completes i h 1 len s t ∧ t.mem = s.mem ∧ mget t.packets id = some p ∧ p.kind = 0xA ∧
          p.src = clusterSite own ∧ p.dst = clusterSite target ∧ p.body = .access a ∧ a.kind = .semRel ∧
          a.va = sem.toNat ∧ a.size = target ∧ a.data = n ∧ a.tag = s1.tag) ∧
      (s1.partOfCluster target ≠ s1.partOfCluster own → s.curWave?.isSome →
        ∃ r, r.cause = causeIsolation ∧ r.iaddr = s.w.pc ∧ r.resume = s.w.pc ∧
          exec i s = .next (({ s with fresh := s.fresh + 2 }).trapped s.w h.s.toNat r)))

/-- 16 R285, R286: what BINIT, BINVAL and BARRIVE do to a line at its home: GEN, ARRIVED, EXPECT and STATE, and the status
word.

16 R286, 06 R112: BINIT, BINVAL, BARRIVE and BWAIT at issue: the line is checked exactly, but BWAIT of a line that fails its
check answers INVALID, whatever GEN then reads (log 76); BWAIT returns at once where the line is not VALID or of another
generation, else waits as a registered waiter; woken, it returns the generation and outcome it was given. That BINIT, BINVAL
and BWAIT perform at their home in the instant of issue is the model's choice (log 30), and so is that the record of a failing
check has LANES 0 (log 78). -/
def Obligations.Barriers : Prop :=
  (∀ (s : State) (pa : Nat), (s.slice (s.lineHome pa)).waiters = [] → sliceHomed pa = true →
      let b := s.barrierLine pa
      (∀ e, (s.barrierInit pa e).barrierLine pa =
        { gen := (b.gen + 1) % 2 ^ 32, arrived := 0, expect := e % 2 ^ 16, state := if e % 2 ^ 16 = 0 then 0 else 1 }) ∧
      ((s.barrierInvalidate pa).barrierLine pa = { b with state := 0 }) ∧
      (b.state = 1 → (s.barrierArrive pa).1 = BitVec.ofNat 64 (b.gen * 2 ^ 32 + 1)) ∧
      (b.state = 1 → b.arrived + 1 < b.expect → (s.barrierArrive pa).2.barrierLine pa = { b with arrived := b.arrived + 1 }) ∧
      (b.state = 1 → b.arrived + 1 = b.expect →
        (s.barrierArrive pa).2.barrierLine pa = { b with gen := (b.gen + 1) % 2 ^ 32, arrived := 0 }) ∧
      (b.state ≠ 1 → (s.barrierArrive pa).2 = s ∧
        (s.barrierArrive pa).1 = BitVec.ofNat 64 (b.gen * 2 ^ 32 + (if b.state = 2 then 2 else 3))) ∧
      (∀ x, (x < pa ∨ pa + 9 ≤ x) → ∀ e, memByte (s.barrierInit pa e).mem x = memByte s.mem x)) ∧
  (∀ (h : Hints) (d a b : SReg) (s s1 s2 t : State) (x y : DWord) (pa : Nat),
      readS s a = .ok (x, s1) →
      (readS s1 b = .ok (y, s2) → s2.barrierCheck x.toNat = .ok pa → lineTurn s2 pa = .ok () →
        Completes (.binit h a b) h 1 8 s ((s2.takeLine x.toNat pa true).barrierInit pa y.toNat) ∧
        (s.w.bwait = none →
          let s3 := s2.takeLine x.toNat pa false
          let l := s3.barrierLine pa
          (l.state ≠ 1 → barrierDone s3 d (BitVec.ofNat 64 (l.gen % 2 ^ 32 * 2 ^ 32 + (if l.state = 2 then 2 else 3))) = .ok t →
            Completes (.bwait h d a b) h 1 8 s t) ∧
          (l.state = 1 → l.gen ≠ y.toNat / 2 ^ 32 →
            barrierDone s3 d (BitVec.ofNat 64 (l.gen % 2 ^ 32 * 2 ^ 32 + 1)) = .ok t → Completes (.bwait h d a b) h 1 8 s t) ∧
          (l.state = 1 → l.gen = y.toNat / 2 ^ 32 → s.curWave?.isSome →
            exec (.bwait h d a b) s = .next (((s.takeLine x.toNat pa false).registerWaiter pa l.gen).holding .sync)))) ∧
      -- a line that fails its check: BINIT traps, and BWAIT answers INVALID
      (∀ c, readS s1 b = .ok (y, s2) → s2.barrierCheck x.toNat = .error c →
        (s.curWave?.isSome →
          exec (.binit h a b) s = .next (s.trapped s.w h.s.toNat (s.memRec c .atomic x.toNat 0))) ∧
        (s.w.bwait = none → ∃ word : DWord, word.toNat % 2 ^ 32 = 3 ∧
          ∀ u, barrierDone { s2 with fresh := s2.fresh + 1 } d word = .ok u → Completes (.bwait h d a b) h 1 8 s u)) ∧
      (∀ l g g' code, s.w.bwait = some { line := l, gen := g, outcome := some (g', code) } → readS s1 b = .ok (y, s2) →
        barrierDone s2 d (BitVec.ofNat 64 (g' % 2 ^ 32 * 2 ^ 32 + code)) = .ok t → Completes (.bwait h d a b) h 1 8 s t) ∧
      (s1.barrierCheck x.toNat = .ok pa → lineTurn s1 pa = .ok () →
        Completes (.binval h a) h 1 8 s ((s1.takeLine x.toNat pa true).barrierInvalidate pa)) ∧
      (s1.barrierCheck x.toNat = .ok pa → counterRoom s1 Op.ld = .ok () → scalarRoom s1 d = .ok () →
        ∃ t' p id op, Completes (.barrive h d a) h 1 8 s t' ∧ t'.mem = s.mem ∧ mget t'.packets id = some p ∧
          p.kind = 3 ∧ (∃ acc, p.body = .access acc ∧ acc.kind = .barrive ∧ acc.pa = pa ∧ acc.op = op ∧
            acc.dest = .scalar d) ∧ (∃ o, mget t'.ops op = some o ∧ o.tag = s1.tag ∧ o.ld = true ∧ o.left = 1)) ∧
      (∀ c, s1.barrierCheck x.toNat = .error c → s.curWave?.isSome →
        exec (.barrive h d a) s = .next (s.trapped s.w h.s.toNat (s.memRec c .atomic x.toNat 0)) ∧
        exec (.binval h a) s = .next (s.trapped s.w h.s.toNat (s.memRec c .atomic x.toNat 0))))

/-- 16 R287, 19 R297: MSEND sends a mailbox packet of its 60 payload words once the device-scope point is reached; MRECV
takes the oldest packet of a mailbox of its context.

16 R288, R289, 06 R112: TQPUSH and TQPOP. A push that finds room puts the entry at the tail, on chip or in the ring, and
answers 0; a pop takes the entry at the head, from where it is; a full queue answers 1 and counts the push in FAILS, an empty
one answers 1, a malformed header 2.

16 R288, R289: first in, first out. An entry pushed on an empty queue is the one a pop then takes, and the queue is
empty again. That MRECV, TQPUSH and TQPOP perform at their home in the instant of issue is the model's choice (log 30). -/
def Obligations.MailboxesAndTaskQueues : Prop :=
  (∀ (h : Hints) (d b : SReg) (a r : VReg) (arg : DWord) (s s1 : State) (x : DWord),
      let sl := x.toNat % 128
      let mb := x.toNat / 2 ^ 8 % 16
      readS s b = .ok (x, s1) →
      (∀ v, readV s a.toNat (fun l => decide (l < 60)) = .ok v → s1.partOfSlice sl = s1.partOfCluster s1.cur.1 → waitPoint s1 .dev = .ok () →
        counterRoom s1 Op.ld = .ok () → scalarRoom s1 d = .ok () →
        ∃ t id p bytes op, Completes (.msend h d a b arg) h 1 16 s t ∧ t.mem = s.mem ∧ mget t.packets id = some p ∧
          p.kind = 5 ∧ p.src = clusterSite s1.cur.1 ∧ p.dst = sliceSite sl ∧ p.ctx = s1.w.ctx ∧
          p.body = .mail op s1.tag d mb bytes 0 ∧ bytes.length = 256 ∧
          (bytes.drop 8).take 8 = natToBytes 8 arg.toNat ∧
          (∀ k, k < 60 → (bytes.drop (16 + 4 * k)).take 4 = natToBytes 4 (v k).toNat)) ∧
      (∀ m p rest t, s1.partOfSlice sl = s1.partOfCluster s1.cur.1 → mget (s1.slice sl).mboxes mb = some m →
        m.ctx = s1.w.ctx → m.packets = p :: rest →
        writeV s1 r.toNat (fun l =>
          some (if l < 64 then BitVec.ofNat 32 (bytesToNat ((p.drop (4 * l)).take 4)) else 0)) = .ok t →
        Completes (.mrecv h r b) h 1 8 s
          (t.noteAcquire.setSlice sl { t.slice sl with mboxes := mset (t.slice sl).mboxes mb { m with packets := rest } })) ∧
      (∀ m, s1.partOfSlice sl = s1.partOfCluster s1.cur.1 → mget (s1.slice sl).mboxes mb = some m → m.ctx = s1.w.ctx →
        m.packets = [] → s.curWave?.isSome → exec (.mrecv h r b) s = .next (s.holding .sync))) ∧
  ((∀ (h : Hints) (d a b c : SReg) (n : BitVec 7) (s s1 : State) (x : DWord) (pa : Nat),
      s.feature 5 = true → readS s a = .ok (x, s1) →
      (∀ s2 s3 t lo hi, readS s1 b = .ok (lo, s2) → readS s2 c = .ok (hi, s3) → tqAt s3 x.toNat = .ok pa →
        waitPoint s3 .dev = .ok () → lineTurn s3 pa = .ok () →
        let r := (s3.takeLine x.toNat pa true).tqPush pa (lo, hi)
        writeS r.2 d (BitVec.ofNat 64 r.1) = .ok t → Completes (.tqpush h d a b c) h 1 8 s t) ∧
      (tqAt s1 x.toNat = .ok pa → lineTurn s1 pa = .ok () →
        let r := (s1.takeLine x.toNat pa true).tqPop pa
        (∀ lo hi t1 t2 t, r.2.1 = some (lo, hi) → writeS r.2.2.noteAcquire (.s n) lo = .ok t1 →
          writeS t1 (.s (n + 1)) hi = .ok t2 → writeS t2 d (BitVec.ofNat 64 r.1) = .ok t →
          Completes (.tqpop h d a n) h 1 8 s t) ∧
        (∀ t, r.2.1 = none → writeS r.2.2 d (BitVec.ofNat 64 r.1) = .ok t → Completes (.tqpop h d a n) h 1 8 s t))) ∧
    (∀ (s : State) (pa : Nat) (e : DWord × DWord), sliceHomed pa = true →
      (s.tqHeader pa = none → (s.tqPush pa e).1 = 2 ∧ (s.tqPush pa e).2 = s ∧ (s.tqPop pa).1 = 2 ∧ (s.tqPop pa).2.2 = s) ∧
      (∀ q, s.tqHeader pa = some q → pa % 64 = 0 → (s.slice (s.lineHome pa)).barriers.contains pa = false →
        let chip := s.tqChip pa
        let room := q.count < 256 + 2 ^ q.log2n
        let u := (s.tqPush pa e).2
        let v := (s.tqPop pa).2.2
        let tailed (h : TqHeader) : TqHeader := { h with tail := (h.tail + 1) % 2 ^ 32 }
        let apart (rpa : Nat) : Prop := rpa % 16 = 0 ∧ (rpa + 16 ≤ pa ∨ pa + 64 ≤ rpa) ∧ s.noBarrier rpa 16
        let stored (rpa : Nat) : Prop := memNat u.mem rpa 8 = e.1.toNat ∧ memNat u.mem (rpa + 8) 8 = e.2.toNat
        -- a full queue's push counts in FAILS and changes nothing else of memory
        (¬ room → (s.tqPush pa e).1 = 1 ∧ s.storedAt u (pa + 24) (natToBytes 4 (min (q.fails + 1) (2 ^ 32 - 1))) ∧
          u.tqChip pa = chip) ∧
        -- room on chip, every entry being there
        (room → chip.length < 256 → chip.length = q.count →
          (s.tqPush pa e).1 = 0 ∧ u.tqChip pa = mset chip q.tail e ∧ u.tqHeader pa = some (tailed q)) ∧
        -- room in the ring
        (∀ rpa ca, room → ¬ (chip.length < 256 ∧ chip.length = q.count) → q.count - chip.length < 2 ^ q.log2n →
          s.tqRing .write (q.entry q.tail) = .ok (rpa, ca) → apart rpa →
          (s.tqPush pa e).1 = 0 ∧ u.tqChip pa = chip ∧ u.tqHeader pa = some (tailed q) ∧ stored rpa) ∧
        -- a full ring, and room on chip for its oldest entry
        (∀ rpa ca old s1, room → chip.length < 256 → 2 ^ q.log2n ≤ q.count - chip.length →
          let i := (q.head + chip.length) % 2 ^ 32
          s.tqReadRing q i = .ok (old, s1) → (s1.setTqChip pa (mset chip i old)).tqRing .write (q.entry q.tail) = .ok (rpa, ca) →
          apart rpa →
          (s.tqPush pa e).1 = 0 ∧ u.tqChip pa = mset chip i old ∧ u.tqHeader pa = some (tailed q) ∧ stored rpa) ∧
        -- the pop of the entry at the head
        (∀ old, q.count ≠ 0 → mget chip q.head = some old →
          (s.tqPop pa).1 = 0 ∧ (s.tqPop pa).2.1 = some old ∧ v.tqChip pa = mdel chip q.head ∧
            v.tqHeader pa = some { q with head := (q.head + 1) % 2 ^ 32 }) ∧
        (∀ old s1, q.count ≠ 0 → mget chip q.head = none → s.tqReadRing q q.head = .ok (old, s1) →
          (s.tqPop pa).1 = 0 ∧ (s.tqPop pa).2.1 = some old ∧ v.tqChip pa = chip ∧
            v.tqHeader pa = some { q with head := (q.head + 1) % 2 ^ 32 }) ∧
        (q.count = 0 → (s.tqPop pa).1 = 1 ∧ (s.tqPop pa).2.1 = none ∧ v = s)))) ∧
  (∀ (s : State) (pa : Nat) (q : TqHeader) (e : DWord × DWord), sliceHomed pa = true → s.tqHeader pa = some q → q.count = 0 → s.tqChip pa = [] →
      (s.slice (s.lineHome pa)).barriers.contains pa = false →
      let s1 := (s.tqPush pa e).2
      (s.tqPush pa e).1 = 0 ∧ (s1.tqPop pa).1 = 0 ∧ (s1.tqPop pa).2.1 = some e ∧
        ∃ q', (s1.tqPop pa).2.2.tqHeader pa = some q' ∧ q'.count = 0)

/-- 10 R178, 16 R290: SPAWN places the record of each active lane in ascending order, and bit i of kD says that lane i
failed. A record for which a bin with its entry address has room goes to the end of that bin.

16 R291: LAUNCH of a queue number from 8 up answers 3 and sends nothing; one to a halted, disabled or later queue answers at
once, as one beyond the ring does, whose queue halts; any other sends its kick, which the queue applies, or keeps behind one
under way, while the wave waits; one whose kick has returned answers its code, and a kick that has been carried out returns 0.
That SPAWN performs in the instant of issue is the model's choice (log 30), and so is how the wave waits (log 26). -/
def Obligations.SpawnAndLaunch : Prop :=
  ((∀ (h : Hints) (k d : KReg) (b : VReg) (s s1 : State) (m : Mask) (v : Nat → Nat → Word) (pc : Nat) (i : Instr) (len : Nat),
      s.feature 4 = true →
      ((∃ a x, i = .spawn h k d a b ∧ len = 8 ∧ readS s a = .ok (x, s1) ∧ pc = x.toNat) ∨
        (∃ x, i = .spawn128 h k d b x ∧ len = 16 ∧ s1 = s ∧ pc = x.toNat)) →
      readK s1 k = .ok m → (∀ j, j < 4 → readV s1 (b.toNat + j) m.getLsbD = .ok (v j)) → waitPoint s1 .dev = .ok () →
      ∀ bad s2 t x, placeLanes s1.cur.1 s1.w.ctx s1.w.launch s1.w.spBound
          (fun l => { words := [v 0 l, v 1 l, v 2 l, v 3 l], entryPc := pc / 4 * 4, prio := s1.w.prio, tmo := s1.w.spTmo })
          ((List.range 128).filter (fun l => m.getLsbD l)) [] none s1 = (bad, none, s2) →
        (∀ l, l < 128 → x.getLsbD l = bad.contains l) → writeK s2 d x = .ok t → Completes i h 1 len s t) ∧
    (∀ (s : State) (cl ctx launch bound n : Nat) (r : SpawnRec) (q : SpillHeader) (bin : Bin),
      s.spillHeader cl ctx = .ok q → q.count = 0 → (s.cluster cl).binFor ctx r.entryPc = some n →
      mget (s.cluster cl).bins n = some bin →
      ∃ t, s.placeRecord cl ctx launch bound r = (false, none, t) ∧ t.mem = s.mem ∧
        mget (t.cluster cl).bins n = some { bin with recs := bin.recs ++ [r.words] })) ∧
  (∀ (h : Hints) (d a b : SReg) (s s1 s2 t : State) (qn seq : DWord),
      readS s a = .ok (qn, s1) → readS s1 b = .ok (seq, s2) →
      let done (o : State) (code : DWord) : Attempt State :=
        writeS (o.updW (fun w => { w with kicking := false, kickResult := none })) d code
      let r := s2.queue (s.partOfCtx s.w.ctx) qn.toNat
      let gap := (seq.toNat % 2 ^ 32 + 2 ^ 32 - r.next % 2 ^ 32) % 2 ^ 32
      (∀ code, s.w.kicking = true → s.w.kickResult = some code → done s2 (BitVec.ofNat 64 code) = .ok t →
        Completes (.launch h d a b) h 1 8 s t) ∧
      (waitPoint s .dev = .ok () → counterRoom s Op.ld = .ok () →
      (8 ≤ qn.toNat → s.w.kicking = false → done s2 3 = .ok t → Completes (.launch h d a b) h 1 8 s t) ∧
      (qn.toNat < 8 → s.w.kicking = false → r.halted = true → done s2 2 = .ok t → Completes (.launch h d a b) h 1 8 s t) ∧
      (qn.toNat < 8 → s.w.kicking = false → r.halted = false → r.slots = 0 → done s2 4 = .ok t →
        Completes (.launch h d a b) h 1 8 s t) ∧
      (qn.toNat < 8 → s.w.kicking = false → r.halted = false → r.slots ≠ 0 → r.kick = none →
        2 ^ 31 ≤ gap → done s2 1 = .ok t → Completes (.launch h d a b) h 1 8 s t) ∧
      (qn.toNat < 8 → s.w.kicking = false → r.halted = false → r.slots ≠ 0 → r.kick = none → gap < 2 ^ 31 → r.slots ≤ gap →
        done (s2.haltQueue (s.partOfCtx s.w.ctx) qn.toNat 2) 2 = .ok t → Completes (.launch h d a b) h 1 8 s t) ∧
      (qn.toNat < 8 → s.w.kicking = false → r.halted = false → r.slots ≠ 0 → s.curWave?.isSome →
        let waits (t : State) : Prop := exec (.launch h d a b) s = .next t ∧ t.w.kicking = true ∧ t.w.pc = s.w.pc ∧
          t.w.s = s.w.s ∧ t.w.issuedOnce = s.w.issuedOnce ∧ t.mem = s.mem
        (r.kick = none → gap < 2 ^ 31 → gap < r.slots → r.entryAddr + 64 ≤ 2 ^ 49 →
          ∃ t', waits t' ∧ s.ringAsked t' (s.partOfCtx s.w.ctx) qn.toNat r ∧
            (t'.queue (s.partOfCtx s.w.ctx) qn.toNat).kick =
              some { seq := seq.toNat % 2 ^ 32, rereads := 0, from? := some s.tag, reading := true }) ∧
        (r.kick.isSome →
          ∃ t', waits t' ∧ t'.queue (s.partOfCtx s.w.ctx) qn.toNat =
            { r with pendingKicks := r.pendingKicks ++ [(seq.toNat % 2 ^ 32, some s.tag)] })))) ∧
  (∀ (s : State) (part q : Nat) (k : Kick) (t : WTag) (w : Wave), (s.queue part q).kick = some k → k.from? = some t →
      (s.queue part q).pendingKicks = [] → s.residentOf t = some w → w.kicking = true →
      (s.endKick part q).waveAt? t.cl t.row = some { w with kickResult := some 0 })

/-- 04 R79, 16 R281: LODFENCE completes once the device-scope point is reached and no read of the resource is under way.

04 R66, R70, R71, 16 R278: VLDL where every active lane finds a resident page at a level: each lane's status is the
level delivered with bit 4 set where it is not the level asked for, its texel is read at its address in that level,
and an absent first page is reported where the descriptor asks for it. That the map words are read at issue, and each lane's
texel by a packet of its own, is the model's choice (log 40). -/
def Obligations.LevelsOfDetail : Prop :=
  (∀ (h : Hints) (s s1 : State) (res : Nat) (i : Instr) (len : Nat),
      s.feature 3 = true →
      ((∃ a x, i = .lodfence h a ∧ len = 8 ∧ readS s a = .ok (x, s1) ∧ res = x.toNat % 2 ^ 32) ∨
        (∃ imm, i = .lodfence96 h imm ∧ len = 12 ∧ s1 = s ∧ res = imm.toNat)) →
      waitPoint s1 .dev = .ok () → s1.lodBusy s1.w.ctx res = false → Completes i h 1 len s s1) ∧
  (∀ (h : Hints) (k : KReg) (o : Order) (sc : Scope) (d : VReg) (a : SReg) (b c level status : VReg)
      (s s0 s1 s2 : State) (m : Mask) (u v lv : Nat → Word) (base : DWord) (bytes : List Byte) (desc : LodDesc)
      (at' : Nat → Nat × Nat × Nat) (place : Nat → Nat × Nat),
      s.feature 3 = true → readK s k = .ok m → readV s b.toNat m.getLsbD = .ok u → readV s c.toNat m.getLsbD = .ok v →
      readV s level.toNat m.getLsbD = .ok lv → targetV s d.toNat m.getLsbD = .ok () →
      targetV s status.toNat m.getLsbD = .ok () → readS s a = .ok (base, s0) → m ≠ 0 →
      let act := (List.range 128).filter (fun l => m.getLsbD l)
      lodDescriptor s0 base.toNat (maskOf m.getLsbD) = .ok (bytes, desc, s1) →
      let found (l : Nat) : LodFound :=
        (s1.accessOf (mapAccess l)).lodLookup s1.cur.1 s1.w.ctx desc (u l).toNat (v l).toNat (lv l).toNat
      -- the map words are read in their turn
      (∀ l, l ∈ act → ∀ w, w ∈ (found l).words → accessTurn s1 w.1 8 false = .ok ()) →
      counterRoom s1 Op.ld = .ok () →
      (∀ l, l ∈ act → (found l).result = .ok (at' l) ∧
        (s1.accessOf l).lodRead s1.cur.1 s1.w.ctx (desc.elemAddr (at' l).1 (at' l).2.1 (at' l).2.2) = .ok (place l)) →
      writeV s1 status.toNat (fun l => if m.getLsbD l then
        some (BitVec.ofNat 32 ((at' l).1 + (if (at' l).1 = min ((lv l).toNat % 16) desc.nlm1 then 0 else 16))) else none) = .ok s2 →
      let reports := act.filterMap (fun l => lodReportOf s2.tag 0 desc (found l) (.lane status.toNat l false))
      let (id, s3) := s2.newOp { tag := s2.tag, ld := true, left := act.length + reports.length
                                 owed := [.v d.toNat, .v status.toNat], acq := isAcquire o sc, lod := some desc.resource }
      let checked : List Checked := act.map (fun l =>
        { acc := { lane := l, va := desc.elemAddr (at' l).1 (at' l).2.1 (at' l).2.2, dest := .lane d.toNat l false }
          pa := (place l).1, attr := (place l).2 })
      let s4 := useAll (sendLanes s2 id .load 4 false [] checked
        (s3.tookWords s3.cur.1 s3.w.ctx (act.flatMap (fun l => (found l).words)))) checked
      let s5 := if isAcquire o sc then s4.noteAcquire else s4
      Completes (.vldl h k o sc d a b c level status) h 1 16 s (reports.foldl (fun s r => s.sendReport { r with op := id }) s5))

/-- 03 R51 to R53, 16 R292: TALLOC fills the lowest EMPTY entry and returns its number, or all ones where none is EMPTY; a
bad offset is MISALIGNED, a bad size or range TILE_STATE; TFREE empties a READY tile of the workgroup.

16 R293: TLD and TST issue a job over the lines of a READY tile of the workgroup: TLD fills it, TST reads it out. -/
def Obligations.Tiles : Prop :=
  (∀ (h : Hints) (d a : SReg) (s s1 t : State) (off n : Nat) (i : Instr) (len : Nat),
      ((∃ b x y s0, i = .talloc h d a b ∧ len = 8 ∧ readS s a = .ok (x, s0) ∧ readS s0 b = .ok (y, s1) ∧ off = x.toNat ∧
          n = y.toNat) ∨
        (∃ x imm, i = .talloc96 h d a imm ∧ len = 12 ∧ readS s a = .ok (x, s1) ∧ off = x.toNat ∧ n = imm.toNat)) →
      let k := s1.cluster s1.cur.1
      let free (j : Nat) : Prop := mget k.tiles j = none ∧ (k.reservedTiles s1.w.ctx).contains j = false
      let entry : Tile :=
        { size := n, base := s1.wg.vaultLo + off / 4096, owner := s1.w.wgslot, ctx := s1.w.ctx
          cslot := k.slotOf s1.w.ctx, pend := 0, state := .ready }
      (off % 4096 = 0 → 1 ≤ n → n ≤ 256 → off + n * 4096 ≤ s1.wg.vaultN * 4096 →
        (∀ j, j < 256 → free j → (∀ i, i < j → ¬ free i) →
          writeS (s1.setCluster s1.cur.1 { k with tiles := mset k.tiles j entry }) d (BitVec.ofNat 64 j) = .ok t →
          Completes i h 1 len s t) ∧
        ((∀ j, j < 256 → ¬ free j) → writeS s1 d 0xFFFFFFFFFFFFFFFF = .ok t → Completes i h 1 len s t)) ∧
      (s.curWave?.isSome → off % 4096 ≠ 0 →
        ∃ r, r.cause = causeMisaligned ∧ r.iaddr = s.w.pc ∧ r.resume = s.w.pc ∧
          exec i s = .next (({ s with fresh := s.fresh + 2 }).trapped s.w h.s.toNat r)) ∧
      (s.curWave?.isSome → off % 4096 = 0 → (n < 1 ∨ 256 < n ∨ s1.wg.vaultN * 4096 < off + n * 4096) →
        ∃ r, r.cause = causeTileState ∧ r.iaddr = s.w.pc ∧ r.resume = s.w.pc ∧
          exec i s = .next (({ s with fresh := s.fresh + 2 }).trapped s.w h.s.toNat r)) ∧
      (∀ a x tl, readS s a = .ok (x, s1) → mget k.tiles x.toNat = some tl → tl.ctx = s1.w.ctx → tl.owner = s1.w.wgslot →
        tl.state = .ready → Completes (.tfree h a) h 1 8 s (s1.setCluster s1.cur.1 { k with tiles := mdel k.tiles x.toNat })) ∧
      (∀ a x, readS s a = .ok (x, s1) → mget k.tiles x.toNat = none → s.curWave?.isSome →
        ∃ r, r.cause = causeTileState ∧ r.iaddr = s.w.pc ∧ r.resume = s.w.pc ∧
          exec (.tfree h a) s = .next (({ s with fresh := s.fresh + 2 }).trapped s.w h.s.toNat r))) ∧
  (∀ (h : Hints) (o : Order) (sc : Scope) (a b c : SReg) (off : Word) (sem : Option (BitVec 6)) (s s1 s2 s3 : State)
      (tn mem len : DWord) (tl : Tile),
      readS s a = .ok (tn, s1) → readS s1 b = .ok (mem, s2) → readS s2 c = .ok (len, s3) → tileNeed s3 tn.toNat = .ok tl →
      len ≠ 0 → len.toNat % 64 = 0 → off.toNat % 64 = 0 → off.toNat + len.toNat ≤ tl.size * 4096 → mem.toNat % 64 = 0 →
      jobRoom s3 = .ok () →
      let tile := (s3.tileBase s3.cur.1 tl + off.toNat) % 2 ^ 64
      let m := (mem.toNat, mem.toNat + len.toNat)
      let v := (tile, tile + len.toNat)
      let job (kind : JobKind) : Job := newJob s3 kind 0 sem (len.toNat / 64)
      Completes (.tld h o sc a b c off sem) h 1 16 s (s3.issueJob o sc [s3.tag]
        { job (.line mem.toNat tile (len.toNat / 64) true) with fill := some tn.toNat, reads := [m], writes := [v] }) ∧
      Completes (.tst h o sc a b c off sem) h 1 16 s (s3.issueJob o sc [s3.tag]
        { job (.line tile mem.toNat (len.toNat / 64) false) with readOut := some tn.toNat, reads := [v], writes := [m] }))

/-- 20 R301, R302: MKSHAPE stores the sixteen words of lanes 0 to 15 as a record with its V bit set exactly when the
status is 0, and returns the status.

20 R303 to R306: XCOPY from a memory range or a tile to a memory range or a tile, to the vaults of the clusters its masks name,
and from a texture level, and XGATHER, issue a job over the elements of the record once the checks pass.

03 R52, 07 R116, 16 R274: what issuing a job does: one counted operation for its wave on CP, unless it is a plane or BINAPP
job, and one on TL for each tile it fills or reads out; the job stands among the jobs with its elements not yet reached; its
tiles are FILLING and DRAINING; no byte changes. -/
def Obligations.ShapesCopiesJobs : Prop :=
  (∀ (h : Hints) (d a : SReg) (b : VReg) (disp : Word) (s s1 t : State) (v : Nat → Word) (base : DWord) (c : Nat × Nat),
      readV s b.toNat (fun l => decide (l < 16)) = .ok v → readS s a = .ok (base, s1) →
      let va := (base + disp.signExtend 64).toNat
      s1.checkAccess s1.cur.1 s1.w.ctx va 64 .write none = .ok c → sliceHomed c.1 = true → counterRoom s1 Op.st = .ok () →
      let fields := (List.range 16).flatMap (fun l => natToBytes 4 (v l).toNat)
      let st := shapeStatus fields
      writeS s1 d (BitVec.ofNat 64 st) = .ok t →
      Completes (.mkshape h d a b disp) h 1 16 s
        (issueLanes t .rlx .wave .store 64 false { tag := t.tag, st := true, left := 0 }
          [{ acc := { lane := 0, va := va, data := bytesToNat fields / 2 * 2 + (if st = 0 then 1 else 0) }
             pa := c.1, attr := c.2 }])) ∧
  ((∀ (h : Hints) (o : Order) (sc : Scope) (sem : Option (BitVec 6)) (a b c : SReg) (dtile stile : Option Byte)
      (s s1 s2 s3 s4 : State) (rec src dst : DWord) (dt st : Option Tile) (r : Shape) (lod : Bool),
      readS s a = .ok (rec, s1) → readS s1 b = .ok (src, s2) → readS s2 c = .ok (dst, s3) →
      tileNeed? s3 dtile = .ok dt → tileNeed? s3 stile = .ok st → shapeRead s3 rec.toNat lod = .ok (r, s4) →
      let base (tl : Option Tile) (x : Nat) : Nat := tl.elim x (fun tl => (s4.tileBase s4.cur.1 tl + x) % 2 ^ 64)
      let srcVa := base st src.toNat
      let dstVa := base dt dst.toNat
      let fine : Prop := src.toNat % (if st.isSome then 64 else r.e.esz) = 0 ∧ dst.toNat % (if dt.isSome then 64 else r.e.esz) = 0 ∧
        inTile st src.toNat r.e.srcBounds = true ∧ inTile dt dst.toNat r.e.dstBounds = true ∧ (dtile.isSome → dtile ≠ stile)
      let tiles (j : Job) : Job := { j with fill := dtile.map BitVec.toNat, readOut := stile.map BitVec.toNat }
      (∀ (rm cm : BitVec 16), lod = false → fine → jobRoom s4 = .ok () →
        s4.strayColumn (s4.partOfCtx s4.w.ctx) cm.toNat = false →
        Completes (.xcopy h false false o sc sem a b c rm cm dtile stile) h 1 16 s
          (s4.issueJob o sc [s4.tag] (tiles
            { newJob s4 (.copy srcVa dstVa r.e) 0 sem r.e.count with
              reads := span srcVa r.e.srcBounds, writes := span dstVa r.e.dstBounds }))) ∧
      (∀ (rm cm : BitVec 16), lod = false → dtile = none → src.toNat % 64 = 0 → dst.toNat % 64 = 0 →
        inTile st src.toNat r.e.srcBounds = true → 0 ≤ (dst.toNat : Int) + r.e.dstBounds.1 →
        (dst.toNat : Int) + r.e.dstBounds.2 ≤ vaultBytes →
        s4.strayColumn (s4.partOfCtx s4.w.ctx) cm.toNat = false → jobRoom s4 = .ok () →
        Completes (.xcopy h true false o sc sem a b c rm cm dtile stile) h 1 16 s
          (s4.issueJob o sc [s4.tag] (tiles
            { newJob s4 (.multicast srcVa dst.toNat r.e rm.toNat cm.toNat) 0 sem r.e.count with
              reads := span srcVa r.e.srcBounds
              writes := (maskClusters rm.toNat cm.toNat).flatMap (fun n =>
                span ((s4.vaultVa n s4.w.ctx + dst.toNat) % 2 ^ 64) r.e.dstBounds) }))) ∧
      (∀ (rm cm : BitVec 16) (bytes : List Byte) (desc : LodDesc) (s5 : State), lod = true → stile = none → fine →
        s4.strayColumn (s4.partOfCtx s4.w.ctx) cm.toNat = false → lodCopyDesc s4 src.toNat r = .ok (bytes, desc, s5) →
        jobRoom s5 = .ok () →
        -- one status byte for each page of 128 by 128 elements of the level that the rectangle meets
        let pages := ((r.x0 + r.e.n0 - 1) / 128 - r.x0 / 128 + 1) * ((r.y0 + r.e.n1 - 1) / 128 - r.y0 / 128 + 1)
        let total := r.e.count + pages
        Completes (.xcopy h false true o sc sem a b c rm cm dtile stile) h 1 16 s
          (s5.issueJob o sc [s5.tag] (tiles
            { newJob s5 (.lodCopy bytes dstVa r.e r.level r.x0 r.y0 r.statusA) 0 sem total with
              srcHome := s5.lodHomes desc (.lodCopy bytes dstVa r.e r.level r.x0 r.y0 r.statusA) r.e r.level r.x0 r.y0 total
              resource := desc.resource
              reads := [(desc.data, desc.data + desc.offset (desc.nlm1 + 1) * 65536)]
              writes := span dstVa r.e.dstBounds ++ [(r.statusA, r.statusA + pages)] })))) ∧
    (∀ (h : Hints) (o : Order) (sc : Scope) (sem : Option (BitVec 6)) (a c : SReg) (b : VReg) (count : BitVec 16)
      (esz : BitVec 2) (dt : Bool) (tile : Byte) (limit : Word) (s s1 s2 : State) (v : Nat → Word) (base dst : DWord)
      (tl : Option Tile),
      readV s b.toNat (fun l => decide (l < count.toNat)) = .ok v → readS s a = .ok (base, s1) → readS s1 c = .ok (dst, s2) →
      tileNeed? s2 (if dt then some tile else none) = .ok tl →
      let e := 2 ^ esz.toNat
      let n := count.toNat
      let dstVa := tl.elim dst.toNat (fun tl => (s2.tileBase s2.cur.1 tl + dst.toNat) % 2 ^ 64)
      base.toNat % e = 0 → dst.toNat % e = 0 → inTile tl dst.toNat (0, (n * e : Nat)) = true → jobRoom s2 = .ok () →
      Completes (.xgather h o sc sem a b c count esz dt tile limit) h 1 16 s
        (s2.issueJob o sc [s2.tag]
          { newJob s2 (.gather base.toNat dstVa e limit.toNat ((List.range n).map (fun l => (v l).toNat))) 1 sem n with
            fill := if dt then some tile.toNat else none
            reads := span base.toNat (0, (limit.toNat * e : Nat)), writes := span dstVa (0, (n * e : Nat)) }))) ∧
  (∀ (s : State) (o : Order) (sc : Scope) (j : Job), (∀ n, j.fill = some n → j.readOut ≠ some n) → j.pos = 0 →
      let t := s.issueJob o sc [s.tag] j
      let counts (ids : List Nat) (f : Op → Op) : Prop :=
        ∃ id, ids = [id] ∧ mget t.ops id = some (f { tag := s.tag, left := 1 })
      t.mem = s.mem ∧
      (∃ id j', mget t.jobs id = some j' ∧ j'.kind = j.kind ∧ j'.tags = [s.tag] ∧ j'.pos = 0 ∧ j'.flight = j.flight ∧
        j'.total = j.total ∧ j'.sem = j.sem ∧ j'.pieces ≠ [] ∧
        (if j.isPlane then j'.cpOps = [] else counts j'.cpOps (fun o => { o with cp := true })) ∧
        (if j.fill.isSome then counts j'.fillOps (fun o => { o with tl := true }) else j'.fillOps = []) ∧
        (if j.readOut.isSome then counts j'.readOps (fun o => { o with tl := true }) else j'.readOps = [])) ∧
      (∀ n tl, j.fill = some n → mget (s.cluster s.cur.1).tiles n = some tl →
        ∃ tl', mget (t.cluster s.cur.1).tiles n = some tl' ∧ tl'.state = .filling ∧ tl'.base = tl.base ∧ tl'.size = tl.size) ∧
      (∀ n tl, j.readOut = some n → mget (s.cluster s.cur.1).tiles n = some tl →
        ∃ tl', mget (t.cluster s.cur.1).tiles n = some tl' ∧ tl'.state = .draining ∧ tl'.base = tl.base))

/-- 10 R176, R177, 20 R308, R309, R315, R316: MGANG, MSTAT and MDRAIN. MGANG sets %gang to 0 or to a gang of 2 to 6 waves of the
workgroup that lists the wave, and traps with GANG_MISMATCH otherwise. MSTAT reads the flags of a bank, of the drains, or the
format and the hold, and clears the flags named. MDRAIN of a wave in no gang that holds the array issues a job over the rows of
the bank as they stand; a wave whose gang is not complete waits. Whose flags and format MSTAT reads, and what it reads of a free
array, is the model's reading (log 37), and so is that the bank is read out as MDRAIN issues (log 51). -/
def Obligations.MatrixState : Prop :=
  ∀ (h : Hints) (s : State), s.feature 1 = true →
    (∀ (a : SReg) (x : DWord) (s1 : State), readS s a = .ok (x, s1) →
      let m := x.toNat % 2 ^ 16
      let members := (List.range 16).filter (fun n => m.testBit n)
      let good : Prop := m = 0 ∨ (m.testBit s.w.wnum = true ∧ 2 ≤ members.length ∧ members.length ≤ 6 ∧
        ∀ n, n ∈ members → n < s.wg.rows.length)
      (good → Completes (.mgang h a) h 1 8 s (s1.updW (fun w => { w with gang := BitVec.ofNat 16 m }))) ∧
      (¬ good → s.curWave?.isSome → exec (.mgang h a) s = .next (s.trapped s.w h.s.toNat (s.plainRec 0x13)))) ∧
    (∀ (d : SReg) (clear : BitVec 5) (t : State),
      let mine := s.myMill s.cur.1 s.w.ctx s.w.wgslot
      let saved := s.savedMill s.cur.1 s.w.ctx s.w.wgslot
      let mill := (s.cluster s.cur.1).mill
      let clear0 (m : Mill) : Mill := { m with flags0 := m.flags0 &&& ~~~clear }
      let clear1 (m : Mill) : Mill := { m with flags1 := m.flags1 &&& ~~~clear }
      -- the flags, format and hold of the array that holds them: the workgroup's own, else its saved copy, else what stands
      (∀ m, mine = some m ∨ (mine = none ∧ saved = none ∧ mill = some m) →
        (writeS s d (BitVec.ofNat 64 m.flags0.toNat) = .ok t →
          Completes (.mstat h d 0 clear) h 1 8 s (t.setMill s.cur.1 (some (clear0 m)))) ∧
        (writeS s d (BitVec.ofNat 64 m.flags1.toNat) = .ok t →
          Completes (.mstat h d 1 clear) h 1 8 s (t.setMill s.cur.1 (some (clear1 m))))) ∧
      (∀ m, mine = none → saved = some m →
        let cleared (f : Mill → Mill) : State := { t with ctxs := mupd t.ctxs s.w.ctx (fun c =>
          { c with mills := c.mills.map (fun x => if x.1 == s.cur.1 && x.2.wgslot == s.w.wgslot then (x.1, f x.2) else x) }) }
        (writeS s d (BitVec.ofNat 64 m.flags0.toNat) = .ok t → Completes (.mstat h d 0 clear) h 1 8 s (cleared clear0)) ∧
        (writeS s d (BitVec.ofNat 64 m.flags1.toNat) = .ok t → Completes (.mstat h d 1 clear) h 1 8 s (cleared clear1))) ∧
      (∀ m, mine = some m → writeS s d (BitVec.ofNat 64 (m.fmtByte.toNat + 256 * m.kbm1 + 65536)) = .ok t →
        Completes (.mstat h d 3 clear) h 1 8 s t) ∧
      (∀ m, mine = none → saved = some m ∨ (saved = none ∧ mill = some m) →
        writeS s d (BitVec.ofNat 64 (m.fmtByte.toNat + 256 * m.kbm1)) = .ok t → Completes (.mstat h d 3 clear) h 1 8 s t) ∧
      (mine = none → saved = none → mill = none →
        (∀ sel : BitVec 2, sel.toNat < 2 → writeS s d 0 = .ok t →
          Completes (.mstat h d sel clear) h 1 8 s (t.setMill s.cur.1 none)) ∧
        (writeS s d 0xB0A = .ok t → Completes (.mstat h d 3 clear) h 1 8 s t)) ∧
      (writeS s d (BitVec.ofNat 64 s.w.drainFlags.toNat) = .ok t →
        Completes (.mstat h d 2 clear) h 1 8 s (t.updW (fun w => { w with drainFlags := w.drainFlags &&& ~~~clear })))) ∧
    (∀ (add : Bool) (o : Order) (sc : Scope) (d : Bank) (a b : SReg) (sem : Option (BitVec 6)) (ofmt : ElemFmt) (mm1 : Byte)
      (dt : Bool) (dtile : Byte) (x st : DWord) (s1 s2 : State) (base : Nat) (m : Mill),
      let rows := mm1.toNat + 1
      readS s a = .ok (x, s1) → readS s1 b = .ok (st, s2) →
      drainBase s2 dt dtile x st rows (256 * efSize ofmt) = .ok base → jobRoom s2 = .ok () → s2.loneMill m →
      let s3 := s2.pastLatch
      let foot := span base (min 0 (st.toInt * mm1.toNat), max 0 (st.toInt * mm1.toNat) + (256 * efSize ofmt : Nat))
      ∃ bank, (∀ i, mgetD bank i 0 = if i < 256 * rows then mgetD m.banks (65536 * bankNumber d + i) 0 else 0) ∧
        CompletesAt (.mdrain h add o sc d a b sem ofmt mm1 dt dtile) h { floor := 6, count := (rows + 15) / 16, pass := 369 } 16 s
          (s3.issueJob o sc [s3.tag]
            { newJob s3 (.drain base st.toInt rows add ofmt bank) 2 sem (256 * rows) with
              fill := if dt then some dtile.toNat else none, reads := if add then foot else [], writes := foot })) ∧
    (∀ (add : Bool) (o : Order) (sc : Scope) (d : Bank) (sem : Option (BitVec 6)) (ofmt : ElemFmt) (mm1 : Byte) (n row : Nat)
      (base : Nat), drainBase s false 0 0 0 (mm1.toNat + 1) (256 * efSize ofmt) = .ok base → jobRoom s = .ok () →
      s.curWave?.isSome → s.w.gang ≠ 0 → n < 16 → n ≠ s.w.wnum → s.w.gang.getLsbD n = true →
      (∀ j, j ≠ s.w.wnum → s.w.gang.getLsbD j = true → s.wg.exited.contains j = false) →
      s.wg.rows[n]? = some row → (∀ w, s.waveAt? s.cur.1 row = some w → w.arrived = none) →
      let i : Instr := .mdrain h add o sc d .zs .zs sem ofmt mm1 false 0
      exec i s = .next ((s.failStrays.arriveLatch i).holding .sync))

/-- 20 R308, R310 to R314: MWLOAD and MMUL of a wave in no gang that holds the array, from their first row. MWLOAD latches
the format, loads the weights and scales of KB blocks and leaves the rest zero and the banks alone. MMUL folds each
row's block values into the row of its bank, from zero or from what stands there, and raises the flags of that bank
alone.

20 R311, R312: aligned elements stay within their width, and a block's value where an element or a scale is no number,
where an infinity meets a zero or infinities of both signs meet, where all infinities agree, and where the sum is
zero. That a signalling NaN raises NV is the model's reading (log 36), and so is that the operands' lines move with the
instruction (log 27). -/
def Obligations.MatrixArrays : Prop :=
  (∀ (h : Hints) (a b c : SReg) (f : Fmt) (scf : ScaleFmt) (kbm1 : BitVec 4) (ta : Bool) (tile : Byte) (s s1 s2 s3 : State)
      (x st sc : DWord) (base : Nat) (m : Mill),
      let kb := kbm1.toNat + 1
      let s4 := s3.pastLatch
      s.feature 1 = true → (∀ i, formatOn s f i = .ok ()) → readS s a = .ok (x, s1) → readS s1 b = .ok (st, s2) →
      readS s2 c = .ok (sc, s3) → s3.loneMill m → s4.quietOperands → s.w.rows = 0 →
      (∀ (W S : Nat → List Byte) (R Q : Nat → List Run),
        let s5 := s4.charge (lineUses ((List.range kb).flatMap (fun b =>
          (List.range 24).flatMap (fun k => R (24 * b + k)) ++ Q b)))
        operandBase s3 ta tile x st (24 * kb) (fmtBytes f 256) = .ok base →
        (∀ k, k < 24 * kb → s4.operandIs s5 (addr base (st.toInt * k)) (fmtBytes f 256) (R k) (W k)) →
        (scf = .nosc → ∀ n, Q n = [] ∧ S n = []) →
        (scf ≠ .nosc → ∀ n, n < kb → s4.operandIs s5 ((sc.toNat + 256 * n) % 2 ^ 64) 256 (Q n) (S n)) →
        ∃ q, CompletesAt (.mwload h a b c f scf kbm1 ta tile) h { floor := 6, count := kb, pass := fmtUnits f } 16 s
            ((s5.setMill s5.cur.1 (some q)).updW (fun w => { w with rows := 0 })) ∧
          q.fmtByte = formatByte f scf ∧ q.kbm1 = kbm1.toNat ∧ q.fixed = [] ∧ q.banks = m.banks ∧ q.flags0 = m.flags0 ∧ q.flags1 = m.flags1 ∧
          (∀ k n, n < 256 → mgetD q.weights (256 * k + n) 0 = if k < 24 * kb then (codesOf f (W k)).getD n 0 else 0) ∧
          (∀ k n, n < 256 → mgetD q.scales (256 * k + n) 0 = if k < kb then ((S k).map BitVec.toNat).getD n 0 else 0)) ∧
      (∀ (d : Bank) (mm1 : Byte) (accum : Bool) (A S : Nat → List Byte) (R Q : Nat → List Run),
        let rows := mm1.toNat + 1
        let s5 := s4.charge (lineUses ((List.range rows).flatMap (fun r => R r ++ Q r)))
        let col (r n : Nat) : Word × FFlags := mulColumn m f (rowBlocks f scf kb (A r) (S r)) n
          (if accum then mgetD m.banks (65536 * bankNumber d + 256 * r + n) 0 else 0)
        operandBase s3 ta tile x st rows (fmtBytes f (24 * kb)) = .ok base →
        (∀ r, r < rows → s4.operandIs s5 (addr base (st.toInt * r)) (fmtBytes f (24 * kb)) (R r) (A r)) →
        (scf = .nosc → ∀ r, Q r = [] ∧ S r = []) →
        (scf ≠ .nosc → ∀ r, r < rows → s4.operandIs s5 ((sc.toNat + 12 * r) % 2 ^ 64) kb (Q r) (S r)) →
        ∃ q, CompletesAt (.mmul h d a b c f scf mm1 kbm1 accum ta tile) h
            { floor := 6, count := rows, pass := max (fmtUnits f) (fmtUnits (formatOf m.fmtByte).1) } 16 s
            ((s5.setMill s5.cur.1 (some q)).updW (fun w => { w with rows := 0 })) ∧
          q.fmtByte = m.fmtByte ∧ q.kbm1 = m.kbm1 ∧ q.weights = m.weights ∧ q.scales = m.scales ∧ q.fixed = m.fixed ∧
          (∀ r n, r < rows → n < 256 → mgetD q.banks (65536 * bankNumber d + 256 * r + n) 0 = (col r n).1) ∧
          (∀ key, key < 65536 * bankNumber d ∨ 65536 * bankNumber d + 256 * rows ≤ key → mgetD q.banks key 0 = mgetD m.banks key 0) ∧
          q.bankFlags (bankNumber d) = (List.range rows).foldl (fun fl r =>
            (List.range 256).foldl (fun fl n => fl ||| (col r n).2) fl) (m.bankFlags (bankNumber d)) ∧
          q.bankFlags (1 - bankNumber d) = m.bankFlags (1 - bankNumber d))) ∧
  ((∀ (f : Fmt) (xs : List FVal), (blockAlign f xs).1.length = xs.length ∧
      ∀ q, q ∈ (blockAlign f xs).1 → q.natAbs < 2 ^ (alignF f - 1).toNat) ∧
    (∀ (fa fw : Fmt) (a w : List FVal) (sa sw : Option (Nat × Int)), a.length = w.length →
      let v := blockValue fa fw a w sa sw
      (sa = none ∨ sw = none ∨ (∃ x, (x ∈ a ∨ x ∈ w) ∧ x.isNaN = true) →
        v = (nanF32, if (a ++ w).any FVal.isSNaN then flNV else 0)) ∧
      (∀ m1 e1 m2 e2, sa = some (m1, e1) → sw = some (m2, e2) → (∀ x, x ∈ a ∨ x ∈ w → x.isNaN = false) →
        let term (p : FVal × FVal) : Term := blockTerm (m1 == 0 || m2 == 0) p.1 p.2
        (Term.nan ∈ (a.zip w).map term ∨ (Term.inf true ∈ (a.zip w).map term ∧ Term.inf false ∈ (a.zip w).map term) →
          v = (nanF32, flNV)) ∧
        (Term.nan ∉ (a.zip w).map term → Term.inf true ∉ (a.zip w).map term → Term.inf false ∈ (a.zip w).map term →
          v = (0x7F800000, 0)) ∧
        (Term.nan ∉ (a.zip w).map term → Term.inf false ∉ (a.zip w).map term → Term.inf true ∈ (a.zip w).map term →
          v = (0xFF800000, 0)) ∧
        ((∀ p, p ∈ a.zip w → term p = .fine) → (∀ x, x ∈ a → x.isZero = true) → v = (0, 0)))) ∧
    (∀ (x y : Bool) (n : Bool) (mm : Nat) (e : Int), blockTerm true (.inf x) (.inf y) = .nan ∧
      blockTerm false (.inf x) (.inf y) = .inf (x != y) ∧ blockTerm false (.inf x) (.fin n 0 e) = .nan ∧
      (mm ≠ 0 → blockTerm false (.inf x) (.fin n mm e) = .inf (x != n) ∧ blockTerm false (.fin n mm e) (.inf x) = .inf (n != x))))

/-- 10 R172, R173, 22 R318, R319, R322, R323: cell arithmetic of a workgroup that holds the plane, in its turn, writes the
executing cells and raises their flags, and charges its plane steps, and waits while the plane is another's; PEVAL evaluates its form in every executing cell; PCFG sets the extent. A wave whose
workgroup does not hold the plane traps as ILLEGAL. -/
def Obligations.PlaneArithmetic : Prop :=
  (∀ (i : Instr) (r : PlaneRule) (s : State) (p : Plane) (m : Mask),
    planeRule i = some r → s.feature 0 = true → s.myPlane = some p → planeFree s = .ok () → readK s r.k = .ok m →
    ∃ q, CompletesAt i r.h { floor := 5, count := r.steps, plane := true } 8 s (s.setPlane s.cur.1 (some q)) ∧ p.setTo q m r.d (r.cell p)) ∧
  (∀ (i : Instr) (r : PlaneRule) (s : State), planeRule i = some r → s.feature 0 = true → s.myPlane = none → s.curWave?.isSome →
    exec i s = .next (s.trapped s.w r.h.s.toNat { s.plainRec 0x10 with info := ((encode i).headD 0).toNat })) ∧
  -- an instruction of a higher sector has taken the plane in this cycle, or one of another wave has begun its steps
  (∀ (i : Instr) (r : PlaneRule) (s : State) (turn : PlaneTurn),
    planeRule i = some r → s.myPlane.isSome → s.curWave?.isSome → (s.cluster s.cur.1).planeTurn = some turn →
    (turn.time = s.now ∧ s.cur.2 / 16 < turn.sector) ∨
      (∃ row w, turn.begun = some row ∧ row ≠ s.cur.2 ∧ s.waveAt? s.cur.1 row = some w ∧ w.paid ≠ 0) →
    exec i s = .next (s.holding .dep)) ∧
  (∀ (h : Hints) (k : KReg) (form : PForm) (add : Bool) (d : PReg) (a b c : SReg) (ox oy : BitVec 16) (s s1 s2 s3 : State)
    (p : Plane) (m : Mask) (ab cd ef : DWord),
    s.feature 0 = true → s.myPlane = some p → planeFree s = .ok () → readK s k = .ok m →
    readS s a = .ok (ab, s1) → readS s1 b = .ok (cd, s2) →
    (form = .lin → ef = 0 ∧ s3 = s2) → (form ≠ .lin → readS s2 c = .ok (ef, s3)) →
    let q : Coefs :=
      { a := ab.extractLsb' 0 32, b := ab.extractLsb' 32 32, c := cd.extractLsb' 0 32, d := cd.extractLsb' 32 32
        e := ef.extractLsb' 0 32, f := ef.extractLsb' 32 32 }
    ∃ p', CompletesAt (.peval h k form add d a b c ox oy) h
        { floor := 5, count := (if form = .expq then 2 else 1) + (if add then 1 else 0), plane := true } 16 s (s3.setPlane s3.cur.1 (some p')) ∧
      p.setTo p' m d (fun n =>
        let r := evalCell form q ox oy n
        if add then ((planeAdd (p.cell d n) r.1).1, (planeAdd (p.cell d n) r.1).2 ||| r.2) else r)) ∧
  (∀ (h : Hints) (k : KReg) (wm1 hm1 : BitVec 6) (s : State) (p : Plane) (m : Mask),
    s.feature 0 = true → s.myPlane = some p → planeFree s = .ok () → readK s k = .ok m →
    CompletesAt (.pcfg h k wm1 hm1) h { floor := 5, plane := true } 12 s (s.setPlane s.cur.1 (some { p with wm1 := wm1, hm1 := hm1 })))

/-- 22 R324, R325: PIF pushes the enables and goes on with the executing cells that take the branch, PELSE turns to the
cells that did not, PEND restores; PIF on a stack of eight entries and PELSE and PEND on an empty one trap with
PLANE_DEPTH, nothing changed.

22 R326: PRED folds the executing cells in ascending order of y and then of x into a scalar, PROW folds each row into
lanes 0 to 63 and each column into lanes 64 to 127; an empty fold gives the identity; each cell raises the flags of
its own steps. -/
def Obligations.PlaneEnables : Prop :=
  (∀ (h : Hints) (k : KReg) (s : State) (p : Plane) (m : Mask),
      s.feature 0 = true → s.myPlane = some p → planeFree s = .ok () → readK s k = .ok m →
      (∀ (pr : FloatPred) (a b : PReg), p.stack.length < 8 →
        ∃ q, CompletesAt (.pif h k pr a b) h { floor := 5, plane := true } 8 s (s.setPlane s.cur.1 (some q)) ∧ p.sameForm q ∧ q.cells = p.cells ∧
          (∀ c, c < 4096 → q.enable.getLsbD c = (p.runs m c && (f32cmp pr (p.cell a c) (p.cell b c)).1)) ∧
          q.stack = (p.enable, q.enable) :: p.stack ∧
          (∀ c, mgetD q.flags c 0 = mgetD p.flags c 0 ||| (if p.runs m c then (f32cmp pr (p.cell a c) (p.cell b c)).2 else 0))) ∧
      (∀ (pr : FloatPred) (a b : PReg), 8 ≤ p.stack.length → s.curWave?.isSome →
        exec (.pif h k pr a b) s = .next (s.trapped s.w h.s.toNat (s.plainRec 0x14))) ∧
      (∀ o t rest, p.stack = (o, t) :: rest →
        (∃ q, CompletesAt (.pelse h k) h { floor := 5, plane := true } 8 s (s.setPlane s.cur.1 (some q)) ∧
          q = { p with enable := q.enable, stack := (o, BitVec.allOnes 4096) :: rest } ∧
          ∀ c, c < 4096 → q.enable.getLsbD c =
            (o.getLsbD c && !t.getLsbD c && m.getLsbD (c / 64) && m.getLsbD (64 + c % 64))) ∧
        CompletesAt (.pend h k) h { floor := 5, plane := true } 8 s (s.setPlane s.cur.1 (some { p with enable := o, stack := rest }))) ∧
      (p.stack = [] → s.curWave?.isSome →
        exec (.pelse h k) s = .next (s.trapped s.w h.s.toNat (s.plainRec 0x14)) ∧
        exec (.pend h k) s = .next (s.trapped s.w h.s.toNat (s.plainRec 0x14)))) ∧
  (∀ (h : Hints) (k : KReg) (op : PlaneRed) (a : PReg) (s : State) (p : Plane) (m : Mask),
      s.feature 0 = true → s.myPlane = some p → planeFree s = .ok () → readK s k = .ok m →
      let folded (take : Nat → Bool) : Word := (planeAcc op (p.valuesBelow a take 4096)).getD (planeIdentity op)
      let raised (take : Nat → Bool) (c : Nat) : FFlags :=
        if take c then planeStepFlags op (p.valuesBelow a take c) (p.cell a c) else 0
      let row (y c : Nat) : Bool := p.runs m c && c / 64 == y
      let col (x c : Nat) : Bool := p.runs m c && c % 64 == x
      (∃ fl, (∀ c, mgetD fl c 0 = mgetD p.flags c 0 ||| raised (p.runs m) c) ∧
        ∀ d t, writeS (s.setPlane s.cur.1 (some { p with flags := fl })) d ((folded (p.runs m)).zeroExtend 64) = .ok t →
          CompletesAt (.pred h k op d a) h { floor := 5, count := 4, plane := true } 8 s t) ∧
      (∃ fl, (∀ c, mgetD fl c 0 = mgetD p.flags c 0 ||| raised (row (c / 64)) c ||| raised (col (c % 64)) c) ∧
        ∀ d t, writeV (s.setPlane s.cur.1 (some { p with flags := fl })) d.toNat
            (fun l => some (if l < 64 then folded (row l) else folded (col (l - 64)))) = .ok t →
          CompletesAt (.prow h k op d a) h { floor := 5, count := 4, plane := true } 8 s t))

/-- 10 R173, 22 R319, R327, R328: PLD issues a transfer that reads the elements of the executing cells, a step for every 16 rows
of the extent, which are charged as the rows are read (log 20); an element that has been read lands in its cell, its flags
raised. PST reads its cells as it issues and converts them, raising their flags, and its writes
perform later. Both transfers hold the tile, and no byte of memory changes as they issue.

22 R329 to R331: BINAPP at issue sends its active lanes to the home of its header, nine to a packet, of which the last has them
applied (log 113); there a lane whose box touches no
tile appends nothing, a lane one of whose tiles is full is refused and counted in FAILS, which saturates, and a lane
whose box lies in one tile with room appends its entry there, counts it and takes the next sequence number. -/
def Obligations.PlaneMemory : Prop :=
  (∀ (h : Hints) (k : KReg) (d : PReg) (a b : SReg) (tile : Byte) (ef : ElemFmt) (s s1 s2 : State) (p : Plane) (m : Mask)
      (off pitch : DWord) (base : Nat),
      s.feature 0 = true → s.myPlane = some p → planeFree s = .ok () → readK s k = .ok m →
      readS s a = .ok (off, s1) → readS s1 b = .ok (pitch, s2) →
      planeRect s2 p tile off pitch ef = .ok (base, pitch.toNat) → jobPlace s2 = .ok () →
      let at' (c : Nat) : Nat := (base + c / 64 * pitch.toNat + c % 64 * efSize ef) % 2 ^ 64
      let steps := (p.hm1.toNat + 16) / 16
      let cost (n : Nat) : Cost := { floor := 5, count := n, plane := true }
      let cs := (List.range 4096).filter (p.runs m)
      let job (kind : JobKind) : Job :=
        { kind := kind, code := 5, tags := [], iaddr := s.w.pc, sem := none, total := cs.length, pieces := [] }
      (let t := s2.issueJob .rlx .wave [s2.tag]
          { job (.planeLoad (cs.map (fun c => (at' c, 4096 * d.toNat + c))) ef) with
            steps := steps, stepUnit := (cost 1).unit h
            readOut := some tile.toNat, reads := p.rectRange base pitch.toNat ef }
       CompletesAt (.pld h k d a b tile ef) h (cost 0) 16 s t ∧ t.mem = s.mem) ∧
      (let conv (c : Nat) : Nat × FFlags := fconvert (efFormat ef) .rne false (f32val (p.cell d c))
       ∃ fl, (∀ c, mgetD fl c 0 = mgetD p.flags c 0 ||| (if p.runs m c then (conv c).2 else 0)) ∧
         (let t := (s2.setPlane s2.cur.1 (some { p with flags := fl })).issueJob .rlx .wave [s2.tag]
             { job (.store (cs.map (fun c => (at' c, natToBytes (efSize ef) (conv c).1)))) with
               fill := some tile.toNat, writes := p.rectRange base pitch.toNat ef }
          CompletesAt (.pst h k d a b tile ef) h (cost steps) 16 s t ∧ t.mem = s.mem))) ∧
  (∀ (s : State) (t : WTag) (cell : Nat) (ef : ElemFmt) (cells : List (Nat × Nat)) (bs : List Byte) (p : Plane),
      s.wgEntry t.cl t.ctx t.wgslot .plane = none → (s.cluster t.cl).plane = some p → p.ctx = t.ctx → p.wgslot = t.wgslot →
      let x := loadElement ef (bytesToNat bs)
      let got := (JobKind.planeLoad cells ef).taken bs
      ∃ q, s.landCell t cell got.1 got.2 = some (s.setPlane t.cl (some q)) ∧ p.sameForm q ∧ p.sameEnables q ∧
        mgetD q.cells cell 0 = x.1 ∧ (∀ n, n ≠ cell → mgetD q.cells n 0 = mgetD p.cells n 0) ∧
        (∀ c, mgetD q.flags c 0 = mgetD p.flags c 0 ||| (if c = cell % 4096 then x.2 else 0))) ∧
  ((∀ (h : Hints) (k d : KReg) (a b : VReg) (c : SReg) (ts : BitVec 2) (s s1 : State) (p : Plane) (m : Mask)
      (lo hi pay : Nat → Word) (x : DWord) (pa attr : Nat) (q : BinHeader),
      s.feature 0 = true → s.myPlane = some p → readK s k = .ok m → readV s a.toNat (fun l => m.getLsbD l) = .ok lo →
      readV s (a.toNat + 1) (fun l => m.getLsbD l) = .ok hi → readV s b.toNat (fun l => m.getLsbD l) = .ok pay → readS s c = .ok (x, s1) → s1.owed = [] → x.toNat % 64 = 0 →
      s1.checkAccess s1.cur.1 s1.w.ctx x.toNat 64 .atomic none = .ok (pa, attr) → sliceHomed pa = true → s1.poisoned pa 64 = false →
      accessTurn s1 pa 64 true = .ok () → binHeaderOf (memRead s1.mem pa 64) = some q →
      s1.rangeFault s1.cur.1 s1.w.ctx (pagesOf q.cntBytes) q.cnt q.cntBytes = none →
      s1.rangeFault s1.cur.1 s1.w.ctx (pagesOf q.binBytes) q.bins q.binBytes = none → counterRoom s1 Op.ld = .ok () →
      ∃ t id pk acc, Completes (.binapp h k d a b c ts) h 5 16 s t ∧ t.mem = s.mem ∧ mget t.packets id = some pk ∧ pk.kind = 3 ∧
        pk.body = .access acc ∧ acc.kind = .binapp ∧ acc.pa = pa ∧ acc.dest = .mask d.toNat ∧ acc.data = ts.toNat ∧
        acc.lanes = ((List.range 128).filter (fun l => m.getLsbD l)).map (fun l => (l, (lo l).toNat, (hi l).toNat, (pay l).toNat)) ∧
        -- what its home will touch besides the header, page by page
        acc.spans = s1.pageSpans s1.cur.1 s1.w.ctx (pagesOf q.cntBytes) q.cnt q.cntBytes ++
          s1.pageSpans s1.cur.1 s1.w.ctx (pagesOf q.binBytes) q.bins q.binBytes ∧
        -- what must perform before it, and the packets that the wave awaits
        acc.after = acc.spans.flatMap (fun x => s1.ownOverlap x.2.1 x.2.2) ++ s1.acquiredAfter ∧
        ∃ o, mget t.ops acc.op = some o ∧ o.tag = s1.tag ∧ o.ld = true ∧ o.left = (acc.lanes.length - 1) / 9 + 1) ∧
    (∀ (s : State) (t : WTag) (pa ts lo hi pay : Nat) (q : BinHeader), binHeaderOf (memRead s.mem pa 64) = some q →
      let x0 := lo % 2 ^ 16
      let y0 := lo / 2 ^ 16
      let x1 := hi % 2 ^ 16
      let y1 := hi / 2 ^ 16
      let side := 2 ^ (ts + 3)
      (x1 < x0 ∨ y1 < y0 ∨ q.tw ≤ x0 / side ∨ q.th ≤ y0 / side → s.binLane t pa ts lo hi pay = .ok (false, s)) ∧
      (x0 ≤ x1 → y0 ≤ y1 → x0 / side = x1 / side → y0 / side = y1 / side → x0 / side < q.tw → y0 / side < q.th →
        let n := y0 / side * q.tw + x0 / side
        ∀ count s0, s.binRead t ((q.cnt + 4 * n) % 2 ^ 64) 4 = .ok (count, s0) →
          (q.cap ≤ count → s.binLane t pa ts lo hi pay =
            .ok (true, s0.homeStore (pa + 28) (natToBytes 4 (min (q.fails + 1) (2 ^ 32 - 1))))) ∧
          (∀ s1 s2, count < q.cap →
            s0.binWrite t ((q.bins + (n * q.cap + count) * 8) % 2 ^ 64) 8 (pay * 2 ^ 32 + q.seq) = .ok s1 →
            s1.binWrite t ((q.cnt + 4 * n) % 2 ^ 64) 4 (count + 1) = .ok s2 →
            s.binLane t pa ts lo hi pay = .ok (false, s2.homeStore (pa + 24) (natToBytes 4 ((q.seq + 1) % 2 ^ 32)))))))

/-- 24 R334, R336: RBOX and RTRI of a wave whose active lanes hold aligned addresses put one request in flight for each; a
lane whose address is not a multiple of 128, or of 16, faults as MISALIGNED before any is sent. 24 R337, R338: what a
box result holds; a ray or a box with a NaN is a miss, and so is a triangle record with a value that is not finite.

24 R339, R340: RSTART gives each active lane a stack, RPUSH and RPOP act on the lanes' stacks in ascending order, and
RSTOP frees them. A push on a handle that names no stack of the workgroup, or whose stack is full, fails; a pop of
such a handle gives 0; what is pushed is what a pop gives back. -/
def Obligations.TraversalInstructions : Prop :=
  ((∀ (h : Hints) (tri : Bool) (k : KReg) (d a b : VReg) (s : State) (m : Mask) (at' : Nat → Nat) (ray : List (Nat → Word)),
      let i : Instr := if tri then .rtri h k d a b else .rbox h k d a b
      let n := if tri then 4 else 2
      let align := if tri then 16 else 128
      let lanes := (List.range 128).filter (fun l => m.getLsbD l)
      let act (l : Nat) : Bool := m.getLsbD l
      s.feature 2 = true → readK s k = .ok m → readVW s true a.toNat act = .ok at' →
      ray.length = 8 → (∀ j, j < 8 → readV s (b.toNat + j) act = (ray[j]?).elim (.error (.held .dep id)) .ok) →
      (∀ j, j < n → targetV s (d.toNat + j) act = .ok ()) →
      ((∀ l, l ∈ lanes → at' l % align = 0) → lanes ≠ [] → afterAll s (s.orderAfter false) = .ok () →
        ∃ t op, Completes i h 7 8 s t ∧ t.mem = s.mem ∧
          mget t.ops op = some { tag := s.tag, left := lanes.length, owed := (List.range n).map (fun j => .v (d.toNat + j)) } ∧
          (∀ l, l ∈ lanes → ∃ id, mget t.traversals id = some
            { op := op, tag := s.tag, triangle := tri, lane := l, dst := d.toNat, addr := at' l
              ray := ray.map (fun f => f l), iaddr := s.w.pc
              after := s.ownWrites (at' l) (nodeBytes tri) ++ s.acquiredAfter })) ∧
      (m = 0 → afterAll s (s.orderAfter false) = .ok () → Completes i h 7 8 s s) ∧
      (∀ l, l ∈ lanes → at' l % align ≠ 0 → (∀ j, j ∈ lanes → j < l → at' j % align = 0) → s.curWave?.isSome →
        exec i s = .next (s.trapped s.w h.s.toNat
          (s.memRec causeMisaligned .read (at' l) (maskOf (fun j => m.getLsbD j && at' j % align != 0)))))) ∧
    (∀ (ray node : List Word),
      let hit (b : Nat) : Option Word := rayBox ray ((node.drop (6 * b)).take 6)
      let hits := (List.range 4).filter (fun b => (hit b).isSome)
      let r := boxResult ray node
      r.length = 2 ∧ (∀ b, b < 4 → (r.getD 0 0).getLsbD b = (hit b).isSome) ∧
        ((r.getD 0 0).toNat / 2 ^ 12 = hits.length) ∧ (hits = [] → r = [0, 0x7F800000]) ∧
        (hits ≠ [] → ∃ b, b ∈ hits ∧ hit b = some (r.getD 1 0) ∧ (r.getD 0 0).toNat / 16 % 4 = b ∧
          ∀ c e, c ∈ hits → hit c = some e → fvalLt (f32val e) (f32val (r.getD 1 0)) = false)) ∧
    (∀ (ray box : List Word) (w : Word), (w ∈ ray ∨ w ∈ box) → (f32val w).isNaN = true → rayBox ray box = none) ∧
    (∀ (ray tri : List Word) (n : Nat), (n < 6 ∧ (wordVal ray n).isFin = false) ∨ (n < 9 ∧ (wordVal tri n).isFin = false) →
      triResult ray tri = [0xFFFFFFFF, 0x7F800000, 0, 0])) ∧
  ((∀ (h : Hints) (k : KReg) (s : State) (m : Mask), s.feature 2 = true → readK s k = .ok m →
      let lanes := (List.range 128).filter (fun l => m.getLsbD l)
      let act (l : Nat) : Bool := m.getLsbD l
      (∀ (d a : VReg) (c : KReg) (hs : Nat → Word) (xs : Nat → Nat) (out : List (Nat × Word × Bool)) (s1 s2 t : State),
        readV s d.toNat act = .ok hs → readVW s true a.toNat act = .ok xs →
        stackLanes (fun s l => pushLane s (hs l) (BitVec.ofNat 64 (xs l))) s lanes = (out, [], s1) →
        writeV s1 d.toNat (fun l => (laneOf out l).map Prod.fst) = .ok s2 →
        writeK s2 c (maskOf (fun l => ((laneOf out l).map Prod.snd).getD false)) = .ok t →
        Completes (.rpush h k d a c) h 1 8 s t) ∧
      (∀ (d a : VReg) (hs : Nat → Word) (out : List (Nat × Option Word × DWord)) (s1 s2 t : State),
        readV s a.toNat act = .ok hs → stackLanes (fun s l => popLane s (hs l)) s lanes = (out, [], s1) →
        writeVW s1 true d.toNat (fun l => (laneOf out l).map (fun e => e.2.toNat)) = .ok s2 →
        writeV s2 a.toNat (fun l => (laneOf out l).bind Prod.fst) = .ok t → Completes (.rpop h k d a) h 1 8 s t) ∧
      -- an access to a stack's area that fails: nothing is pushed, and the record names every lane whose access fails
      (∀ (d a : VReg) (c : KReg) (hs : Nat → Word) (xs : Nat → Nat) (out : List (Nat × Word × Bool)) (l cause va : Nat)
        (bad : List (Nat × Nat × Nat)) (s1 : State), s.curWave?.isSome →
        readV s d.toNat act = .ok hs → readVW s true a.toNat act = .ok xs →
        stackLanes (fun s l => pushLane s (hs l) (BitVec.ofNat 64 (xs l))) s lanes = (out, (l, cause, va) :: bad, s1) →
        exec (.rpush h k d a c) s = .next ((s.hwFault s.cur.1 s.w.ctx cause va 3 0 s.w.pc).trapped s.w h.s.toNat
          { s.plainRec cause with access := 3, vaddr := va, lanes := maskOf (fun i => i == l || bad.any (fun x => x.1 == i)) })) ∧
      (∀ (d : VReg) (hs : Nat → Word) (got : List (Nat × Nat)) (t : State), readV s d.toNat act = .ok hs →
        claimStacks (s.cluster s.cur.1) (fun l => (s.stackOf (hs l)).map (fun x => x.1.stack)) lanes
          ((s.cluster s.cur.1).away.flatMap (fun a => if a.2.wg.ctx == s.w.ctx then a.2.rayStacks.map Prod.fst else [])) = some got →
        writeV (got.foldl (fun s' e => s'.setStack e.2 { ctx := s.w.ctx, wgslot := s.w.wgslot, chip := [] }) s) d.toNat
          (fun l => (laneOf got l).map (fun n => BitVec.ofNat 32 (2 ^ 31 + n))) = .ok t →
        Completes (.rstart h k d) h 1 8 s t) ∧
      (∀ (d : VReg) (hs : Nat → Word) (t : State), (∀ x, x ∈ s.traversals → x.2.tag ≠ s.tag) →
        (∀ r, r ∈ s.w.held → r.job ≠ 3) → readV s d.toNat act = .ok hs →
        let mine := lanes.filterMap (fun l => (s.stackOf (hs l)).map (fun x => (l, x.1.stack)))
        writeV (s.setCluster s.cur.1 { s.cluster s.cur.1 with rayStacks := (mine.map Prod.snd).foldl mdel (s.cluster s.cur.1).rayStacks })
          d.toNat (fun l => (laneOf mine l).map (fun _ => 0)) = .ok t →
        Completes (.rstop h k d) h 1 8 s t)) ∧
    (∀ (s : State) (w : Word) (x : DWord), s.stackOf w = none →
      pushLane s w x = .ok ((w, true), s) ∧ popLane s w = .ok ((none, 0), s)) ∧
    (∀ (s : State) (w : Word) (x : DWord) (h : RayHandle) (k : RayStack), s.stackOf w = some (h, k) → 512 ≤ h.depth →
      pushLane s w x = .ok ((w, true), s)) ∧
    (∀ (s s1 : State) (h : RayHandle) (w' : Word) (x : DWord) (k : RayStack),
      h.stack < 1024 → h.spill ≤ 27 → h.chip ≤ 64 → h.valid = true → s.stackOf h.word = some (h, k) → k.chip.length = h.chip →
      pushLane s h.word x = .ok ((w', false), s1) →
      ∃ w'' s2, popLane s1 w' = .ok ((some w'', x), s2) ∧ (rayHandleOf w'').depth = h.depth ∧ (rayHandleOf w'').stack = h.stack))

/-- 11 R197, R198, 24 R342 to R345, 09 R159: CSRR, CSRW, FEAT and HALT. Reads of the special registers; writes of those that can
be written, with their read-only fields as they were; feature leaves; HALT of firmware's wave, and outside context 0 ILLEGAL. -/
def Obligations.SystemRegisters : Prop :=
  (∀ (h : Hints) (c : Csr) (s t : State),
    (∀ r, (c = .pflags → flagsRaised s = .ok ()) → writeS s r (s.readCsr c) = .ok t → Completes (.csrr h (.sreg r) c) h 0 8 s t) ∧
    (∀ r : VReg, writeV s r.toNat (fun l => some (BitVec.ofNat 32 l)) = .ok t → Completes (.csrr h (.vreg r) .lane) h 0 8 s t) ∧
    (∀ a x s1, (c = .pflags → flagsRaised s = .ok ()) → readS s a = .ok (x, s1) → Completes (.csrw h c a) h 0 8 s (s1.writeCsr c x))) ∧
  (∀ (s : State), s.readCsr .ctx = BitVec.ofNat 64 s.w.ctx ∧ s.readCsr .wave = BitVec.ofNat 64 (s.w.stage * 256 + s.w.wnum) ∧
    s.readCsr .gang = s.w.gang.zeroExtend 64 ∧ s.readCsr .phase = s.w.phase.zeroExtend 64 ∧ s.readCsr .tvec = s.w.tvec ∧
    s.readCsr .tepc = s.w.tepc ∧ s.readCsr .rowProgress = s.w.rows.zeroExtend 64 ∧ s.readCsr .fflags = s.w.fflags ∧
    (s.readCsr .tstat).toNat = (if s.w.intrap then 256 else 0) + s.w.cause.toNat ∧
    s.readCsr .wgid = BitVec.ofNat 64 (s.wg.z % 2 ^ 16 * 2 ^ 32 + s.wg.y % 2 ^ 16 * 2 ^ 16 + s.wg.x % 2 ^ 16)) ∧
  (∀ (s : State) (x : DWord), s.curWave?.isSome →
    (s.writeCsr .tvec x).w.tvec = x &&& 0xFFFFFFFFFFFFFFFD ∧ (s.writeCsr .tepc x).w.tepc = x &&& 0xFFFFFFFFFFFFFFFC ∧
    (s.writeCsr .rowProgress x).w.rows = x.extractLsb' 0 32 ∧
    (s.writeCsr .fflags x).w.fflagsEn = x.extractLsb' 16 5 ∧
    (∀ l, mgetD (s.writeCsr .fflags x).w.lflags l 0 = mgetD s.w.lflags l 0 &&& ~~~(x.extractLsb' 0 5)) ∧
    (∀ c, c ∈ [Csr.lane, .wave, .wgid, .stage, .ctx, .phase, .gang, .vbase, .vlen, .pext, .budget, .tstat, .trec] →
      s.writeCsr c x = s) ∧
    (∀ p, s.myPlane = some p → ∃ q, (s.writeCsr .pflags x).myPlane = some q ∧ q.en = x.extractLsb' 16 5 ∧
      ∀ c, mgetD q.flags c 0 = mgetD p.flags c 0 &&& ~~~(x.extractLsb' 0 5))) ∧
  (∀ (h : Hints) (d a : SReg) (imm : Word) (x : DWord) (s s1 t : State),
    (readS s a = .ok (x, s1) → writeS s1 d (s1.leaf x.toNat) = .ok t → Completes (.feat h d a) h 0 8 s t) ∧
    (writeS s d (s.leaf imm.toNat) = .ok t → Completes (.feat96 h d imm) h 0 12 s t) ∧
    s.leaf 0x101 = BitVec.ofNat 64 s.cur.1 ∧ s.leaf 0x102 = 2700 ∧
    (∀ n, 8 ≤ n → n ≠ 0x100 → n ≠ 0x101 → n ≠ 0x102 → s.leaf n = 0)) ∧
  (∀ (h : Hints) (s : State),
    (s.w.ctx = 0 → waitPoint s .sys = .ok () → Completes (.halt h) h 0 8 s (s.updW (fun w => { w with halted := true }))) ∧
    (s.w.ctx ≠ 0 → s.curWave?.isSome →
      exec (.halt h) s = .next (s.trapped s.w h.s.toNat { s.plainRec 0x10 with info := ((encode (.halt h)).headD 0).toNat })))

/-- From 25 R356 to R361, R364: power-up forms the configured partitions on a machine with nothing in flight, if configuration
and firmware verify; power-down and failure of the main side lose all but the safe tier and what Towpath keeps; a power-fail
warning and 110 °C begin checkpoints, 100 °C halves allotments; firmware images, sensors, measurements and kept
retirements. That lost memory reads as 0 (log 2), what the sensors answer (log 12) and the form of the answers over MCTP (log 74)
are the model's choices. -/
def Obligations.PowerAndFirmware : Prop :=
  (∀ (cfg : BoardConfig) (cxl : List Nat) (s : State), s.dev.main ≠ .up →
    (cfg.verified = false → exec (.powerUp cfg cxl) s = .next { s with dev := { s.dev with main := .inReset } }) ∧
    (cfg.verified = true → s.dev.bootImage = none →
      exec (.powerUp cfg cxl) s = .next { s with dev := { s.dev with main := .inReset, recovery := true } }) ∧
    (∀ img, cfg.verified = true → s.dev.bootImage = some img →
      ∃ t, exec (.powerUp cfg cxl) s = .next t ∧ t.dev.main = .up ∧ t.dev.recovery = false ∧
        (∀ n c, cfg.parts[n]? = some c → ∃ p, mget t.parts n = some p ∧ p.cols = c.cols ∧ p.share = c.share.getD (64 * c.cols.length) ∧
          p.ready = true ∧ p.outOfService = false) ∧
        t.dev.cxlCounts = granuleCounts 448 ((cxl.take 6).map (fun bytes => bytes / 2 ^ 34)) ∧
        (∀ n, cfg.parts[n]? = none → mget t.parts n = none) ∧ t.packets = [] ∧ t.jobs = [] ∧ t.ops = [] ∧
        (∀ n, n < 128 → ((t.cluster n).retired = true ↔ n ∈ cfg.retired ∨ n ∈ s.dev.storedRetired)) ∧
        (∀ a, memByte t.mem a = if ckptBase ≤ a ∧ a < cxlBase then memByte s.mem a else 0))) ∧
  (∀ (d : Device) (i : FirmwareImage), d.current = some i →
    (i.verified = true → d.fused ≤ i.secVersion → d.bootImage = some i) ∧
    (i.verified = true → i.secVersion < d.fused → d.bootImage = none) ∧
    (∀ j, i.verified = false → d.previous = some j → j.verified = true → d.fused ≤ j.secVersion → d.bootImage = some j)) ∧
  (∀ (s : State), ∃ t, exec .powerFailWarning s = .next t ∧ t.mem = s.mem ∧
    ∀ n p, mget s.parts n = some p → mget t.parts n = some { p with checkpointing := true }) ∧
  (∀ (s : State), s.dev.main = .up → s.parts ≠ [] →
    ∃ t, exec .junction110C s = .next t ∧ t.mem = s.mem ∧ t.dev.offAfter = s.parts.map Prod.fst ∧
      ∀ n p, mget s.parts n = some p → mget t.parts n = some { p with checkpointing := true }) ∧
  (∀ (hot : Bool) (s : State), exec (.junction100C hot) s = .next { s with dev := { s.dev with halved := hot } }) ∧
  (∀ (r : Nat) (s : State), ∃ t, exec (.mainSideFailure r) s = .next t ∧ t.dev.main = .failed ∧ t.parts = [] ∧
    t.ctxs = [] ∧ t.packets = [] ∧ t.dev.current = s.dev.current ∧ t.dev.storedRetired = s.dev.storedRetired ∧
    ∀ a, memByte t.mem a = if ckptBase ≤ a ∧ a < cxlBase then memByte s.mem a else 0) ∧
  (∀ (img : FirmwareImage) (s : State),
    exec (.firmwareUpdate img) s = .next { s with dev := { s.dev with current := some img, previous := s.dev.current } }) ∧
  (∀ (x : Sensor) (s : State), ∃ t v, exec (.pldmSensorRead x) s = .next t ∧
    t.hostOut = s.hostOut ++ [.mctp (sensorName x) v] ∧ t.mem = s.mem ∧
    (x = .retiredClusters → v = (s.clusters.filter (fun k => k.2.retired)).length) ∧
    (x = .takenSlices → v = (s.slices.filter (fun n => n.2.failed)).length) ∧
    (x = .sparing → v = ((s.dev.linkSpares.map Prod.snd).foldl (· + ·) 0)) ∧
    (x = .governorStalls → v = s.dev.stalls)) ∧
  (∀ (m : Nat) (s : State), 1 ≤ m → m ≤ 3 → ∃ t x sig, exec (.spdmRequest m) s = .next t ∧
    t.hostOut = s.hostOut ++ [.mctp (256 + m) x, .mctp 512 sig] ∧ t.mem = s.mem ∧ (m = 2 → x = s.dev.configDigest)) ∧
  (∀ (cl : Nat) (s : State), ∃ t, exec (.retirementClear cl) s = .next t ∧ cl ∉ t.dev.storedRetired ∧
    ∀ n, n ≠ cl → (n ∈ t.dev.storedRetired ↔ n ∈ s.dev.storedRetired))

/-- From 03 R61, 11 R199, 25 R355, R361, R362: a cluster that retires stays so and is reported; a slice that fails loses its
lines, dirty ones poisoned, and its buddy takes its home-table positions; a failed router takes its partition out of
service; a peer link survives two lanes; a CXL port that goes down loses its lines; a migrated context leaves. How a context
migrates (log 64), what a failed router (log 65) and a failed slice (log 66) leave, and the numbers of the functions that vector 3
goes to (log 73) are the model's choices. -/
def Obligations.PartsThatFail : Prop :=
  (∀ (cl part : Nat) (s : State), s.partOfCluster cl = some part → (s.cluster cl).retired = false →
    ∃ t pre, exec (.clusterRetirement cl) s = .next t ∧ (t.cluster cl).retired = true ∧ cl ∈ t.dev.storedRetired ∧
      t.hostOut = pre ++ [.msix part 3, .msix physicalFn 3]) ∧
  (∀ (n part : Nat) (s : State) (p : Part), s.partOfSlice n = some part → mget s.parts part = some p →
    (s.slice n).failed = false →
    ∃ t q pre, exec (.sliceFailure n) s = .next t ∧ (t.slice n).failed = true ∧
      ((s.slice n).waiters = [] → (t.slice n).lines = []) ∧
      (∀ l c, mget (s.slice n).lines l = some c → c.dirty = true → l ∈ t.poison) ∧ mget t.parts part = some q ∧
      q.home = p.home.map (fun i => if i = n then buddyOf n else i) ∧
      t.hostOut = pre ++ [.msix part 3, .msix physicalFn 3]) ∧
  (∀ (site part : Nat) (s : State) (p : Part), s.partOfCol (siteCol site) = some part → mget s.parts part = some p →
    ∃ t, exec (.routerFailure site) s = .next t ∧ t.mem = s.mem ∧
      mget t.parts part = some { p with outOfService := true } ∧ ∀ m, m ≠ part → mget t.parts m = mget s.parts m) ∧
  (∀ (link : Nat) (s : State), s.dev.linkDown.contains link = false →
    (mgetD s.dev.linkSpares link 0 < 2 → ∃ t, exec (.laneFailure link) s = .next t ∧ t.dev.linkDown = s.dev.linkDown ∧
      mgetD t.dev.linkSpares link 0 = mgetD s.dev.linkSpares link 0 + 1 ∧ t.hostOut = s.hostOut) ∧
    (2 ≤ mgetD s.dev.linkSpares link 0 → ∃ t, exec (.laneFailure link) s = .next t ∧ link ∈ t.dev.linkDown)) ∧
  (∀ (port : Nat) (s : State), s.dev.cxlDown.contains port = false →
    ∃ t, exec (.cxlPortDown port) s = .next t ∧ port ∈ t.dev.cxlDown ∧ t.mem = s.mem ∧
      ∀ n l, (s.portOfLine l = some port → mget (t.slice n).lines l = none) ∧
        (s.portOfLine l ≠ some port → mget (t.slice n).lines l = mget (s.slice n).lines l)) ∧
  (∀ (link : Nat) (s : State), exec (.linkLevelReplay link) s = .next s) ∧
  (∀ (ctx : Nat) (s : State) (c : Ctx), ctx ≠ 0 → mget s.ctxs ctx = some c → c.life ≠ .destroying →
    (exec (.liveMigration ctx false) s = .next s) ∧
    (s.ctxBusy ctx = false → ∃ t, exec (.liveMigration ctx true) s = .next t ∧ t.mem = s.mem ∧ mget t.ctxs ctx = none ∧
      (∀ m, m ≠ ctx → mget t.ctxs m = mget s.ctxs m) ∧
      (∀ cl row w, t.waveAt? cl row = some w → w.ctx ≠ ctx) ∧
      ∀ cl row w, s.waveAt? cl row = some w → w.ctx ≠ ctx → t.waveAt? cl row = some w))

/-- 10 R167, 25 R346 to R351, R354: KICK asks for the ring entry of NEXT, and is ignored where it is stale or its queue is
halted; GO restarts a halted queue; a reread asks again; CONS, HACT and register writes do what their registers say, for the
agents that reach them; held packets are dispatched, and a launch that is done writes its completion. That an entry above 2^49
halts the ring with STATUS 6, and a completion word above 2^49 is dropped, is the model's choice (log 87). -/
def Obligations.QueuesAndRegisters : Prop :=
  (∀ (i : Instr) (part q seq : Nat) (s : State),
    ((∃ agent, i = .kick agent part q seq ∧ reachesPart part agent = true ∧ q < 8) ∨
      (∃ agent, i = .commandKick agent part seq ∧ reachesQueue agent part = true ∧ q = commandQueue)) →
    s.queueReady part = true →
    let r := s.queue part q
    let gap := (seq % 2 ^ 32 + 2 ^ 32 - r.next % 2 ^ 32) % 2 ^ 32
    (r.halted = true → exec i s = .next s) ∧
    (r.halted = false → r.slots ≠ 0 → r.kick = none → 2 ^ 31 ≤ gap → exec i s = .next s) ∧
    (r.halted = false → r.slots ≠ 0 → r.kick = none → gap < 2 ^ 31 → r.slots ≤ gap →
      ∃ t, exec i s = .next t ∧ (t.queue part q).halted = true ∧ (t.queue part q).status = 2) ∧
    (r.halted = false → r.slots ≠ 0 → r.kick = none → gap < 2 ^ 31 → gap < r.slots → r.entryAddr + 64 ≤ 2 ^ 49 →
      ∃ t, exec i s = .next t ∧ s.ringAsked t part q r ∧
        (t.queue part q).kick = some { seq := seq % 2 ^ 32, rereads := 0, from? := none, reading := true }) ∧
    (r.halted = false → r.slots ≠ 0 → r.kick = none → gap < 2 ^ 31 → gap < r.slots → 2 ^ 49 < r.entryAddr + 64 →
      ∃ t, exec i s = .next t ∧ (t.queue part q).halted = true ∧ (t.queue part q).status = 6)) ∧
  (∀ (agent : RegAgent) (part q seq : Nat) (s : State), reachesPart part agent = false →
    ∃ t a, exec (.kick agent part q seq) s = .next t ∧ t.hostOut = s.hostOut ++ [.unsupported a] ∧ t.parts = s.parts) ∧
  (∀ (agent : RegAgent) (part q next : Nat) (s : State), reachesQueue agent part = true → q ≤ 8 →
    (s.queue part q).halted = true →
    ∃ t, exec (.go agent part q next) s = .next t ∧
      t.queue part q = { s.queue part q with next := next % 2 ^ 32, halted := false, status := 0 }) ∧
  (∀ (s : State) (k : Kick), (s.queue s.subj.a s.subj.b).kick = some k → k.reading = false → k.due ≤ s.now →
    (s.queue s.subj.a s.subj.b).entryAddr + 64 ≤ 2 ^ 49 →
    ∃ t, exec .packetReread s = .next t ∧ s.ringAsked t s.subj.a s.subj.b (s.queue s.subj.a s.subj.b) ∧
      (t.queue s.subj.a s.subj.b).kick = some { k with reading := true, rereads := k.rereads + 1 }) ∧
  (∀ (agent : RegAgent) (part v : Nat) (s : State) (p : Part), reachesPart part agent = true → mget s.parts part = some p →
    (∀ cl, (s.cluster cl).unposted = []) →
    exec (.cons agent part v) s = .next { s with parts := mset s.parts part { p with fqCons := v % 2 ^ 32 } }) ∧
  (∀ (agent : RegAgent) (cl row : Nat) (s : State) (w : Wave), reachesDevice agent = true → (s.cluster cl).hsel = row →
    s.waveAt? cl row = some w → w.halted = true → w.draining = false →
    (exec (.hactResume agent cl row) s = .next (s.updWave cl row (fun w => { w with halted := false }))) ∧
    (w.held = [] → w.arrived = none → ∃ t w', exec (.hactEnd agent cl row) s = .next t ∧ t.waveAt? cl row = some w' ∧
      w'.draining = true ∧ w'.halted = false)) ∧
  (∀ (agent : RegAgent) (n v : Nat) (s : State), reachesDevice agent = true → n < 128 →
    let pa := clusterBlock n + 0x108
    let hsel (v : Nat) (s : State) : State := s.setCluster n { s.cluster n with hsel := v % 64 }
    let was := (s.cluster n).hsel % 2 ^ 64
    exec (.registerWrite agent pa 8 (.write v)) s = .next (hsel v s) ∧
    exec (.registerWrite agent pa 8 .read) s = .next { s with hostOut := s.hostOut ++ [.completion pa was] } ∧
    (∃ t, exec (.registerWrite agent pa 8 (.atomic .fetchAdd v 0)) s = .next t ∧
      t = { hsel ((was + v) % 2 ^ 64) s with hostOut := s.hostOut ++ [.completion pa was] }) ∧
    (∀ op x c, exec (.registerWrite agent pa 16 (.atomic op x c)) s =
      .next { s with hostOut := s.hostOut ++ [.unsupported pa] })) ∧
  (∀ (agent : RegAgent) (pa size : Nat) (req : RegReq) (s : State), (regPlace pa).reachedBy agent = false →
    exec (.registerWrite agent pa size req) s = .next { s with hostOut := s.hostOut ++ [.unsupported pa] }) ∧
  (∀ (agent : RegAgent) (part q v : Nat) (s : State), reachesPart part agent = true → part < 16 → q < 8 →
    (mget s.parts part).isSome →
    ∃ t, exec (.registerWrite agent (partBlock part + 0x1008 + 0x40 * q) 8 (.write v)) s = .next t ∧
      t.queue part q = { s.queue part q with slots := v % 2 ^ 17 }) ∧
  (∀ (s s2 : State) (b : List Byte) (p : LaunchPacket) (h : MapHeader) (es : List MapEntry),
    let part := s.subj.a
    let q := s.subj.b
    let r := s.queue part q
    let s1 := s.setQueue part q { r with held := [] }
    r.halted = false → r.held = [{ bytes := b, from? := none }] → s.admits part = true → launchPacket b = some p →
    (p.barrier = true → r.launches = []) → s1.packetStatus part none b = none → s1.thingHeld (.map part q) = false →
    s1.readMap r.mapGot p.ctx p.pmap = .ok h es s2 →
    ∃ t l, exec .barrierDispatch s = .next t ∧ (t.queue part q).held = [] ∧
      (t.queue part q).launches = r.launches ++ [s.nextId] ∧ mget t.launches s.nextId = some l ∧ l.ctx = p.ctx ∧
      l.kernel = p.kernel ∧ l.args = p.args ∧ l.done = p.done ∧ l.entries = es ∧ l.left = h.count ∧ t.mem = s.mem) ∧
  (∀ (s : State) (l : Launch), mget s.launches s.subj.a = some l → l.left = 0 → l.profiling = [] →
    (∀ r, r ∈ s.peerReqs → r.2.ask ≠ .profile s.subj.a) →
    (∀ x, x ∈ s.accesses → x.2.tag.launch = s.subj.a → x.2.performed = true) →
    ∃ t, exec .launchCompletion s = .next t ∧ mget t.launches s.subj.a = none ∧ t.mem = s.mem ∧
      t.hostOut = s.hostOut ++
        (if l.done = 0 ∨ 2 ^ 49 < l.done + 8 then [] else [.write l.part l.link l.done (natToBytes 8 l.seq)]))

/-- 01 R23, 11 R194, R198, 25 R352, R353: CTX_CREATE makes the context its record describes; a record of the wrong form
gives 1, a context elsewhere 2, one that exists 3. CTX_DESTROY begins a destruction, which completes once nothing of the
context is under way: the context is gone and its log handed over. A command's completion word and vector 1. That a DONE of
0 posts no word (log 57), the link of a command's host addresses (log 60) and host bytes above 2^49 (log 87) are the model's
choices. -/
def Obligations.ContextCommands : Prop :=
  (∀ (queue part : Nat) (record : List Byte) (s : State) (c : Command), s.commandDue queue opCtxCreate c part →
    record.length = 512 →
    let ctx := c.argA queue
    let ok := recordOk (s.clustersOf part).length record
    (2 ^ 49 < c.b + 512 → ∃ t, exec (.ctxCreate queue record) s = .next t ∧ t.resulted queue 2 c ∧ t.ctxs = s.ctxs) ∧
    (c.b + 512 ≤ 2 ^ 49 →
    (ok = false → ∃ t, exec (.ctxCreate queue record) s = .next t ∧ t.resulted queue 1 c ∧ t.ctxs = s.ctxs) ∧
    (ok = true → s.ctxElsewhere part ctx = true →
      ∃ t, exec (.ctxCreate queue record) s = .next t ∧ t.resulted queue 2 c ∧ t.ctxs = s.ctxs) ∧
    (ok = true → s.ctxElsewhere part ctx = false → (mget s.ctxs ctx).isSome = true →
      ∃ t, exec (.ctxCreate queue record) s = .next t ∧ t.resulted queue 3 c ∧ t.ctxs = s.ctxs) ∧
    (ok = true → s.ctxElsewhere part ctx = false → mget s.ctxs ctx = none →
      ∃ t, exec (.ctxCreate queue record) s = .next t ∧ t.resulted queue 0 c ∧
        mget t.ctxs ctx = some (ctxOfRecord part record) ∧ (∀ m, m ≠ ctx → mget t.ctxs m = mget s.ctxs m) ∧
        t.mem = s.mem))) ∧
  (∀ (part : Nat) (s : State) (c : Command) (x : Ctx), s.commandDue s.subj.a opCtxDestroy c part →
    let ctx := c.argA s.subj.a
    s.ctxElsewhere part ctx = false →
    (mget s.ctxs ctx = none → ∃ t, exec .ctxDestroy s = .next t ∧ t.resulted s.subj.a 3 c) ∧
    (mget s.ctxs ctx = some x → x.life = .destroying → ∃ t, exec .ctxDestroy s = .next t ∧ t.resulted s.subj.a 3 c) ∧
    (mget s.ctxs ctx = some x → x.life ≠ .destroying → ∃ t, exec .ctxDestroy s = .next t ∧
      (∃ y, mget t.ctxs ctx = some y ∧ y.life = .destroying) ∧
      ((∀ cl, cl ∈ s.clustersOf part → (s.cluster cl).hosts ctx = false ∧ (s.cluster cl).startQ = [] ∧
          ∀ e, e ∈ (s.cluster cl).slots → e.2.ctx ≠ ctx) →
        (t.queue s.subj.a commandQueue).cmd = some { c with waitingFor := [ctx] } ∧ t.mem = s.mem ∧
          ∀ cl, cl ∈ s.clustersOf part → ∀ b, b ∈ (t.cluster cl).bins → b.2.ctx ≠ ctx))) ∧
  (∀ (s : State) (c : Command) (ctx : Nat) (l : List Nat), (s.queue s.subj.a commandQueue).cmd = some c →
    c.op = opCtxDestroy → c.result = none → c.waitingFor = ctx :: l → s.ctxBusy ctx = false →
    let out := s.handOver s.subj.a ctx (s.queue s.subj.a commandQueue).link c.b c.c
    ∃ t, exec .destructionComplete s = .next t ∧ mget t.ctxs ctx = none ∧ t.resulted s.subj.a out.1 c ∧
      t.hostOut = out.2.hostOut ∧ t.mem = s.mem ∧
      (∀ n b m, mget (t.slice n).mboxes b = some m → m.ctx ≠ ctx) ∧
      ∀ cl e, e ∈ (t.cluster cl).slots → e.2.ctx ≠ ctx) ∧
  (∀ (s : State) (c : Command) (n : Nat) (k : Kick),
    let r := s.queue s.subj.a commandQueue
    let next := (r.next + 1) % 2 ^ 32
    r.cmd = some c → c.result = some n → r.kick = some k → r.pendingKicks = [] →
    ∃ t rest, exec .commandCompletion s = .next t ∧ (t.queue s.subj.a commandQueue).cmd = none ∧
      (t.queue s.subj.a commandQueue).next = next ∧
      t.hostOut = s.hostOut ++ (if c.done = 0 ∨ 2 ^ 49 < c.done + 8 then []
        else [.write s.subj.a r.link c.done (natToBytes 8 (c.seq + n * 2 ^ 32))]) ++ rest ∧
      (.msix (if s.subj.a = deviceQueue then physicalFn else s.subj.a) 1) ∈ rest ∧
      (kickGap k.seq next < 2 ^ 31 → RingQueue.entryAddr { r with next := next } + 64 ≤ 2 ^ 49 → s.ringAsked t s.subj.a commandQueue { r with next := next }) ∧
      (2 ^ 31 ≤ kickGap k.seq next → (t.queue s.subj.a commandQueue).kick = none))

/-- 02 R40, R41, 25 R352: COPY_IN stores the host's bytes in memory of the partition, COPY_OUT posts memory's, and either
refuses a span that is not the partition's; SHOOTDOWN makes every cluster of the partition discard what it covers and
completes with the last acknowledgement; LOG_FREE releases delivered records. The order of the results (log 56), a span
without a target (log 57), the link of a command's host addresses (log 60) and host bytes above 2^49 (log 87) are the model's
choices. -/
def Obligations.MemoryCommands : Prop :=
  (∀ (queue part : Nat) (data : List Byte) (s : State) (c : Command), s.commandDue queue opCopyIn c part →
    data.length = c.c →
    (2 ^ 49 < c.argA queue + c.c ∨ s.spanOwned part c.b c.c = false →
      ∃ t, exec (.copyIn queue data) s = .next t ∧ t.resulted queue 2 c ∧ t.mem = s.mem) ∧
    (c.argA queue + c.c ≤ 2 ^ 49 → s.spanOwned part c.b c.c = true → s.noBarrier c.b c.c →
      ∃ t, exec (.copyIn queue data) s = .next t ∧ t.resulted queue 0 c ∧ s.storedAt t c.b data)) ∧
  (∀ (part : Nat) (s : State) (c : Command), s.commandDue s.subj.a opCopyOut c part →
    let pa := c.argA s.subj.a
    (2 ^ 49 < c.b + c.c ∨ s.spanOwned part pa c.c = false →
      ∃ t, exec .copyOut s = .next t ∧ t.resulted s.subj.a 2 c ∧ t.hostOut = s.hostOut) ∧
    (c.b + c.c ≤ 2 ^ 49 → s.spanOwned part pa c.c = true → 0 < c.c → c.c % 64 = 0 → (∀ k, k < c.c / 64 → s.poisoned (pa + 64 * k) 64 = false) →
      ∃ t, exec .copyOut s = .next t ∧ t.resulted s.subj.a 0 c ∧ t.mem = s.mem ∧
        t.hostOut = s.hostOut ++ [.write s.subj.a (s.queue s.subj.a commandQueue).link c.b (memRead s.mem pa c.c)])) ∧
  (∀ (part : Nat) (s : State) (c : Command), s.commandDue s.subj.a opShootdown c part →
    let a := c.argA s.subj.a
    (s.ctxIn part (a % 4096) = false → ∃ t, exec .shootdown s = .next t ∧ t.resulted s.subj.a 2 c) ∧
    (s.ctxIn part (a % 4096) = true → ∃ t d, exec .shootdown s = .next t ∧ mget t.shootdowns s.nextId = some d ∧
      d.queue = s.subj.a ∧ d.ctx = a % 4096 ∧ d.acks = s.clustersOf part ∧ d.waits = [] ∧
      (d.ranges = true ↔ a.testBit 12 = true) ∧ (d.pages = true ↔ a.testBit 13 = true) ∧
      (c.c = 0 → ∀ va n, va < 2 ^ 64 → 0 < n → d.covers va n = true) ∧
      (0 < c.c → ∀ va n, 0 < n → (d.covers va n = true ↔ c.b < va + n ∧ va < c.b + 4096 * c.c)) ∧
      (t.queue s.subj.a commandQueue).cmd = some { c with waitingFor := [s.nextId] })) ∧
  (∀ (s : State) (d : Shootdown), mget s.shootdowns s.subj.a = some d → d.acks.contains s.subj.b = true →
    mget d.waits s.subj.b = none → s.underWay s.subj.b d = [] → s.engineOut s.subj.b s.nextId d = false →
    ∃ t, exec .shootdownAcknowledge s = .next t ∧ t.mem = s.mem ∧
      (∀ e, e ∈ (t.cluster s.subj.b).tcache ↔ e ∈ (s.cluster s.subj.b).tcache ∧
        (e.ctx ≠ d.ctx ∨ d.covers e.lo (e.hi + 1 - e.lo) = false ∨ d.ranges = false ∧ (d.pages = false ∨ e.range = true))) ∧
      (∀ e, e ∈ (t.cluster s.subj.b).tables ↔ e ∈ (s.cluster s.subj.b).tables ∧ d.dropsCopy e = false) ∧
      (∀ b, b ∈ (t.cluster s.subj.b).icache ↔ b ∈ (s.cluster s.subj.b).icache ∧ (b.ctx ≠ d.ctx ∨ d.covers b.va 32 = false)) ∧
      ((∀ x, x ∈ d.acks → x = s.subj.b) → mget t.shootdowns s.subj.a = none ∧
        ∀ c, (s.queue d.queue commandQueue).cmd = some c → t.resulted d.queue 0 c) ∧
      ((∃ x, x ∈ d.acks ∧ x ≠ s.subj.b) → ∃ d', mget t.shootdowns s.subj.a = some d' ∧
        d'.acks = d.acks.filter (fun x => x ≠ s.subj.b))) ∧
  (∀ (part : Nat) (s : State) (c : Command) (h : LogHeader), s.commandDue s.subj.a opLogFree c part →
    let ctx := c.argA s.subj.a
    let u := { s with old := [] }
    let n := (c.b + 2 ^ 32 - h.free) % 2 ^ 32
    s.ctxIn part ctx = true → u.readLog 0 ctx = .ok h →
    let read := u.charge (u.logUses ctx h h.free n)
    ((h.write + 2 ^ 32 - h.free) % 2 ^ 32 < n → ∃ t, exec .logFree s = .next t ∧ t.resulted s.subj.a 1 c ∧ t.mem = s.mem) ∧
    (n ≤ (h.write + 2 ^ 32 - h.free) % 2 ^ 32 → u.logResult ctx h n h.free 0 ≠ 0 →
      ∃ t, exec .logFree s = .next t ∧ t.resulted s.subj.a (u.logResult ctx h n h.free 0) c ∧ t.mem = s.mem) ∧
    (∀ v, n ≤ (h.write + 2 ^ 32 - h.free) % 2 ^ 32 → u.logResult ctx h n h.free 0 = 0 →
      read.hwWrite 0 ctx ((s.ctxOf ctx).flog + 16) (natToBytes 4 c.b) = .ok v →
      ∃ t, exec .logFree s = .next t ∧ t.resulted s.subj.a 0 c ∧ t.mem = v.mem))

/-- 05 R93, 11 R191, 25 R352: MBOX assigns a mailbox of the partition's slice to a context and frees it; ANSWER makes a
parked workgroup retry, deliver or die, refuses DELIVER for an escalated one, and gives 3 where no such workgroup waits. The
order of the results (log 56) and the packets that a mailbox keeps when it is freed or assigned (log 58) are the model's
choices. -/
def Obligations.MailboxAndAnswerCommands : Prop :=
  (∀ (part : Nat) (s : State) (c : Command), s.commandDue s.subj.a opMbox c part →
    let a := c.argA s.subj.a
    let n := a % 128
    let box := bits a 11 8
    (c.b ≠ 0xFFFF → s.partOfSlice n = some part → s.ctxIn part c.b = true →
      ∃ t m, exec .mboxAssign s = .next t ∧ t.resulted s.subj.a 0 c ∧ mget (t.slice n).mboxes box = some m ∧ m.ctx = c.b ∧
        (∀ m0, mget (s.slice n).mboxes box = some m0 → m0.ctx = c.b → m = m0)) ∧
    (c.b ≠ 0xFFFF → s.partOfSlice n ≠ some part ∨ s.ctxIn part c.b = false →
      ∃ t, exec .mboxAssign s = .next t ∧ t.resulted s.subj.a 2 c ∧ t.slices = s.slices) ∧
    (c.b = 0xFFFF → s.partOfSlice n = some part →
      ∃ t, exec .mboxFree s = .next t ∧ t.resulted s.subj.a 0 c ∧ mget (t.slice n).mboxes box = none) ∧
    (c.b = 0xFFFF → s.partOfSlice n ≠ some part →
      ∃ t, exec .mboxFree s = .next t ∧ t.resulted s.subj.a 2 c ∧ t.slices = s.slices)) ∧
  (∀ (part : Nat) (s : State) (c : Command), s.commandDue s.subj.a opAnswer c part →
    let a := c.argA s.subj.a
    let cl := a % 128
    let key := awayKey c.c (bits a 13 8)
    s.partOfCluster cl = some part → s.ctxIn part c.c = true →
    (∀ w, mget (s.cluster cl).away key = some w → w.mode = .parked ∨ w.mode = .escalated →
      (c.b = 0 → ∃ t w', exec .answerRetry s = .next t ∧ t.resulted s.subj.a 0 c ∧
        mget (t.cluster cl).away key = some w' ∧ w'.mode = .answered ∧ w'.wg = w.wg ∧
        ∀ row v, mget w.waves row = some v →
          mget w'.waves row = some (if v.redeliver then v else { v with pending := none })) ∧
      (c.b = 1 → w.mode = .parked → ∃ t, exec .answerDeliver s = .next t ∧ t.resulted s.subj.a 0 c ∧
        mget (t.cluster cl).away key = some { w with mode := .answered }) ∧
      (c.b = 1 → w.mode = .escalated → ∃ t, exec .answerDeliver s = .next t ∧ t.resulted s.subj.a 3 c ∧
        t.clusters = s.clusters) ∧
      (c.b = 2 → ∃ t, exec .answerKill s = .next t ∧ t.resulted s.subj.a 0 c ∧
        mget (t.cluster cl).away key = some { w with mode := .killed })) ∧
    (∀ i, (∀ w, mget (s.cluster cl).away key = some w → w.mode ≠ .parked ∧ w.mode ≠ .escalated) →
      (c.b = 0 ∧ i = Instr.answerRetry ∨ c.b = 1 ∧ i = .answerDeliver ∨ c.b = 2 ∧ i = .answerKill) →
      ∃ t, exec i s = .next t ∧ t.resulted s.subj.a 3 c ∧ t.clusters = s.clusters))

/-- 01 R14, 08 R143, 25 R360: CHECKPOINT stops admission to a partition; the copy of a partition at rest puts its HBM and its
vaults into the areas of its columns, leaves memory elsewhere alone, and completes the command; RESTORE puts them back and
leaves all other memory alone, but for the dirty lines that the areas record, which go to their homes; or it gives 3 where no
checkpoint of the layout is kept. When a copy may begin (log 62), what a restore puts back (log 63) and where in an area a byte
stands (log 99) are the model's choices. -/
def Obligations.CheckpointCommands : Prop :=
  (∀ (s : State) (c : Command) (p : Part), s.cmdDue s.subj.a opCheckpoint = some c → s.subj.a ≠ deviceQueue →
    mget s.parts s.subj.a = some p →
    ∃ t q, exec .checkpoint s = .next t ∧ mget t.parts s.subj.a = some q ∧ q.checkpointing = true ∧ q.queues = p.queues ∧
      (t.queue s.subj.a commandQueue).cmd = some { c with waitingFor := [s.subj.a + 1] } ∧ t.mem = s.mem) ∧
  (∀ (s : State) (p : Part), mget s.parts s.subj.a = some p → p.checkpointing = true →
    (∀ cl, cl ∈ s.clustersOf s.subj.a → (s.cluster cl).divQuiet = true ∧ (s.cluster cl).wgs = []) →
    s.partBusy s.subj.a = false → s.dev.offAfter = [] → s.memOk = true →
    ∃ t q, exec .checkpointCopy s = .next t ∧ s.imageOf s.subj.a ∈ t.checkpoints ∧
      (s.imageOf s.subj.a).layout = s.dev.layout ∧
      (∀ a, s.partCell s.subj.a a = true → memByte t.mem (ckptPlace a) = memByte s.mem a) ∧
      (∀ a, inAreas p.cols a = false → memByte t.mem a = memByte s.mem a) ∧
      mget t.parts s.subj.a = some q ∧ q.checkpointing = false ∧
      (∀ c, s.subj.a ≠ deviceQueue → (s.queue s.subj.a commandQueue).cmd = some c → c.op = opCheckpoint →
        c.waitingFor = [s.subj.a + 1] → t.resulted s.subj.a 0 c)) ∧
  (∀ (s : State) (c : Command), s.cmdDue s.subj.a opRestore = some c → s.subj.a ≠ deviceQueue →
    (s.imageFor s.subj.a = none → ∃ t, exec .restore s = .next t ∧ t.resulted s.subj.a 3 c ∧ t.mem = s.mem) ∧
    (∀ img, s.imageFor s.subj.a = some img → s.memOk = true →
      -- the dirty lines that the areas record: where each is recorded, and its address
      let dirty := (s.slicesOf s.subj.a).flatMap (fun n => ckptDirty s.mem n 32768 0)
      let clear (a : Nat) : Prop := ∀ e, e ∈ dirty → a < e.2 ∨ e.2 + 64 ≤ a
      ∃ t, exec .restore s = .next t ∧ t.resulted s.subj.a 0 c ∧
        (∀ a, clear a → s.partCell s.subj.a a = true → memByte t.mem a = memByte s.mem (ckptPlace a)) ∧
        (∀ a, clear a → s.partCell s.subj.a a = false → memByte t.mem a = memByte s.mem a) ∧
        (dirty.Pairwise (fun e f => e.2 ≠ f.2) → ∀ e i, e ∈ dirty → i < 64 →
          memByte t.mem (e.2 + i) = memByte s.mem (e.1 + i))))

/-- 07 R121, R128, 10 R167, 25 R350, R352, R355: the bytes with which the host or a peer answers a read become the result
of the access that asked, or the code the wave fetches; a ring entry with the right SEQ is taken, one without is read
again 156 ns later and, after 64 rereads, halts the queue, as a read that fails does.

01 R24, R26, 25 R355: a peer's request that the admission table lets through is served at its home and answered with
the bytes read or the old value; any other is refused with completer-abort and changes nothing.

07 R125: the bytes of the host are those under the held writes. Held writes are laid over the answer (log 43), and a lane whose read
failed gets a free value and its record (log 45), by the model's choice. -/
def Obligations.LinksAndPeers : Prop :=
  ((∀ (s : State) (rid id : Nat) (r : HostReq) (p : Packet) (a : Access) (data : List Byte), r.ask = .packet id →
      r.write = false → r.atomic = none → data.length = r.len → mget s.packets id = some p → p.body = .access a → a.kind = .load →
      -- the bytes of the host, under the writes that publication buffers have held since the read was made
      (mget s.hostReqs rid = some r → ∃ t, exec (.hostCompletion rid true data) s = .next t ∧ mget t.hostReqs rid = none ∧
        t.answered id p a 1 (bytesToNat ((r.heldOver.foldl (overlay r.addr) data).take a.size)) ∧ t.mem = s.mem) ∧
      (mget s.peerReqs rid = some r → ∃ t, exec (.peerCompletion rid true data) s = .next t ∧ mget t.peerReqs rid = none ∧
        t.answered id p a 1 (bytesToNat (data.take a.size)) ∧ t.mem = s.mem) ∧
      (mget s.hostReqs rid = some r → ∃ t x, exec (.hostCompletion rid false data) s = .next t ∧
        t.answered id p { a with failed := true } 1 x ∧ t.mem = s.mem)) ∧
    (∀ (s : State) (id cl row block : Nat) (r : HostReq) (w : Wave) (data : List Byte), mget s.hostReqs id = some r →
      r.ask = .fetch cl row block → r.write = false → r.heldOver = [] → data.length = r.len → s.waveAt? cl row = some w → w.waiting = some id →
      ∃ t, exec (.hostCompletion id true data) s = .next t ∧
        t.waveAt? cl row = some { w with waiting := none, fetched := mset w.fetched block (data.take 32) }) ∧
    (∀ (s : State) (id part q : Nat) (req : HostReq) (k : Kick) (data : List Byte) (ok : Bool), mget s.hostReqs id = some req →
      req.ask = .packetRead part q → req.write = false → data.length = req.len →
      let r := s.queue part q
      let seq := bytesToNat (data.take 4)
      r.kick = some k → k.reading = true →
      (ok = true → seq = r.next → q = commandQueue →
        ∃ t, exec (.hostCompletion id ok data) s = .next t ∧ (t.queue part q).cmd = some (commandOf part data)) ∧
      (ok = true → seq ≠ r.next → k.rereads < 64 →
        ∃ t, exec (.hostCompletion id ok data) s = .next t ∧ t.queue part q =
          { r with kick := some { k with reading := false, due := s.now + 422 } }) ∧
      (ok = true → seq ≠ r.next → 64 ≤ k.rereads → ∃ t, exec (.hostCompletion id ok data) s = .next t ∧
        (t.queue part q).halted = true ∧ (t.queue part q).status = 1 ∧ (t.queue part q).next = r.next) ∧
      (ok = false → ∃ t, exec (.hostCompletion id ok data) s = .next t ∧ (t.queue part q).halted = true ∧
        (t.queue part q).status = 6 ∧ (t.queue part q).next = r.next))) ∧
  (∀ (s : State) (r : PeerRequestIn), s.dev.linkDown.contains r.link = false →
      (s.admitted r = false → ∃ t, exec (.peerRequest r) s = .next t ∧ t.mem = s.mem ∧
        t.hostOut = s.hostOut ++ [.peerAnswer r.link r.tag false []]) ∧
      (∀ n, r.op = .read n → s.spanOwned r.part r.addr n = false → ∃ t, exec (.peerRequest r) s = .next t ∧ t.mem = s.mem ∧
        t.hostOut = s.hostOut ++ [.peerAnswer r.link r.tag false []]) ∧
      (∀ n, r.op = .read n → s.admitted r = true → s.spanOwned r.part r.addr n = true → s.poisoned r.addr n = false →
        (s.moveLines (peerAccess r).uses).isSome →
        ∃ t, exec (.peerRequest r) s = .next t ∧ t.mem = s.mem ∧
          t.hostOut = s.hostOut ++ [.peerAnswer r.link r.tag true (memRead s.mem r.addr n)]) ∧
      (∀ b, r.op = .write b → s.admitted r = true → s.spanOwned r.part r.addr b.length = true → s.noBarrier r.addr b.length →
        (s.moveLines (peerAccess r).uses).isSome →
        ∃ t, exec (.peerRequest r) s = .next t ∧ s.storedAt t r.addr b ∧
          t.hostOut = s.hostOut ++ [.peerAnswer r.link r.tag true []]) ∧
      (∀ op ty x y, r.op = .atomic op ty x y → s.admitted r = true → s.spanOwned r.part r.addr (elemBytes ty) = true →
        peerOffered r = true → s.poisoned r.addr (elemBytes ty) = false → s.noBarrier r.addr (elemBytes ty) →
        s.pageLocked r.addr = false → (s.moveLines (peerAccess r).uses).isSome →
        let n := elemBytes ty
        let old := bytesToNat (memRead s.mem r.addr n)
        ∃ t, exec (.peerRequest r) s = .next t ∧ s.storedAt t r.addr (natToBytes n (atomNew op ty old x y)) ∧
          t.hostOut = s.hostOut ++ [.peerAnswer r.link r.tag true (memRead s.mem r.addr n)]))

/-- From 04 R73, 05 R89 to R91, R96 to R99, 10 R171: credits return, a granted packet crosses its output and occupies it for its
flits, injection and line transfers draw tokens, a filter key ages out, a starved wave's count, and a governor window. What a
line's transfer draws, and what is owed to the windows that follow (log 27), and the tokens before the first window (log 94), are
the model's choices. -/
def Obligations.BraidSteps : Prop :=
  (∀ (s : State) (c : Credit), mget s.credits s.subj.a = some c → c.due ≤ s.now →
    let old := s.port (outKey c.site c.out)
    ∃ t, exec .creditReturn s = .next t ∧ mget t.credits s.subj.a = none ∧
      t.port (outKey c.site c.out) =
        (if c.vc = 2 then { old with esc2 := min 4 (old.esc2 + c.flits) }
         else if c.vc = 3 then { old with esc3 := min 4 (old.esc3 + c.flits) }
         else { old with shared := min 12 (old.shared + c.flits) }) ∧
      (∀ key, key ≠ outKey c.site c.out → t.port key = s.port key) ∧ t.packets = s.packets) ∧
  (∀ (s : State) (inp id vc : Nat) (p : Packet),
    let site := s.subj.a
    let out := s.subj.b
    -- the credits that are due by now have been given
    let s1 := s.dueCredits site out
    let old := s1.port (outKey site out)
    out < 5 → old.busyUntil ≤ s.now → s1.pick site out 5 old.ptr = some (inp, id, p, vc) → p.kind ≠ 7 →
    ((s.credits.map Prod.fst).Nodup →
      ∀ e, e ∈ s1.credits ↔ e ∈ s.credits ∧ ¬ (e.2.site = site ∧ e.2.out = out ∧ e.2.due ≤ s.now)) ∧
    ∃ t q, exec .packetGrant s = .next t ∧ mget t.packets id = some q ∧ q.loc = hopLoc s.now site out vc p.flits ∧
      q.body = p.body ∧ q.dst = p.dst ∧ q.side = (p.side || crossesDateline site out) ∧
      q.relayed = (p.relayed || (p.kind == 0xA && site == p.relaySite)) ∧
      (t.port (outKey site out)).ptr = (inp + 1) % 5 ∧ (t.port (outKey site out)).busyUntil = s.now + p.flits ∧
      (t.port (inKey site inp)).busyUntil = s.now + p.flits ∧
      (out ≠ portLocal → vc < 2 → (t.port (outKey site out)).shared = old.shared - p.flits) ∧
      (out ≠ portLocal → vc = 2 → (t.port (outKey site out)).esc2 = old.esc2 - p.flits) ∧
      (out ≠ portLocal → vc = 3 → (t.port (outKey site out)).esc3 = old.esc3 - p.flits) ∧ t.mem = s.mem) ∧
  (∀ (s : State) (id : Nat) (p : Packet), s.nextOut s.subj.a = some (id, p) →
    let left := mgetD s.flitTokens s.subj.a 256
    (left < p.flits ∨ s.windowDue = true ∨ 16 < s.queuedFlits s.subj.a + p.flits → exec .packetInjection s = .next s) ∧
    (p.flits ≤ left → s.windowDue = false → s.queuedFlits s.subj.a + p.flits ≤ 16 →
      ∃ t, exec .packetInjection s = .next t ∧ mget t.packets id = some { p with loc := .queue } ∧
        mgetD t.flitTokens s.subj.a 256 = left - p.tokens ∧ t.mem = s.mem)) ∧
  (∀ (s : State),
    let n := s.subj.a
    let x := s.slice n
    let line := s.subj.b
    let moved (l : SMap CacheLine) : State := s.setSlice n { x with lines := l, tokens := x.tokens - 1, drawn := true }
    (x.tokens = 0 ∨ s.windowDue = true → s.subj.c ≠ 2 ∨ (∃ c, mget x.lines line = some c ∧ c.dirty = true) →
      exec .lineTransfer s = .next s) ∧
    (0 < x.tokens → s.windowDue = false → x.failed = false →
      (s.subj.c = 0 → mget x.lines line = none → x.lines.length < 32768 → sliceHomed (64 * line) = true →
        s.homeOf 0 (64 * line) = n → exec .lineTransfer s = .next (moved (mset x.lines line { dirty := false }))) ∧
      (∀ c, s.subj.c = 1 → mget x.lines line = some c → c.dirty = true →
        exec .lineTransfer s = .next (moved (mset x.lines line { c with dirty := false }))) ∧
      (∀ c, s.subj.c = 2 → mget x.lines line = some c → c.dirty = true →
        exec .lineTransfer s = .next (moved (mdel x.lines line)))) ∧
    (∀ c, x.failed = false → s.subj.c = 2 → mget x.lines line = some c → c.dirty = false →
      exec .lineTransfer s = .next (s.setSlice n { x with lines := mdel x.lines line }))) ∧
  (∀ (s : State), s.subj.b < (s.slice s.subj.a).lod.length →
    ∃ t, exec .keyAgeOut s = .next t ∧ (t.slice s.subj.a).lod = (s.slice s.subj.a).lod.eraseIdx s.subj.b ∧ t.mem = s.mem) ∧
  -- a wave at 4,095 that was ready and passed over in this cycle reaches 4,096; no other count changes
  (∀ (s : State) (w : Wave), s.waveAt? s.subj.a s.subj.b = some w →
    ∃ t, exec .starvationCount s = .next t ∧ t.mem = s.mem ∧
      (w.starve = 4095 → w.starveAt = s.now + 1 →
        t.waveAt? s.subj.a s.subj.b = some { w with starve := 4096, starveAt := 0 }) ∧
      (w.starve ≠ 4095 ∨ w.starveAt ≠ s.now + 1 → t.waveAt? s.subj.a s.subj.b = some w)) ∧
  (∀ (s : State) (n : Nat) (p : Part), s.windows * 256 ≤ s.now → s.parts = [(n, p)] →
    ∃ t q, exec .governorWindow s = .next t ∧ t.windows = s.now / 256 + 1 ∧ t.mem = s.mem ∧ mget t.parts n = some q ∧
      q.classDraw = 0 ∧ q.injectDraw = 0 ∧ q.classDrawPrev = p.classDraw ∧ q.injectDrawPrev = p.injectDraw ∧
      (∀ i, i ∈ s.slicesOf n → (t.slice i).tokens = p.lineAllot - (s.slice i).owed ∧
        (t.slice i).owed = (s.slice i).owed - p.lineAllot) ∧
      (∀ x, x < 256 → siteCol x ∈ p.cols → mgetD t.flitTokens x 256 = p.flitAllot)) ∧
  (∀ (s : State), s.now < s.windows * 256 → exec .governorWindow s = .next s) ∧
  (∀ p : Part, 38 ≤ p.lineAllot ∧ p.lineAllot ≤ 304 ∧ 16 ≤ p.flitAllot ∧ p.flitAllot ≤ 256)

/-- 05 R93, 16 R284, R287, R369: MAILBOX_PACKET, in the order of arrival at its slice, is kept and accepted where its mailbox is
the context's and holds fewer than 16, and refused otherwise; refusals and semaphore answers reach the sender; adds reach their
cluster's semaphores in the order of arrival, and those of a wave to its own cluster in the order it made them, or wait at the
ingress. -/
def Obligations.MailAndSemaphores : Prop :=
  (∀ (s : State) (id op mbox code : Nat) (p : Packet) (tg : WTag) (d : SReg) (bytes : List Byte),
    s.packetDue id p 5 false → p.body = .mail op tg d mbox bytes code →
    (∀ e t', e ∈ s.packets → e.1 ≠ id → e.2.kind = 5 → e.2.answer = false → e.2.dst = p.dst → s.isHeld e.1 = false →
      e.2.loc = .arrived t' → p.arrivedAt ≤ t') →
    let n := siteNumber p.dst
    let x := s.slice n
    (∀ m, mget x.mboxes mbox = some m → m.ctx = p.ctx → x.failed = false → m.packets.length < 16 →
      ∃ t m' b, exec .mailboxPacket s = .next t ∧ t.repliedTo id p 4 (.mail op tg d mbox [] 0) ∧
        mget (t.slice n).mboxes mbox = some m' ∧ m'.packets = m.packets ++ [bytes.take 7 ++ b ++ bytes.drop 8] ∧
        b.length = 1 ∧ m'.ctx = m.ctx ∧ t.mem = s.mem) ∧
    (∀ m, mget x.mboxes mbox = some m → m.ctx = p.ctx → x.failed = false → 16 ≤ m.packets.length →
      ∃ t, exec .mailboxPacket s = .next t ∧ t.repliedTo id p 8 (.mail op tg d mbox [] 1) ∧ t.slices = s.slices) ∧
    (x.failed = true ∨ (∀ m, mget x.mboxes mbox = some m → m.ctx ≠ p.ctx) →
      ∃ t, exec .mailboxPacket s = .next t ∧ t.repliedTo id p 8 (.mail op tg d mbox [] 2) ∧ t.slices = s.slices)) ∧
  (∀ (s s1 : State) (id op mbox code : Nat) (p : Packet) (tg : WTag) (d : SReg) (bytes : List Byte),
    s.packetDue id p 8 true → p.body = .mail op tg d mbox bytes code → s.landValue tg (.scalar d) code = some s1 →
    exec .mailboxRefusal s = .next (((s1.dropPacket id).opStep op).enterOutbound)) ∧
  (∀ (s : State) (id : Nat) (p : Packet) (a : Access), s.packetDue id p 0xA true → p.body = .access a → a.kind = .semRel →
    exec .semaphoreAddAnswer s = .next (((s.dropPacket id).opStep a.op).enterOutbound)) ∧
  (∀ (s : State) (a : Access), mget s.laterals s.subj.a = some a → a.kind = .semRel → s.isHeld s.subj.a = false →
    (∀ i, i ∈ a.after → s.isPending i = false) →
    (∀ x, x ∈ s.laterals → x.1 < s.subj.a → x.2.kind = .semRel → x.2.tag = a.tag → s.isHeld x.1 = true) →
    (s.semWaits a.size a.tag.ctx = true → ∃ t, exec .semaphoreAdd s = .next t ∧ s.subj.a ∈ (t.cluster a.size).held ∧
      (((s.cluster a.size).held.map s.arrivalBytes).foldl (· + ·) 0 + s.arrivalBytes s.subj.a ≤ 0x10000 → t.mem = s.mem)) ∧
    (s.semsEntry a.size a.tag.ctx = none → ∃ t, exec .semaphoreAdd s = .next t ∧ mget t.laterals s.subj.a = none ∧
      t.mem = s.mem ∧ (s.holdsSlot a.size a.tag.ctx = true →
        (t.semOf a.size a.tag.ctx a.va).count = ((s.semOf a.size a.tag.ctx a.va).count + a.data) % 2 ^ 32))) ∧
  (∀ (s : State) (id : Nat) (p : Packet) (a : Access), s.packetDue id p 0xA false → mget s.laterals id = none →
    p.body = .access a → a.kind = .semRel →
    let earlier (e : Nat × Packet) (t' : Nat) : Prop := e ∈ s.packets ∧ e.1 ≠ id ∧ e.2.kind = 0xA ∧ e.2.answer = false ∧
      e.2.dst = p.dst ∧ s.isHeld e.1 = false ∧ e.2.loc = .arrived t' ∧ t' < p.arrivedAt
    ((∃ e t', earlier e t') → exec .semaphoreAdd s = .next s) ∧
    ((∀ e t', ¬ earlier e t') →
      (s.semWaits a.size a.tag.ctx = true → ∃ t, exec .semaphoreAdd s = .next t ∧ id ∈ (t.cluster a.size).held) ∧
      (s.semsEntry a.size a.tag.ctx = none →
        ∃ t q, exec .semaphoreAdd s = .next t ∧ mget t.packets id = some q ∧ q.kind = 0xA ∧ q.answer = true ∧ q.dst = p.src ∧
          (s.holdsSlot a.size a.tag.ctx = true →
            (t.semOf a.size a.tag.ctx a.va).count = ((s.semOf a.size a.tag.ctx a.va).count + a.data) % 2 ^ 32))))

/-- 03 R47, 06 R101, 24 R336, R341: LATERAL_ACCESS stores to a vault, or takes what its bytes hold; TRAVERSAL_RESULT reads a
word of a request's node, each by itself, and lands the words of the test of its node in the registers of its lane; a word
that faults gives a miss and a record with the node's address.

04 R71 to R77: a report whose key the filter holds is answered at once; a new key enters the filter, the oldest of 256
leaving it, and the report goes on to its ring's home; there it is appended with its sequence number, or dropped and
counted where the ring is full; the answer tells the lane or the page. That a fault of a traversal is one record of JOB 3 with
PROGRESS 0 is the model's choice (log 44). -/
def Obligations.VaultsAndFeedback : Prop :=
  ((∀ (s : State) (a : Access) (n : Nat), mget s.laterals s.subj.a = some a → s.isHeld s.subj.a = false →
      a.performed = false → (∀ i, i ∈ a.after → s.isPending i = false) → region a.pa = .vault n →
      s.vaultEntry ((a.pa - vaultBase) / vaultBytes) a.tag.ctx ((a.pa - vaultBase) % vaultBytes) = none →
      (a.kind = .store → a.dest = .none → ∃ t, exec .lateralAccess s = .next t ∧
        s.storedAt t a.pa (natToBytes a.size a.data) ∧ (s.regsEntry a.tag = none → mget t.laterals s.subj.a = none)) ∧
      (∀ w r l, a.kind = .load → a.dest = .lane r l false → l < 128 → s.regsEntry a.tag = none →
        s.residentOf a.tag = some w → r < w.bound → a.signed = false → a.size ≤ 4 →
        ∃ t w', exec .lateralAccess s = .next t ∧ t.mem = s.mem ∧ mget t.laterals s.subj.a = none ∧
          t.waveAt? a.tag.cl a.tag.row = some w' ∧
          w'.lane r l = BitVec.ofNat 32 (bytesToNat (memRead s.mem a.pa a.size)))) ∧
    (∀ (s s1 : State) (tr : Traversal), mget s.traversals s.subj.a = some tr → tr.asked = [] →
      (∀ i, i ∈ tr.after → s.isPending i = false) → s.isHeld s.subj.a = false →
      let ended (s : State) : State := ({ s with traversals := mdel s.traversals s.subj.a } : State).opStep tr.op
      (s.subj.b = 0 → tr.missing = [] →
        s.landWords tr.tag tr.lane tr.dst
          (tr.result ((List.range (nodeBytes tr.triangle / 4)).map (fun k => mgetD tr.got k 0))) = some s1 →
        s1.subj = s.subj → exec .traversalResult s = .next (ended s1).enterOutbound) ∧
      (∀ k x, s.subj.b = k + 1 → k ∈ tr.missing → s.readNode tr k = .word x s1 → s1.subj = s.subj →
        exec .traversalResult s = .next ({ s1 with
          traversals := mset s1.traversals s.subj.a { tr with got := mset tr.got k x } } : State).enterOutbound) ∧
      (∀ k c, s.subj.b = k + 1 → k ∈ tr.missing → s.readNode tr k = .fault c →
        s.landWords tr.tag tr.lane tr.dst tr.miss = some s1 → s1.subj = s.subj →
        exec .traversalResult s = .next ((ended s1).newFault tr.tag 3 c 0 tr.addr 0 tr.iaddr 0).enterOutbound)) ∧
    (∀ (s s1 : State) (tr : Traversal) (k pa attr : Nat),
      s.translate tr.tag.cl tr.tag.ctx ((tr.addr + 4 * k) % 2 ^ 64) .read = .ok (pa, attr) → sliceHomed pa = true →
      (s.poisoned pa 4 = true → s.readNode tr k = .fault causeDataError) ∧
      (s.poisoned pa 4 = false → s.moveLines (usesOf pa 4 (fun _ => .read (attrCa attr))) = some s1 →
        s.readNode tr k = .word (BitVec.ofNat 32 (memNat s.mem pa 4)) s1))) ∧
  ((∀ (s : State) (id : Nat) (p : Packet) (r : LodReport), s.packetDue id p 9 false → p.body = .lod r → r.filtered = false →
      let n := siteNumber p.dst
      let x := s.slice n
      let key : LodKey := { ctx := r.tag.ctx, resource := r.resource, level := r.level, px := r.px, py := r.py, word := r.word }
      let s1 := s.setSlice n { x with lod := (if x.lod.length < 256 then x.lod else x.lod.drop 1) ++ [key] }
      -- the key is the context, the resource, the level and the page
      let known : Prop := ∃ k, k ∈ x.lod ∧ k.ctx = key.ctx ∧ k.resource = key.resource ∧ k.level = key.level ∧ k.px = key.px ∧
        k.py = key.py
      (known → ∃ t q, exec .lodFeedbackReport s = .next t ∧ mget t.packets id = some q ∧ q.kind = 9 ∧
        q.answer = true ∧ q.dst = r.origin ∧ q.body = .lod { r with dropped := false } ∧ t.slices = s.slices) ∧
      (∀ pa ca, ¬ known → s.eddyVa r ≠ 0 → s1.eddyAt r.tag.cl r.tag.ctx (s.eddyVa r) = .ok (pa, ca) →
        ∃ t q, exec .lodFeedbackReport s = .next t ∧ t.slices = s1.slices ∧ mget t.packets id = some q ∧ q.kind = 9 ∧
          q.answer = false ∧ q.dst = sliceSite (s1.homeOf p.part pa) ∧ q.body = .lod { r with filtered := true } ∧
          t.mem = s.mem)) ∧
    (∀ (s : State) (id : Nat) (p : Packet) (r : LodReport) (pa ca : Nat) (h : EddyHeader), s.packetDue id p 9 false →
      s.thingHeld (.request id) = false → p.body = .lod r → r.filtered = true → s.eddyVa r ≠ 0 →
      (∀ e r' t', e ∈ s.packets → e.1 ≠ id → e.2.kind = 9 → e.2.answer = false → e.2.dst = p.dst → e.2.body = .lod r' →
        r'.filtered = true → s.isHeld e.1 = false → e.2.loc = .arrived t' → p.arrivedAt ≤ t') →
      s.eddyAt r.tag.cl r.tag.ctx (s.eddyVa r) = .ok (pa, ca) → s.poisoned pa 64 = false →
      eddyHeader (memRead s.mem pa 64) = some h → s.noBarrier pa 64 →
      let held := (h.produce + 2 ^ 32 - h.consume) % 2 ^ 32
      (2 ^ h.log2n ≤ held → ∃ t q, exec .eddyAppend s = .next t ∧ mget t.packets id = some q ∧ q.answer = true ∧
        q.dst = r.origin ∧ q.body = .lod { r with dropped := true } ∧
        s.storedAt t (pa + 24) (natToBytes 4 (min (h.overflow + 1) (2 ^ 32 - 1)))) ∧
      (∀ epa eca, held < 2 ^ h.log2n →
        s.eddyEntry r.tag.cl r.tag.ctx ((h.entries + h.produce % 2 ^ h.log2n * 16) % 2 ^ 64) = .ok (epa, eca) → s.noBarrier epa 16 →
        (∀ n, region epa = .vault n → s.vaultEntry n r.tag.ctx ((epa - vaultBase) % vaultBytes) = none) →
        (epa + 16 ≤ pa ∨ pa + 64 ≤ epa) →
        ∃ t q, exec .eddyAppend s = .next t ∧ mget t.packets id = some q ∧ q.answer = true ∧ q.dst = r.origin ∧
          q.body = .lod { r with dropped := false } ∧
          memRead t.mem epa 16 = natToBytes 4 r.resource ++ natToBytes 2 r.px ++ natToBytes 2 r.py ++
            natToBytes 1 (r.level % 16) ++ natToBytes 1 r.delivered ++ natToBytes 1 r.tag.cl ++ natToBytes 1 0 ++
            natToBytes 4 h.produce ∧
          memRead t.mem (pa + 8) 4 = natToBytes 4 ((h.produce + 1) % 2 ^ 32) ∧
          ∀ a, (a < epa ∨ epa + 16 ≤ a) → (a < pa + 8 ∨ pa + 12 ≤ a) → memByte t.mem a = memByte s.mem a)) ∧
    (∀ (s s1 : State) (id : Nat) (p : Packet) (r : LodReport), s.packetDue id p 9 true → p.body = .lod r →
      (r.job = none → r.dropped = false → s.landValue r.tag .none 0 = some s1 →
        exec .lodFeedbackAnswer s = .next (((s1.dropPacket id).opStep r.op).enterOutbound)) ∧
      (∀ jid page j g, r.job = some (jid, page) → mget s.jobs jid = some j → mget j.resolved page = some g →
        ∃ t j', exec .lodFeedbackAnswer s = .next t ∧ mget t.jobs jid = some j' ∧
          mget j'.resolved page = some { g with awaited := false, drop := r.dropped } ∧ mget t.packets id = none)))

/-- 10 R161, R165, R178, R179, 17 R294: WORKGROUP_START installs the head of the start queue at its places, its waves
before their ENTRY with the launch's arguments in s0 to s3; a full or timed-out bin starts a wave of its oldest
records; a spilled record enters the bin of its key.

03 R49, 08 R134, 10 R169, R172, 11 R191: a drained row that nothing is owed is freed, and with its last row the
workgroup ends, keeping its vault range until VAULT_RELEASE; the plane is released when its holder's last wave has exited and
its transfers have landed; a killed workgroup is gone.

The lowest places (log 19), what a lost workgroup waits for (log 47), a slot that stays taken until VAULT_RELEASE (log 52) and the
low bits of a pc (log 93) are the model's choices. -/
def Obligations.WorkgroupsStartAndEnd : Prop :=
  ((∀ (s : State) (e : StartEntry) (rest : List StartEntry) (w : Want) (l : Launch) (m : MapEntry) (p : Place),
      let cl := s.subj.a
      (s.cluster cl).startQ = e :: rest → s.wantOf e = some (w, l, m) → (s.cluster cl).retired = false →
      s.freezing cl = false → s.outgone cl w = false → s.placeNow cl w = some p →
      (s.holdsSlot cl w.ctx = true ∨ s.semsEntry cl w.ctx = none) → (m.waves.map Prod.snd).Nodup →
      ∃ t g, exec .workgroupStart s = .next t ∧ (t.cluster cl).startQ = rest ∧ mget (t.cluster cl).wgs p.slot = some g ∧
        g.ctx = l.ctx ∧ g.launch = e.launch ∧ (g.x, g.y, g.z) = l.hdr.coords e.index ∧ g.rows = m.waves.map Prod.snd ∧
        g.vaultLo = p.vault ∧ g.vaultN = l.hdr.vaultG ∧
        ∀ n stage row, m.waves[n]? = some (stage, row) → ∃ v, t.waveAt? cl row = some v ∧ v.wnum = n ∧ v.stage = stage ∧
          v.ctx = l.ctx ∧ v.wgslot = p.slot ∧ v.pc = l.kernel / 4 * 4 ∧ v.needEntry = true ∧ v.intrap = false ∧ v.gang = 0 ∧
          v.bound = l.hdr.regs ∧ v.fflagsEn = 0b11100 ∧ (∀ i, i < 4 → mgetD v.s i 0 = l.args.getD i 0) ∧
          (∀ i, 4 ≤ i → mgetD v.s i 0 = 0) ∧ (∀ i, mgetD v.k i 0 = 0) ∧ ∀ r i, v.lane r i = 0) ∧
    (∀ (i : Instr) (s : State) (b : Bin) (row base slot : Nat),
      let cl := s.subj.a
      let n := min 128 b.recs.length
      s.binReady cl s.subj.b = some b →
      (i = .binWaveStart ∧ (128 ≤ b.recs.length ∨ b.timer ≤ s.now) ∨ i = .spawnTimeout ∧ b.timer ≤ s.now) →
      (s.cluster cl).binPlace b.ctx b.bound = some (row, base) →
      firstBelow ((s.cluster cl).wgSlotFree b.ctx none) 64 0 = some slot →
      ∃ t g v, exec i s = .next t ∧ mget (t.cluster cl).wgs slot = some g ∧ g.ctx = b.ctx ∧ g.x = 0xFFFF ∧ g.y = 0xFFFF ∧
        g.z = 0xFFFF ∧ g.rows = [row] ∧ t.waveAt? cl row = some v ∧ v.pc = b.entryPc / 4 * 4 ∧ v.needEntry = true ∧
        v.spawned = true ∧
        v.base = base ∧ v.bound = b.bound ∧ mgetD v.s 0 0 = BitVec.ofNat 64 n ∧
        (∀ r j, r < 4 → j < n → v.lane r j = (b.recs.getD j []).getD r 0) ∧
        (b.recs.length ≤ 128 → mget (t.cluster cl).bins s.subj.b = none) ∧
        (128 < b.recs.length → ∃ b', mget (t.cluster cl).bins s.subj.b = some b' ∧ b'.recs = b.recs.drop 128)) ∧
    (∀ (s read s' : State) (q : SpillHeader) (b : List Byte) (n : Nat) (bin : Bin),
      let cl := s.subj.a
      let ctx := s.subj.b
      let k := read.cluster cl
      s.holdsSlot cl ctx = true → (s.ctxOf ctx).life ≠ .destroying → s.spillHeader cl ctx = .ok q → q.count ≠ 0 →
      -- the lines of the header and of the record have moved
      (s.charge (s.spillUses cl ctx)).readArea cl ctx (q.entry q.head) 32 = .ok (b, read) → k.binFor ctx (spawnRecOf b).entryPc = some n →
      mget k.bins n = some bin →
      let s1 : State := { read with fresh := read.fresh + 1 }
      (s1.setCluster cl { k with bins := mset k.bins n { bin with recs := bin.recs ++ [(spawnRecOf b).words] } }).hwWrite cl ctx
        (s.spillAddr cl ctx + 8) (natToBytes 4 ((q.head + 1) % 2 ^ 32)) = .ok s' →
      exec .spillRefill s = .next s')) ∧
  ((∀ (s : State) (w : Wave) (g : Wg),
      let cl := s.subj.a
      let row := s.subj.b
      let k := s.cluster cl
      mget k.waves row = some w → w.draining = true → s.owesWave (w.tag cl row) = false →
      s.wgEntry cl w.ctx w.wgslot .regs = none → mget k.wgs w.wgslot = some g →
      ((∃ x, x ∈ k.waves ∧ x.1 ≠ row ∧ x.2.wgslot = w.wgslot) →
        exec .leaseFree s = .next (s.setCluster cl { k with waves := mdel k.waves row })) ∧
      ((∀ x, x ∈ k.waves → x.2.wgslot = w.wgslot → x.1 = row) →
        ∃ t, exec .leaseFree s = .next t ∧ t.waveAt? cl row = none ∧ mget (t.cluster cl).wgs w.wgslot = none ∧
          mget (t.cluster cl).ended w.wgslot = some g)) ∧
    (∀ (s : State) (w : Wave), s.waveAt? s.subj.a s.subj.b = some w →
      w.draining = false ∨ s.owesWave (w.tag s.subj.a s.subj.b) = true → exec .leaseFree s = .next s) ∧
    (∀ (s : State) (g : Wg),
      let cl := s.subj.a
      let slot := s.subj.b
      mget (s.cluster cl).ended slot = some g →
      (s.wgBusy cl slot g = true → exec .vaultRelease s = .next s) ∧
      (s.wgBusy cl slot g = false → (s.cluster cl).planeOf g.ctx slot = none →
        ∃ t, exec .vaultRelease s = .next t ∧ mget (t.cluster cl).ended slot = none ∧
          ∀ x, x ∈ (t.cluster cl).tiles → x.2.ctx = g.ctx → x.2.owner ≠ slot)) ∧
    (∀ (s : State) (p : Plane), (s.cluster s.subj.a).plane = some p →
      let running : Prop := ∃ x, x ∈ (s.cluster s.subj.a).wavesOf p.wgslot ∧ x.2.ctx = p.ctx ∧ x.2.draining = false
      (running → exec .planeRelease s = .next s) ∧
      (¬ running → (∀ j, j ∈ s.jobs → j.2.isPlane = false) → exec .planeRelease s = .next (s.setPlane s.subj.a none))) ∧
    (∀ (s : State) (a : Away), mget (s.cluster s.subj.a).away s.subj.b = some a → a.mode = .killed ∨ a.mode = .lost →
      (s.wgBusy s.subj.a (s.subj.b % 64) a.wg = true → exec .workgroupLost s = .next s) ∧
      (s.wgBusy s.subj.a (s.subj.b % 64) a.wg = false →
        ∃ t, exec .workgroupLost s = .next t ∧ mget (t.cluster s.subj.a).away s.subj.b = none)))

/-- 08 R129, R130, R131, R138, 11 R191, 20 R308: EVICTION_DONE writes a semaphore file to its shadow and frees the slot; MERGE_DRAINED gives
every semaphore COUNT + DELTA; PARK takes a stopped workgroup with a pending record away; WORKGROUP_RESUME installs one that
comes back, not yet running, and sets its entries to MERGING; the Millrace's state comes back to one that has resumed, where the
array is free. That PARK and EVICTION_DONE may complete at once or by parts is the model's choice (log 16). -/
def Obligations.EvictionAndReturn : Prop :=
  (∀ (s s1 : State) (e : DivEntry) (x : Nat × CtxSlot),
    let cl := s.subj.a
    let k := s.cluster cl
    (k.div.map Prod.snd).filter (fun d => d.state == .evicting) = [e] → e.kind = .sems → e.issued = 0 → s.subj.b = 0 →
    k.slots.find? (fun y => y.2.ctx == e.ctx) = some x → semRecords x.2.sems = [] → (∀ b, b ∈ k.bins → b.2.ctx ≠ e.ctx) →
    k.held = [] → s.millOwners cl = [] → s.hwWrite cl e.ctx (s.areaOf cl e.ctx + 0x1200800)
      ((rangeFrom 0 64).flatMap (fun n => natToBytes 16 (mgetD x.2.sems n {}).count)) = .ok s1 →
    ∃ t, exec .evictionDone s = .next t ∧ t.mem = s1.mem ∧ mget (t.cluster cl).slots x.1 = none ∧
      ∀ d, d ∈ (t.cluster cl).div → d.2.state ≠ .evicting) ∧
  (∀ (s : State) (e : DivEntry) (b : List Byte),
    let cl := s.subj.a
    let k := s.cluster cl
    (k.div.map Prod.snd).filter (fun d => d.state == .merging) = [e] → e.kind = .sems → k.held = [] →
    (∀ g, g ∈ k.wgs → g.2.ctx = e.ctx → g.2.stopped = false) →
    s.hwRead cl e.ctx (s.areaOf cl e.ctx + 0x1200800) 1024 = .ok b →
    (∀ ctx slot l m0, s.millOwners cl = (ctx, slot) :: l → s.savedMill cl ctx slot = some m0 → k.mill = none →
      ∃ t m, exec .mergeDrained s = .next t ∧ (t.cluster cl).mill = some m ∧ m.ctx = m0.ctx ∧ m.wgslot = slot ∧
        m.scales = m0.scales ∧ m.fmtByte = m0.fmtByte ∧ m.kbm1 = m0.kbm1 ∧ m.flags0 = m0.flags0) ∧
    ∃ t, exec .mergeDrained s = .next t ∧ (s.millOwners cl = [] → t.mem = s.mem) ∧ (∀ d, d ∈ (t.cluster cl).div → d.2.state ≠ .merging) ∧
      ∀ y n, y ∈ (t.cluster cl).slots → y.2.ctx = e.ctx → n < 64 →
        (mgetD y.2.sems n {}).count =
          (bytesToNat ((b.drop (16 * n)).take 4) + bytesToNat ((b.drop (16 * n + 4)).take 4)) % 2 ^ 32) ∧
  (∀ (s : State) (g : Wg),
    let cl := s.subj.a
    let slot := s.subj.b
    let k := s.cluster cl
    mget k.wgs slot = some g → g.stopped = true → g.escalated = false →
    (∃ x, x ∈ k.wavesOf slot ∧ x.2.pending.isSome = true) → k.divQuiet = true →
    k.divRoom (s.entriesNeeded cl [slot] false) = true → k.held = [] →
    -- no plane instruction of it has begun and is not finished
    (s.beginEvict cl [slot] none).planeUnfinished cl = false →
    -- taken away in one step, or begun
    (s.subj.c = 0 → ∃ t a, exec .park s = .next t ∧ mget (t.cluster cl).wgs slot = none ∧
      mget (t.cluster cl).away (64 * g.ctx + slot) = some a ∧ a.mode = .parked) ∧
    (s.subj.c ≠ 0 → ∃ t d, exec .park s = .next t ∧ t.mem = s.mem ∧ d ∈ (t.cluster cl).div ∧ d.2.kind = .regs ∧
      d.2.ctx = g.ctx ∧ d.2.wgslot = slot ∧ d.2.state = .evicting)) ∧
  (∀ (s : State) (a : Away) (p : Place) (r : Restored),
    let cl := s.subj.a
    let slot := s.subj.b % 64
    let k := s.cluster cl
    mget k.away s.subj.b = some a → a.waits = true → k.divQuiet = true → s.freezing cl = false → k.retired = false →
    s.outgone cl (a.want s.subj.b) = false → s.placeNow cl (a.want s.subj.b) = some p → a.broken = false →
    (s.gainSlot cl a.wg.ctx).readAway cl slot a = .ok r →
    ∃ t, exec .workgroupResume s = .next t ∧ t.mem = s.mem ∧
      mget (t.cluster cl).wgs slot = some { a.wg with stopped := true, queues := r.queues } ∧
      mget (t.cluster cl).away (64 * a.wg.ctx + slot) = some { a with merging := true } ∧
      ∀ d, d ∈ (t.cluster cl).div → d.2.ctx = a.wg.ctx → (d.2.kind = .sems ∨ d.2.wgslot = slot) → d.2.state = .merging)

/-- 03 R52, 07 R114, R116, 16 R274, 20 R304, R305: ENGINE_ELEMENT of a copy reaches its next element, reads one of those on
their way, or sends one that has been read, with others for the same line; data that arrives is stored and its piece counts
down; a landed piece counts its tile down, and the last one completes the job; once all its data has landed its waves'
counters are done. -/
def Obligations.EngineJobs : Prop :=
  (∀ (s : State) (j : Job) (src dst : Nat) (e : Extent) (pa at1 pa2 at2 : Nat),
    mget s.jobs s.subj.a = some j → j.kind = .copy src dst e → s.subj.b = 0 → j.pos < j.total → s.jobReady j = true →
    let va := addr src (e.srcOff j.pos)
    s.checkAccess j.owner.cl j.owner.ctx va e.esz .read none = .ok (pa, at1) →
    (s.accessOf dstAccess).checkAccess j.owner.cl j.owner.ctx (addr dst (e.dstOff j.pos)) e.esz .write none = .ok (pa2, at2) →
    -- its translations are cached
    let used (s : State) (va : Nat) : State := s.cacheUse j.owner.cl j.owner.ctx va
    exec .engineElement s = .next ((used (used s va) (addr dst (e.dstOff j.pos))).setJob s.subj.a { j with
      pos := j.pos + 1
      flight := j.flight ++ [{ n := j.pos, src := some (va, pa, at1), dst := addr dst (e.dstOff j.pos), dstPa := pa2, attr := at2
                               born := s.nextId }] })) ∧
  (∀ (s : State) (j : Job), mget s.jobs s.subj.a = some j → s.subj.b = 0 → s.jobReady j = false →
    exec .engineElement s = .next s) ∧
  (∀ (s s1 : State) (j : Job) (src dst k va pa attr : Nat) (e : Extent) (f : Flight),
    mget s.jobs s.subj.a = some j → j.kind = .copy src dst e → s.subj.b = k + 1 → j.flight[k]? = some f →
    f.src = some (va, pa, attr) → sliceHomed pa = true → s.poisoned pa e.esz = false → s.noTarget pa = false →
    s.thingHeld (.element s.subj.a f.n) = false →
    s.moveLines (usesOf pa e.esz (fun _ => .read (attrCa attr))) = some s1 →
    let part := s.partOfCtx j.owner.ctx
    -- where the line is, and the streamer that the element's piece belongs to
    let home := sliceSite (s.homeOf part pa)
    let goal := sliceSite (j.pieceOf j.owner.cl f.n)
    ∃ t j', exec .engineElement s = .next t ∧ mget t.jobs s.subj.a = some j' ∧ j'.pos = j.pos ∧ t.mem = s.mem ∧
      (nearSites home goal = true → j'.flight[k]? = some { f with src := none, coming := false, data := memRead s.mem pa e.esz, flags := 0 }) ∧
      (nearSites home goal = false → j'.flight[k]? = some { f with src := none, coming := true } ∧
        ∃ p, mget t.packets s.nextId = some p ∧ p.kind = 6 ∧ p.src = home ∧ p.dst = goal ∧ p.answer = false ∧
          p.body = .element s.subj.a f.n (memRead s.mem pa e.esz))) ∧
  (∀ (s : State) (id job n : Nat) (p : Packet) (bs : List Byte) (j : Job) (src dst : Nat) (e : Extent) (f : Flight),
    s.packetDue id p 6 false → p.body = .element job n bs → mget s.addTiles id = none → s.queuedBehind id p = false →
    mget s.jobs job = some j → j.kind = .copy src dst e → j.flight.find? (fun f => f.n == n && f.coming) = some f →
    ∃ t, exec .copyData s = .next t ∧ mget t.packets id = none ∧ t.mem = s.mem ∧
      mget t.jobs job = some (j.setFlight { f with src := none, coming := false, data := bs, flags := 0 })) ∧
  (∀ (s : State) (j : Job) (src dst k : Nat) (e : Extent) (f : Flight),
    mget s.jobs s.subj.a = some j → j.kind = .copy src dst e → s.subj.b = k + 1 → j.flight[k]? = some f →
    (∀ i g, i ≤ k → j.flight[i]? = some g → g.src = none ∧ g.coming = false) →
    ∃ t j' p w, exec .engineElement s = .next t ∧ t.mem = s.mem ∧ mget t.packets s.nextId = some p ∧ p.kind = 6 ∧
      p.body = .copy w ∧ w.job = s.subj.a ∧ w.pa = f.dstPa / 64 * 64 ∧ (f.dstPa % 64, f.data) ∈ w.parts ∧
      w.count = w.parts.length ∧ w.add = false ∧ (1 < s.subj.c → w.parts = [(f.dstPa % 64, f.data)]) ∧ mget t.jobs s.subj.a = some j' ∧ j'.pos = j.pos ∧
      ∀ g, g ∈ j'.flight → g ∈ j.flight ∧ g.n ≠ f.n) ∧
  (∀ (s : State) (id : Nat) (p : Packet) (w : CopyWrite) (bs : List Byte), s.packetDue id p 6 false → p.body = .copy w →
    mget s.addTiles id = none → s.queuedBehind id p = false → sliceHomed w.pa = true → s.noTarget w.pa = false → w.add = false →
    w.flags = 0 → w.cell = none → w.parts = [(0, bs)] → s.noBarrier w.pa bs.length → (s.moveLines w.uses).isSome →
    (∀ j, mget s.jobs w.job = some j → j.faults = []) →
    ∃ t, exec .copyData s = .next t ∧ s.storedAt t w.pa bs ∧ mget t.packets id = none ∧
      ∀ j n, mget s.jobs w.job = some j → mget j.pieces w.piece = some n →
        ∃ j', mget t.jobs w.job = some j' ∧ mget j'.pieces w.piece = some (n - w.count)) ∧
  (∀ (s : State) (id job piece first off : Nat) (p : Packet) (bs : List Byte), s.packetDue id p 7 false →
    p.body = .multicast job piece first off [(0, bs)] → (∀ j, mget s.jobs job = some j → j.faults = []) →
    let cl := siteNumber p.dst
    cl < 128 → off < vaultBytes → off + bs.length ≤ vaultBytes → s.holdsSlot cl p.ctx = true → s.vaultEntry cl p.ctx off = none →
    ∃ t, exec .multicastCopyData s = .next t ∧ s.storedAt t (vaultBase + cl * vaultBytes + off) bs ∧
      mget t.packets id = none) ∧
  (∀ (s : State) (j : Job), mget s.jobs s.subj.a = some j →
    let left (m : SMap Nat) : SMap Nat := mdel m s.subj.b
    (s.subj.c = 0 → mget j.pieces s.subj.b = some 0 → s.thingHeld (.piece s.subj.a s.subj.b false) = false →
      (s.pieceHeld j false = true → ∃ t h, exec .pieceLanding s = .next t ∧ t.jobs = s.jobs ∧
        h ∈ (t.cluster j.owner.cl).held ∧ mget (t.cluster j.owner.cl).heldThings h =
          some { ctx := j.owner.ctx, what := .piece s.subj.a s.subj.b false }) ∧
      (s.pieceHeld j false = false → j.fill = none → mdel j.pieces s.subj.b ≠ [] →
        exec .pieceLanding s = .next (s.setJob s.subj.a { j with pieces := mdel j.pieces s.subj.b })) ∧
      (∀ n x, s.pieceHeld j false = false → j.fill = some n → mdel j.pieces s.subj.b ≠ [] →
        s.wgEntry j.owner.cl j.owner.ctx j.owner.wgslot .tiles = none → mget (s.cluster j.owner.cl).tiles n = some x →
        x.ctx = j.owner.ctx → x.owner = j.owner.wgslot →
        exec .pieceLanding s = .next ((s.updTile j.owner.cl n (fun x => { x with
          pend := (left j.pieces).length + (if j.readOut = some n then j.toRead.length else 0) })).setJob s.subj.a
            { j with pieces := left j.pieces })) ∧
      -- the last piece of a fill makes its tile READY
      (∀ n x, s.pieceHeld j false = false → j.fill = some n → mdel j.pieces s.subj.b = [] → j.toRead = [] → j.faults = [] →
        j.sem = none → s.wgEntry j.owner.cl j.owner.ctx j.owner.wgslot .tiles = none →
        mget (s.cluster j.owner.cl).tiles n = some x → x.ctx = j.owner.ctx → x.owner = j.owner.wgslot →
        ∃ t x', exec .pieceLanding s = .next t ∧ mget (t.cluster j.owner.cl).tiles n = some x' ∧ x'.pend = 0 ∧
          x'.state = .ready ∧ x'.base = x.base ∧ x'.size = x.size) ∧
      (∀ op o, s.pieceHeld j false = false → j.fill = none → j.toRead = [] → mdel j.pieces s.subj.b = [] → j.faults = [] →
        j.sem = none → j.cpOps = [op] → j.fillOps = [] → j.readOps = [] → mget s.ops op = some o → o.left = 1 →
        ∃ t, exec .pieceLanding s = .next t ∧ mget t.jobs s.subj.a = none ∧ mget t.ops op = none)) ∧
    -- a piece of a read-out that has been read counts its tile down, though its data may still be on its way
    (∀ n x, s.subj.c ≠ 0 → mget j.toRead s.subj.b = some 0 → s.pieceIsHeld j s.subj.a s.subj.b true = false →
      j.steps = j.stepsPaid → s.pieceHeld j true = false → j.readOut = some n → mdel j.toRead s.subj.b ≠ [] →
      s.wgEntry j.owner.cl j.owner.ctx j.owner.wgslot .tiles = none → mget (s.cluster j.owner.cl).tiles n = some x →
      x.ctx = j.owner.ctx → x.owner = j.owner.wgslot →
      exec .pieceLanding s = .next ((s.updTile j.owner.cl n (fun x => { x with
        pend := (if j.fill = some n then j.pieces.length else 0) + (left j.toRead).length })).setJob s.subj.a
          { j with toRead := left j.toRead }))) ∧
  (∀ (s : State) (id op : Nat) (j : Job) (o : Op), mget s.jobs id = some j → j.done = true → j.faults = [] → j.cpOps = [op] →
    mget s.ops op = some o → o.left = 1 →
    mget (s.settleJob id).ops op = none ∧ mget (s.settleJob id).jobs id = some { j with cpOps := [] })
end

