-- ==== Sys2Proof/Laws/Maps.lean ====
section
/-!
SUPPORT. What sorted tables give back: reading after replacing and removing, and that both keep the keys rising.
-/
namespace Sys2Proof.Machine

@[simp] theorem mget_nil {α : Type} (n : Nat) : mget ([] : SMap α) n = none := rfl

@[simp] theorem mget_mset_same {α : Type} (m : SMap α) (n : Nat) (v : α) : mget (mset m n v) n = some v := by
  induction m with
  | nil => simp [mset, mget]
  | cons e t ih =>
    obtain ⟨k, a⟩ := e
    simp only [mset]
    split
    · simp [mget]
    · split
      · simp [mget]
      · rename_i h1 h2
        simp [mget, h2, ih]

theorem mget_mset_ne {α : Type} (m : SMap α) {n p : Nat} (v : α) (h : p ≠ n) : mget (mset m n v) p = mget m p := by
  induction m with
  | nil => simp [mset, mget, h]
  | cons e t ih =>
    obtain ⟨k, a⟩ := e
    simp only [mset]
    split
    · simp [mget, h]
    · split
      · rename_i h1 h2
        subst h2
        simp [mget, h]
      · simp [mget, ih]

@[simp] theorem mgetD_mset_same {α : Type} (m : SMap α) (n : Nat) (v d : α) : mgetD (mset m n v) n d = v := by
  simp [mgetD]

theorem mgetD_mset_ne {α : Type} (m : SMap α) {n p : Nat} (v d : α) (h : p ≠ n) :
    mgetD (mset m n v) p d = mgetD m p d := by
  simp [mgetD, mget_mset_ne m v h]

/-- A lower bound of the keys may be lowered. -/
theorem sortedFrom_le {α : Type} {m : SMap α} {lo lo' : Nat} (h : sortedFrom lo m = true) (hl : lo' ≤ lo) :
    sortedFrom lo' m = true := by
  cases m with
  | nil => rfl
  | cons e t =>
    obtain ⟨k, a⟩ := e
    simp only [sortedFrom, Bool.and_eq_true, decide_eq_true_eq] at h ⊢
    exact ⟨by omega, h.2⟩

theorem sortedFrom_mset {α : Type} {m : SMap α} {lo n : Nat} (v : α) (h : sortedFrom lo m = true) (hn : lo ≤ n) :
    sortedFrom lo (mset m n v) = true := by
  induction m generalizing lo with
  | nil => simp [mset, sortedFrom, hn]
  | cons e t ih =>
    obtain ⟨k, a⟩ := e
    simp only [sortedFrom, Bool.and_eq_true, decide_eq_true_eq] at h
    simp only [mset]
    split
    · simp only [sortedFrom, Bool.and_eq_true, decide_eq_true_eq]
      exact ⟨hn, by omega, h.2⟩
    · split
      · rename_i h1 h2
        subst h2
        simp [sortedFrom, hn, h.2]
      · simp only [sortedFrom, Bool.and_eq_true, decide_eq_true_eq]
        exact ⟨h.1, ih h.2 (by omega)⟩

theorem sortedFrom_mdel {α : Type} {m : SMap α} {lo : Nat} (n : Nat) (h : sortedFrom lo m = true) :
    sortedFrom lo (mdel m n) = true := by
  induction m generalizing lo with
  | nil => rfl
  | cons e t ih =>
    obtain ⟨k, a⟩ := e
    simp only [sortedFrom, Bool.and_eq_true, decide_eq_true_eq] at h
    simp only [mdel]
    split
    · exact sortedFrom_le (ih h.2) (by omega)
    · simp [sortedFrom, h.1, ih h.2]

@[simp] theorem mget_mdel_same {α : Type} (m : SMap α) (n : Nat) : mget (mdel m n) n = none := by
  induction m with
  | nil => rfl
  | cons e t ih =>
    obtain ⟨k, a⟩ := e
    simp only [mdel]
    split
    · exact ih
    · rename_i h1
      simp [mget, h1, ih]

theorem mget_mdel_ne {α : Type} (m : SMap α) {n p : Nat} (hp : p ≠ n) : mget (mdel m n) p = mget m p := by
  induction m with
  | nil => rfl
  | cons e t ih =>
    obtain ⟨k, a⟩ := e
    simp only [mdel]
    split
    · rename_i h1
      subst h1
      simp [mget, hp, ih]
    · simp [mget, ih]

@[simp] theorem mgetD_msetD_same {α : Type} [DecidableEq α] (m : SMap α) (n : Nat) (d v : α) :
    mgetD (msetD m n d v) n d = v := by
  unfold msetD
  split
  · rename_i h
    simp [mgetD, h]
  · simp

theorem mgetD_msetD_ne {α : Type} [DecidableEq α] (m : SMap α) {n p : Nat} (d v d' : α) (h : p ≠ n) :
    mgetD (msetD m n d v) p d' = mgetD m p d' := by
  unfold msetD mgetD
  split
  · rw [mget_mdel_ne m h]
  · rw [mget_mset_ne m v h]

/-- Entries of a table after a replacement are the new one or old ones. -/
theorem all_mset {α : Type} {m : SMap α} {n : Nat} {v : α} {p : Nat × α → Bool} (h : m.all p = true) (hv : p (n, v) = true) :
    (mset m n v).all p = true := by
  induction m with
  | nil => simp [mset, hv]
  | cons e t ih =>
    obtain ⟨k, a⟩ := e
    simp only [List.all_cons, Bool.and_eq_true] at h
    simp only [mset]
    split
    · simp [hv, h.1, h.2]
    · split
      · simp [hv, h.2]
      · simp [h.1, ih h.2]

theorem all_mdel {α : Type} {m : SMap α} {n : Nat} {p : Nat × α → Bool} (h : m.all p = true) : (mdel m n).all p = true := by
  induction m with
  | nil => rfl
  | cons e t ih =>
    obtain ⟨k, a⟩ := e
    simp only [List.all_cons, Bool.and_eq_true] at h
    simp only [mdel]
    split
    · exact ih h.2
    · simp [h.1, ih h.2]

end Sys2Proof.Machine
end

