-- ==== Sys2Proof/Laws/Memory.lean ====
section
/-!
SUPPORT. Device memory: a read after a write, what a write leaves alone, and that every memory operation keeps the
canonical form.
-/
namespace Sys2Proof.Machine

theorem wf_sorted {m : List Host.Cell} (h : Memory.wf m = true) : sortedFrom (α := Byte) 0 m = true := by
  simp only [Memory.wf, Bool.and_eq_true] at h
  exact h.1

theorem wf_memSetByte {m : List Host.Cell} (a : Nat) (b : Byte) (h : Memory.wf m = true) :
    Memory.wf (memSetByte m a b) = true := by
  simp only [Memory.wf, Bool.and_eq_true] at h ⊢
  unfold memSetByte msetD
  split
  · exact ⟨sortedFrom_mdel a h.1, all_mdel h.2⟩
  · rename_i hb
    exact ⟨sortedFrom_mset b h.1 (Nat.zero_le a), all_mset h.2 (by simp [hb])⟩

theorem wf_memWrite {m : List Host.Cell} (a : Nat) (bs : List Byte) (h : Memory.wf m = true) :
    Memory.wf (memWrite m a bs) = true := by
  induction bs generalizing m a with
  | nil => exact h
  | cons b t ih => exact ih (a + 1) (wf_memSetByte a b h)

theorem wf_memSetNat {m : List Host.Cell} (a n w : Nat) (h : Memory.wf m = true) : Memory.wf (memSetNat m a n w) = true :=
  wf_memWrite a _ h

theorem sortedFrom_filter {α : Type} {m : SMap α} {lo : Nat} (p : Nat × α → Bool) (h : sortedFrom lo m = true) :
    sortedFrom lo (m.filter p) = true := by
  induction m generalizing lo with
  | nil => rfl
  | cons e t ih =>
    obtain ⟨k, a⟩ := e
    simp only [sortedFrom, Bool.and_eq_true, decide_eq_true_eq] at h
    simp only [List.filter_cons]
    split
    · simp [sortedFrom, h.1, ih h.2]
    · exact sortedFrom_le (ih h.2) (by omega)

/-- Memory with some of its entries left out keeps the form. -/
theorem wf_filter {m : List Host.Cell} (p : Host.Cell → Bool) (h : Memory.wf m = true) : Memory.wf (m.filter p) = true := by
  simp only [Memory.wf, Bool.and_eq_true] at h ⊢
  refine ⟨sortedFrom_filter _ h.1, ?_⟩
  rw [List.all_eq_true] at *
  intro x hx
  exact h.2 x ((List.mem_filter.mp hx).1)

theorem wf_memClear {m : List Host.Cell} (a n : Nat) (h : Memory.wf m = true) : Memory.wf (memClear m a n) = true :=
  wf_filter _ h

/-- A byte reads as it was written. -/
@[simp] theorem memByte_memSetByte_same (m : List Host.Cell) (a : Nat) (b : Byte) : memByte (memSetByte m a b) a = b :=
  mgetD_msetD_same m a unlistedByte b

/-- A write of one byte leaves every other byte alone. -/
theorem memByte_memSetByte_ne (m : List Host.Cell) {a x : Nat} (b : Byte) (hx : x ≠ a) :
    memByte (memSetByte m a b) x = memByte m x :=
  mgetD_msetD_ne m unlistedByte b unlistedByte hx

/-- A write leaves every byte outside it alone. -/
theorem memByte_memWrite_outside (m : List Host.Cell) {a x : Nat} {bs : List Byte}
    (hx : x < a ∨ a + bs.length ≤ x) : memByte (memWrite m a bs) x = memByte m x := by
  induction bs generalizing m a with
  | nil => rfl
  | cons b t ih =>
    simp only [List.length_cons] at hx
    show memByte (memWrite (memSetByte m a b) (a + 1) t) x = memByte m x
    rw [ih _ (by omega), memByte_memSetByte_ne m b (by omega)]

/-- Bytes read as they were written. -/
theorem memRead_memWrite_same (m : List Host.Cell) (a : Nat) (bs : List Byte) :
    memRead (memWrite m a bs) a bs.length = bs := by
  induction bs generalizing m a with
  | nil => rfl
  | cons b t ih =>
    show memByte (memWrite (memSetByte m a b) (a + 1) t) a :: memRead (memWrite (memSetByte m a b) (a + 1) t) (a + 1) t.length
      = b :: t
    rw [ih, memByte_memWrite_outside _ (by omega), memByte_memSetByte_same]

/-- Equal canonical memories are those whose every byte reads the same: a byte the memory lists is not the unlisted one. -/
theorem listed_of_memByte {m : List Host.Cell} {a : Nat} (h : memByte m a ≠ unlistedByte) : (mget (α := Byte) m a).isSome := by
  unfold memByte mgetD at h
  cases hm : mget (α := Byte) m a with
  | none => simp [hm] at h
  | some b => rfl

end Sys2Proof.Machine
end

