-- ==== Sys2Proof/Laws/State.lean ====
section
/-!
SUPPORT. The fields of the machine after each update of a cluster, a slice, a wave, a workgroup and the identifiers: one
lemma for each field and update, so that no proof unfolds a record update.
-/
namespace Sys2Proof.Machine

/-! ### setCluster -/

@[simp] theorem State.setCluster_now (s : State) (n : Nat) (k : Cluster) : (s.setCluster n k).now = s.now := rfl
@[simp] theorem State.setCluster_mem (s : State) (n : Nat) (k : Cluster) : (s.setCluster n k).mem = s.mem := rfl
@[simp] theorem State.setCluster_poison (s : State) (n : Nat) (k : Cluster) : (s.setCluster n k).poison = s.poison := rfl
@[simp] theorem State.setCluster_dev (s : State) (n : Nat) (k : Cluster) : (s.setCluster n k).dev = s.dev := rfl
@[simp] theorem State.setCluster_parts (s : State) (n : Nat) (k : Cluster) : (s.setCluster n k).parts = s.parts := rfl
@[simp] theorem State.setCluster_ctxs (s : State) (n : Nat) (k : Cluster) : (s.setCluster n k).ctxs = s.ctxs := rfl
@[simp] theorem State.setCluster_clusters (s : State) (n : Nat) (k : Cluster) : (s.setCluster n k).clusters = mset s.clusters n k := rfl
@[simp] theorem State.setCluster_slices (s : State) (n : Nat) (k : Cluster) : (s.setCluster n k).slices = s.slices := rfl
@[simp] theorem State.setCluster_ops (s : State) (n : Nat) (k : Cluster) : (s.setCluster n k).ops = s.ops := rfl
@[simp] theorem State.setCluster_packets (s : State) (n : Nat) (k : Cluster) : (s.setCluster n k).packets = s.packets := rfl
@[simp] theorem State.setCluster_laterals (s : State) (n : Nat) (k : Cluster) : (s.setCluster n k).laterals = s.laterals := rfl
@[simp] theorem State.setCluster_ports (s : State) (n : Nat) (k : Cluster) : (s.setCluster n k).ports = s.ports := rfl
@[simp] theorem State.setCluster_credits (s : State) (n : Nat) (k : Cluster) : (s.setCluster n k).credits = s.credits := rfl
@[simp] theorem State.setCluster_flitTokens (s : State) (n : Nat) (k : Cluster) : (s.setCluster n k).flitTokens = s.flitTokens := rfl
@[simp] theorem State.setCluster_jobs (s : State) (n : Nat) (k : Cluster) : (s.setCluster n k).jobs = s.jobs := rfl
@[simp] theorem State.setCluster_addTiles (s : State) (n : Nat) (k : Cluster) : (s.setCluster n k).addTiles = s.addTiles := rfl
@[simp] theorem State.setCluster_traversals (s : State) (n : Nat) (k : Cluster) : (s.setCluster n k).traversals = s.traversals := rfl
@[simp] theorem State.setCluster_launches (s : State) (n : Nat) (k : Cluster) : (s.setCluster n k).launches = s.launches := rfl
@[simp] theorem State.setCluster_hostReqs (s : State) (n : Nat) (k : Cluster) : (s.setCluster n k).hostReqs = s.hostReqs := rfl
@[simp] theorem State.setCluster_peerReqs (s : State) (n : Nat) (k : Cluster) : (s.setCluster n k).peerReqs = s.peerReqs := rfl
@[simp] theorem State.setCluster_shootdowns (s : State) (n : Nat) (k : Cluster) : (s.setCluster n k).shootdowns = s.shootdowns := rfl
@[simp] theorem State.setCluster_hostOut (s : State) (n : Nat) (k : Cluster) : (s.setCluster n k).hostOut = s.hostOut := rfl
@[simp] theorem State.setCluster_checkpoints (s : State) (n : Nat) (k : Cluster) : (s.setCluster n k).checkpoints = s.checkpoints := rfl
@[simp] theorem State.setCluster_nextId (s : State) (n : Nat) (k : Cluster) : (s.setCluster n k).nextId = s.nextId := rfl
@[simp] theorem State.setCluster_fresh (s : State) (n : Nat) (k : Cluster) : (s.setCluster n k).fresh = s.fresh := rfl
@[simp] theorem State.setCluster_windows (s : State) (n : Nat) (k : Cluster) : (s.setCluster n k).windows = s.windows := rfl
@[simp] theorem State.setCluster_cur (s : State) (n : Nat) (k : Cluster) : (s.setCluster n k).cur = s.cur := rfl
@[simp] theorem State.setCluster_subj (s : State) (n : Nat) (k : Cluster) : (s.setCluster n k).subj = s.subj := rfl
@[simp] theorem State.setCluster_old (s : State) (n : Nat) (k : Cluster) : (s.setCluster n k).old = s.old := rfl
@[simp] theorem State.setCluster_issued (s : State) (n : Nat) (k : Cluster) : (s.setCluster n k).issued = s.issued := rfl
@[simp] theorem State.setCluster_agenda (s : State) (n : Nat) (k : Cluster) : (s.setCluster n k).agenda = s.agenda := rfl

/-! ### setSlice -/

@[simp] theorem State.setSlice_now (s : State) (n : Nat) (x : Slice) : (s.setSlice n x).now = s.now := rfl
@[simp] theorem State.setSlice_mem (s : State) (n : Nat) (x : Slice) : (s.setSlice n x).mem = s.mem := rfl
@[simp] theorem State.setSlice_poison (s : State) (n : Nat) (x : Slice) : (s.setSlice n x).poison = s.poison := rfl
@[simp] theorem State.setSlice_dev (s : State) (n : Nat) (x : Slice) : (s.setSlice n x).dev = s.dev := rfl
@[simp] theorem State.setSlice_parts (s : State) (n : Nat) (x : Slice) : (s.setSlice n x).parts = s.parts := rfl
@[simp] theorem State.setSlice_ctxs (s : State) (n : Nat) (x : Slice) : (s.setSlice n x).ctxs = s.ctxs := rfl
@[simp] theorem State.setSlice_clusters (s : State) (n : Nat) (x : Slice) : (s.setSlice n x).clusters = s.clusters := rfl
@[simp] theorem State.setSlice_slices (s : State) (n : Nat) (x : Slice) : (s.setSlice n x).slices = mset s.slices n x := rfl
@[simp] theorem State.setSlice_ops (s : State) (n : Nat) (x : Slice) : (s.setSlice n x).ops = s.ops := rfl
@[simp] theorem State.setSlice_packets (s : State) (n : Nat) (x : Slice) : (s.setSlice n x).packets = s.packets := rfl
@[simp] theorem State.setSlice_laterals (s : State) (n : Nat) (x : Slice) : (s.setSlice n x).laterals = s.laterals := rfl
@[simp] theorem State.setSlice_ports (s : State) (n : Nat) (x : Slice) : (s.setSlice n x).ports = s.ports := rfl
@[simp] theorem State.setSlice_credits (s : State) (n : Nat) (x : Slice) : (s.setSlice n x).credits = s.credits := rfl
@[simp] theorem State.setSlice_flitTokens (s : State) (n : Nat) (x : Slice) : (s.setSlice n x).flitTokens = s.flitTokens := rfl
@[simp] theorem State.setSlice_jobs (s : State) (n : Nat) (x : Slice) : (s.setSlice n x).jobs = s.jobs := rfl
@[simp] theorem State.setSlice_addTiles (s : State) (n : Nat) (x : Slice) : (s.setSlice n x).addTiles = s.addTiles := rfl
@[simp] theorem State.setSlice_traversals (s : State) (n : Nat) (x : Slice) : (s.setSlice n x).traversals = s.traversals := rfl
@[simp] theorem State.setSlice_launches (s : State) (n : Nat) (x : Slice) : (s.setSlice n x).launches = s.launches := rfl
@[simp] theorem State.setSlice_hostReqs (s : State) (n : Nat) (x : Slice) : (s.setSlice n x).hostReqs = s.hostReqs := rfl
@[simp] theorem State.setSlice_peerReqs (s : State) (n : Nat) (x : Slice) : (s.setSlice n x).peerReqs = s.peerReqs := rfl
@[simp] theorem State.setSlice_shootdowns (s : State) (n : Nat) (x : Slice) : (s.setSlice n x).shootdowns = s.shootdowns := rfl
@[simp] theorem State.setSlice_hostOut (s : State) (n : Nat) (x : Slice) : (s.setSlice n x).hostOut = s.hostOut := rfl
@[simp] theorem State.setSlice_checkpoints (s : State) (n : Nat) (x : Slice) : (s.setSlice n x).checkpoints = s.checkpoints := rfl
@[simp] theorem State.setSlice_nextId (s : State) (n : Nat) (x : Slice) : (s.setSlice n x).nextId = s.nextId := rfl
@[simp] theorem State.setSlice_fresh (s : State) (n : Nat) (x : Slice) : (s.setSlice n x).fresh = s.fresh := rfl
@[simp] theorem State.setSlice_windows (s : State) (n : Nat) (x : Slice) : (s.setSlice n x).windows = s.windows := rfl
@[simp] theorem State.setSlice_cur (s : State) (n : Nat) (x : Slice) : (s.setSlice n x).cur = s.cur := rfl
@[simp] theorem State.setSlice_subj (s : State) (n : Nat) (x : Slice) : (s.setSlice n x).subj = s.subj := rfl
@[simp] theorem State.setSlice_old (s : State) (n : Nat) (x : Slice) : (s.setSlice n x).old = s.old := rfl
@[simp] theorem State.setSlice_issued (s : State) (n : Nat) (x : Slice) : (s.setSlice n x).issued = s.issued := rfl
@[simp] theorem State.setSlice_agenda (s : State) (n : Nat) (x : Slice) : (s.setSlice n x).agenda = s.agenda := rfl

/-! ### updWave -/

@[simp] theorem State.updWave_now (s : State) (cl row : Nat) (f : Wave → Wave) : (s.updWave cl row f).now = s.now := rfl
@[simp] theorem State.updWave_mem (s : State) (cl row : Nat) (f : Wave → Wave) : (s.updWave cl row f).mem = s.mem := rfl
@[simp] theorem State.updWave_poison (s : State) (cl row : Nat) (f : Wave → Wave) : (s.updWave cl row f).poison = s.poison := rfl
@[simp] theorem State.updWave_dev (s : State) (cl row : Nat) (f : Wave → Wave) : (s.updWave cl row f).dev = s.dev := rfl
@[simp] theorem State.updWave_parts (s : State) (cl row : Nat) (f : Wave → Wave) : (s.updWave cl row f).parts = s.parts := rfl
@[simp] theorem State.updWave_ctxs (s : State) (cl row : Nat) (f : Wave → Wave) : (s.updWave cl row f).ctxs = s.ctxs := rfl
@[simp] theorem State.updWave_slices (s : State) (cl row : Nat) (f : Wave → Wave) : (s.updWave cl row f).slices = s.slices := rfl
@[simp] theorem State.updWave_ops (s : State) (cl row : Nat) (f : Wave → Wave) : (s.updWave cl row f).ops = s.ops := rfl
@[simp] theorem State.updWave_packets (s : State) (cl row : Nat) (f : Wave → Wave) : (s.updWave cl row f).packets = s.packets := rfl
@[simp] theorem State.updWave_laterals (s : State) (cl row : Nat) (f : Wave → Wave) : (s.updWave cl row f).laterals = s.laterals := rfl
@[simp] theorem State.updWave_ports (s : State) (cl row : Nat) (f : Wave → Wave) : (s.updWave cl row f).ports = s.ports := rfl
@[simp] theorem State.updWave_credits (s : State) (cl row : Nat) (f : Wave → Wave) : (s.updWave cl row f).credits = s.credits := rfl
@[simp] theorem State.updWave_flitTokens (s : State) (cl row : Nat) (f : Wave → Wave) : (s.updWave cl row f).flitTokens = s.flitTokens := rfl
@[simp] theorem State.updWave_jobs (s : State) (cl row : Nat) (f : Wave → Wave) : (s.updWave cl row f).jobs = s.jobs := rfl
@[simp] theorem State.updWave_addTiles (s : State) (cl row : Nat) (f : Wave → Wave) : (s.updWave cl row f).addTiles = s.addTiles := rfl
@[simp] theorem State.updWave_traversals (s : State) (cl row : Nat) (f : Wave → Wave) : (s.updWave cl row f).traversals = s.traversals := rfl
@[simp] theorem State.updWave_launches (s : State) (cl row : Nat) (f : Wave → Wave) : (s.updWave cl row f).launches = s.launches := rfl
@[simp] theorem State.updWave_hostReqs (s : State) (cl row : Nat) (f : Wave → Wave) : (s.updWave cl row f).hostReqs = s.hostReqs := rfl
@[simp] theorem State.updWave_peerReqs (s : State) (cl row : Nat) (f : Wave → Wave) : (s.updWave cl row f).peerReqs = s.peerReqs := rfl
@[simp] theorem State.updWave_shootdowns (s : State) (cl row : Nat) (f : Wave → Wave) : (s.updWave cl row f).shootdowns = s.shootdowns := rfl
@[simp] theorem State.updWave_hostOut (s : State) (cl row : Nat) (f : Wave → Wave) : (s.updWave cl row f).hostOut = s.hostOut := rfl
@[simp] theorem State.updWave_checkpoints (s : State) (cl row : Nat) (f : Wave → Wave) : (s.updWave cl row f).checkpoints = s.checkpoints := rfl
@[simp] theorem State.updWave_nextId (s : State) (cl row : Nat) (f : Wave → Wave) : (s.updWave cl row f).nextId = s.nextId := rfl
@[simp] theorem State.updWave_fresh (s : State) (cl row : Nat) (f : Wave → Wave) : (s.updWave cl row f).fresh = s.fresh := rfl
@[simp] theorem State.updWave_windows (s : State) (cl row : Nat) (f : Wave → Wave) : (s.updWave cl row f).windows = s.windows := rfl
@[simp] theorem State.updWave_cur (s : State) (cl row : Nat) (f : Wave → Wave) : (s.updWave cl row f).cur = s.cur := rfl
@[simp] theorem State.updWave_subj (s : State) (cl row : Nat) (f : Wave → Wave) : (s.updWave cl row f).subj = s.subj := rfl
@[simp] theorem State.updWave_old (s : State) (cl row : Nat) (f : Wave → Wave) : (s.updWave cl row f).old = s.old := rfl
@[simp] theorem State.updWave_issued (s : State) (cl row : Nat) (f : Wave → Wave) : (s.updWave cl row f).issued = s.issued := rfl
@[simp] theorem State.updWave_agenda (s : State) (cl row : Nat) (f : Wave → Wave) : (s.updWave cl row f).agenda = s.agenda := rfl

/-! ### updW -/

@[simp] theorem State.updW_now (s : State) (f : Wave → Wave) : (s.updW f).now = s.now := rfl
@[simp] theorem State.updW_mem (s : State) (f : Wave → Wave) : (s.updW f).mem = s.mem := rfl
@[simp] theorem State.updW_poison (s : State) (f : Wave → Wave) : (s.updW f).poison = s.poison := rfl
@[simp] theorem State.updW_dev (s : State) (f : Wave → Wave) : (s.updW f).dev = s.dev := rfl
@[simp] theorem State.updW_parts (s : State) (f : Wave → Wave) : (s.updW f).parts = s.parts := rfl
@[simp] theorem State.updW_ctxs (s : State) (f : Wave → Wave) : (s.updW f).ctxs = s.ctxs := rfl
@[simp] theorem State.updW_slices (s : State) (f : Wave → Wave) : (s.updW f).slices = s.slices := rfl
@[simp] theorem State.updW_ops (s : State) (f : Wave → Wave) : (s.updW f).ops = s.ops := rfl
@[simp] theorem State.updW_packets (s : State) (f : Wave → Wave) : (s.updW f).packets = s.packets := rfl
@[simp] theorem State.updW_laterals (s : State) (f : Wave → Wave) : (s.updW f).laterals = s.laterals := rfl
@[simp] theorem State.updW_ports (s : State) (f : Wave → Wave) : (s.updW f).ports = s.ports := rfl
@[simp] theorem State.updW_credits (s : State) (f : Wave → Wave) : (s.updW f).credits = s.credits := rfl
@[simp] theorem State.updW_flitTokens (s : State) (f : Wave → Wave) : (s.updW f).flitTokens = s.flitTokens := rfl
@[simp] theorem State.updW_jobs (s : State) (f : Wave → Wave) : (s.updW f).jobs = s.jobs := rfl
@[simp] theorem State.updW_addTiles (s : State) (f : Wave → Wave) : (s.updW f).addTiles = s.addTiles := rfl
@[simp] theorem State.updW_traversals (s : State) (f : Wave → Wave) : (s.updW f).traversals = s.traversals := rfl
@[simp] theorem State.updW_launches (s : State) (f : Wave → Wave) : (s.updW f).launches = s.launches := rfl
@[simp] theorem State.updW_hostReqs (s : State) (f : Wave → Wave) : (s.updW f).hostReqs = s.hostReqs := rfl
@[simp] theorem State.updW_peerReqs (s : State) (f : Wave → Wave) : (s.updW f).peerReqs = s.peerReqs := rfl
@[simp] theorem State.updW_shootdowns (s : State) (f : Wave → Wave) : (s.updW f).shootdowns = s.shootdowns := rfl
@[simp] theorem State.updW_hostOut (s : State) (f : Wave → Wave) : (s.updW f).hostOut = s.hostOut := rfl
@[simp] theorem State.updW_checkpoints (s : State) (f : Wave → Wave) : (s.updW f).checkpoints = s.checkpoints := rfl
@[simp] theorem State.updW_nextId (s : State) (f : Wave → Wave) : (s.updW f).nextId = s.nextId := rfl
@[simp] theorem State.updW_fresh (s : State) (f : Wave → Wave) : (s.updW f).fresh = s.fresh := rfl
@[simp] theorem State.updW_windows (s : State) (f : Wave → Wave) : (s.updW f).windows = s.windows := rfl
@[simp] theorem State.updW_cur (s : State) (f : Wave → Wave) : (s.updW f).cur = s.cur := rfl
@[simp] theorem State.updW_subj (s : State) (f : Wave → Wave) : (s.updW f).subj = s.subj := rfl
@[simp] theorem State.updW_old (s : State) (f : Wave → Wave) : (s.updW f).old = s.old := rfl
@[simp] theorem State.updW_issued (s : State) (f : Wave → Wave) : (s.updW f).issued = s.issued := rfl
@[simp] theorem State.updW_agenda (s : State) (f : Wave → Wave) : (s.updW f).agenda = s.agenda := rfl

/-! ### updWg -/

@[simp] theorem State.updWg_now (s : State) (cl slot : Nat) (f : Wg → Wg) : (s.updWg cl slot f).now = s.now := rfl
@[simp] theorem State.updWg_mem (s : State) (cl slot : Nat) (f : Wg → Wg) : (s.updWg cl slot f).mem = s.mem := rfl
@[simp] theorem State.updWg_poison (s : State) (cl slot : Nat) (f : Wg → Wg) : (s.updWg cl slot f).poison = s.poison := rfl
@[simp] theorem State.updWg_dev (s : State) (cl slot : Nat) (f : Wg → Wg) : (s.updWg cl slot f).dev = s.dev := rfl
@[simp] theorem State.updWg_parts (s : State) (cl slot : Nat) (f : Wg → Wg) : (s.updWg cl slot f).parts = s.parts := rfl
@[simp] theorem State.updWg_ctxs (s : State) (cl slot : Nat) (f : Wg → Wg) : (s.updWg cl slot f).ctxs = s.ctxs := rfl
@[simp] theorem State.updWg_slices (s : State) (cl slot : Nat) (f : Wg → Wg) : (s.updWg cl slot f).slices = s.slices := rfl
@[simp] theorem State.updWg_ops (s : State) (cl slot : Nat) (f : Wg → Wg) : (s.updWg cl slot f).ops = s.ops := rfl
@[simp] theorem State.updWg_packets (s : State) (cl slot : Nat) (f : Wg → Wg) : (s.updWg cl slot f).packets = s.packets := rfl
@[simp] theorem State.updWg_laterals (s : State) (cl slot : Nat) (f : Wg → Wg) : (s.updWg cl slot f).laterals = s.laterals := rfl
@[simp] theorem State.updWg_ports (s : State) (cl slot : Nat) (f : Wg → Wg) : (s.updWg cl slot f).ports = s.ports := rfl
@[simp] theorem State.updWg_credits (s : State) (cl slot : Nat) (f : Wg → Wg) : (s.updWg cl slot f).credits = s.credits := rfl
@[simp] theorem State.updWg_flitTokens (s : State) (cl slot : Nat) (f : Wg → Wg) : (s.updWg cl slot f).flitTokens = s.flitTokens := rfl
@[simp] theorem State.updWg_jobs (s : State) (cl slot : Nat) (f : Wg → Wg) : (s.updWg cl slot f).jobs = s.jobs := rfl
@[simp] theorem State.updWg_addTiles (s : State) (cl slot : Nat) (f : Wg → Wg) : (s.updWg cl slot f).addTiles = s.addTiles := rfl
@[simp] theorem State.updWg_traversals (s : State) (cl slot : Nat) (f : Wg → Wg) : (s.updWg cl slot f).traversals = s.traversals := rfl
@[simp] theorem State.updWg_launches (s : State) (cl slot : Nat) (f : Wg → Wg) : (s.updWg cl slot f).launches = s.launches := rfl
@[simp] theorem State.updWg_hostReqs (s : State) (cl slot : Nat) (f : Wg → Wg) : (s.updWg cl slot f).hostReqs = s.hostReqs := rfl
@[simp] theorem State.updWg_peerReqs (s : State) (cl slot : Nat) (f : Wg → Wg) : (s.updWg cl slot f).peerReqs = s.peerReqs := rfl
@[simp] theorem State.updWg_shootdowns (s : State) (cl slot : Nat) (f : Wg → Wg) : (s.updWg cl slot f).shootdowns = s.shootdowns := rfl
@[simp] theorem State.updWg_hostOut (s : State) (cl slot : Nat) (f : Wg → Wg) : (s.updWg cl slot f).hostOut = s.hostOut := rfl
@[simp] theorem State.updWg_checkpoints (s : State) (cl slot : Nat) (f : Wg → Wg) : (s.updWg cl slot f).checkpoints = s.checkpoints := rfl
@[simp] theorem State.updWg_nextId (s : State) (cl slot : Nat) (f : Wg → Wg) : (s.updWg cl slot f).nextId = s.nextId := rfl
@[simp] theorem State.updWg_fresh (s : State) (cl slot : Nat) (f : Wg → Wg) : (s.updWg cl slot f).fresh = s.fresh := rfl
@[simp] theorem State.updWg_windows (s : State) (cl slot : Nat) (f : Wg → Wg) : (s.updWg cl slot f).windows = s.windows := rfl
@[simp] theorem State.updWg_cur (s : State) (cl slot : Nat) (f : Wg → Wg) : (s.updWg cl slot f).cur = s.cur := rfl
@[simp] theorem State.updWg_subj (s : State) (cl slot : Nat) (f : Wg → Wg) : (s.updWg cl slot f).subj = s.subj := rfl
@[simp] theorem State.updWg_old (s : State) (cl slot : Nat) (f : Wg → Wg) : (s.updWg cl slot f).old = s.old := rfl
@[simp] theorem State.updWg_issued (s : State) (cl slot : Nat) (f : Wg → Wg) : (s.updWg cl slot f).issued = s.issued := rfl
@[simp] theorem State.updWg_agenda (s : State) (cl slot : Nat) (f : Wg → Wg) : (s.updWg cl slot f).agenda = s.agenda := rfl

/-! ### newId -/

@[simp] theorem State.newId_now (s : State)  : (s.newId.2).now = s.now := rfl
@[simp] theorem State.newId_mem (s : State)  : (s.newId.2).mem = s.mem := rfl
@[simp] theorem State.newId_poison (s : State)  : (s.newId.2).poison = s.poison := rfl
@[simp] theorem State.newId_dev (s : State)  : (s.newId.2).dev = s.dev := rfl
@[simp] theorem State.newId_parts (s : State)  : (s.newId.2).parts = s.parts := rfl
@[simp] theorem State.newId_ctxs (s : State)  : (s.newId.2).ctxs = s.ctxs := rfl
@[simp] theorem State.newId_clusters (s : State)  : (s.newId.2).clusters = s.clusters := rfl
@[simp] theorem State.newId_slices (s : State)  : (s.newId.2).slices = s.slices := rfl
@[simp] theorem State.newId_ops (s : State)  : (s.newId.2).ops = s.ops := rfl
@[simp] theorem State.newId_packets (s : State)  : (s.newId.2).packets = s.packets := rfl
@[simp] theorem State.newId_laterals (s : State)  : (s.newId.2).laterals = s.laterals := rfl
@[simp] theorem State.newId_ports (s : State)  : (s.newId.2).ports = s.ports := rfl
@[simp] theorem State.newId_credits (s : State)  : (s.newId.2).credits = s.credits := rfl
@[simp] theorem State.newId_flitTokens (s : State)  : (s.newId.2).flitTokens = s.flitTokens := rfl
@[simp] theorem State.newId_jobs (s : State)  : (s.newId.2).jobs = s.jobs := rfl
@[simp] theorem State.newId_addTiles (s : State)  : (s.newId.2).addTiles = s.addTiles := rfl
@[simp] theorem State.newId_traversals (s : State)  : (s.newId.2).traversals = s.traversals := rfl
@[simp] theorem State.newId_launches (s : State)  : (s.newId.2).launches = s.launches := rfl
@[simp] theorem State.newId_hostReqs (s : State)  : (s.newId.2).hostReqs = s.hostReqs := rfl
@[simp] theorem State.newId_peerReqs (s : State)  : (s.newId.2).peerReqs = s.peerReqs := rfl
@[simp] theorem State.newId_shootdowns (s : State)  : (s.newId.2).shootdowns = s.shootdowns := rfl
@[simp] theorem State.newId_hostOut (s : State)  : (s.newId.2).hostOut = s.hostOut := rfl
@[simp] theorem State.newId_checkpoints (s : State)  : (s.newId.2).checkpoints = s.checkpoints := rfl
@[simp] theorem State.newId_nextId (s : State)  : (s.newId.2).nextId = s.nextId + 1 := rfl
@[simp] theorem State.newId_fresh (s : State)  : (s.newId.2).fresh = s.fresh := rfl
@[simp] theorem State.newId_windows (s : State)  : (s.newId.2).windows = s.windows := rfl
@[simp] theorem State.newId_cur (s : State)  : (s.newId.2).cur = s.cur := rfl
@[simp] theorem State.newId_subj (s : State)  : (s.newId.2).subj = s.subj := rfl
@[simp] theorem State.newId_old (s : State)  : (s.newId.2).old = s.old := rfl
@[simp] theorem State.newId_issued (s : State)  : (s.newId.2).issued = s.issued := rfl
@[simp] theorem State.newId_agenda (s : State)  : (s.newId.2).agenda = s.agenda := rfl

@[simp] theorem State.newId_fst (s : State) : s.newId.1 = s.nextId := rfl

/-! ### Reading back -/

@[simp] theorem cluster_setCluster_same (s : State) (n : Nat) (k : Cluster) : (s.setCluster n k).cluster n = k := by
  simp [State.cluster]

theorem cluster_setCluster_ne (s : State) {n p : Nat} (k : Cluster) (h : p ≠ n) : (s.setCluster n k).cluster p = s.cluster p := by
  simp [State.cluster, mgetD_mset_ne s.clusters k {} h]

@[simp] theorem slice_setSlice_same (s : State) (n : Nat) (x : Slice) : (s.setSlice n x).slice n = x := by
  simp [State.slice]

theorem slice_setSlice_ne (s : State) {n p : Nat} (x : Slice) (h : p ≠ n) : (s.setSlice n x).slice p = s.slice p := by
  simp [State.slice, mgetD_mset_ne s.slices x {} h]

@[simp] theorem slice_setCluster (s : State) (n p : Nat) (k : Cluster) : (s.setCluster n k).slice p = s.slice p := rfl
@[simp] theorem cluster_setSlice (s : State) (n p : Nat) (x : Slice) : (s.setSlice n x).cluster p = s.cluster p := rfl

theorem mupd_some {α : Type} {m : SMap α} {n : Nat} {a : α} (f : α → α) (h : mget m n = some a) :
    mupd m n f = mset m n (f a) := by
  simp [mupd, h]

theorem mupd_none {α : Type} {m : SMap α} {n : Nat} (f : α → α) (h : mget m n = none) : mupd m n f = m := by
  simp [mupd, h]

/-- The wave in a row after it is changed. -/
theorem waveAt_updWave_same (s : State) (cl row : Nat) (f : Wave → Wave) :
    (s.updWave cl row f).waveAt? cl row = (s.waveAt? cl row).map f := by
  unfold State.waveAt? State.updWave
  simp only [cluster_setCluster_same]
  cases h : mget (s.cluster cl).waves row with
  | none => simp [mupd, h]
  | some w => simp [mupd, h]

/-- Every other row keeps its wave. -/
theorem waveAt_updWave_ne (s : State) {cl row cl' row' : Nat} (f : Wave → Wave) (h : cl' ≠ cl ∨ row' ≠ row) :
    (s.updWave cl row f).waveAt? cl' row' = s.waveAt? cl' row' := by
  unfold State.waveAt? State.updWave
  by_cases hc : cl' = cl
  · subst hc
    have hr : row' ≠ row := by omega
    simp only [cluster_setCluster_same]
    cases hm : mget (s.cluster cl').waves row with
    | none => simp [mupd, hm]
    | some w => simp [mupd, hm, mget_mset_ne _ _ hr]
  · rw [cluster_setCluster_ne s _ hc]

/-- A cluster changed outside its rows keeps every wave. -/
theorem waveAt_setCluster (s : State) (cl : Nat) {k : Cluster} (h : k.waves = (s.cluster cl).waves) (cl' row : Nat) :
    (s.setCluster cl k).waveAt? cl' row = s.waveAt? cl' row := by
  unfold State.waveAt?
  by_cases hc : cl' = cl
  · subst hc; rw [cluster_setCluster_same, h]
  · rw [cluster_setCluster_ne s k hc]

/-- The wave whose instruction runs, after its cluster is changed outside its rows. -/
theorem curWave_setCluster (s : State) (cl : Nat) {k : Cluster} (h : k.waves = (s.cluster cl).waves) :
    (s.setCluster cl k).curWave? = s.curWave? :=
  waveAt_setCluster s cl h s.cur.1 s.cur.2

/-- The wave whose instruction runs, after it is changed. -/
theorem curWave_updW (s : State) (f : Wave → Wave) : (s.updW f).curWave? = s.curWave?.map f :=
  waveAt_updWave_same s s.cur.1 s.cur.2 f

theorem curWave_updW_some {s : State} {w : Wave} (f : Wave → Wave) (h : s.curWave? = some w) :
    (s.updW f).curWave? = some (f w) := by
  rw [curWave_updW, h]; rfl

theorem w_of_curWave {s : State} {w : Wave} (h : s.curWave? = some w) : s.w = w := by
  simp [State.w, h]

theorem w_updW {s : State} {w : Wave} (f : Wave → Wave) (h : s.curWave? = some w) : (s.updW f).w = f w :=
  w_of_curWave (curWave_updW_some f h)

end Sys2Proof.Machine
end

