-- ==== Sys2Proof/Laws/Wave.lean ====
section
/-!
SUPPORT. What the shared operations of a wave do: reads and writes of its registers, traps, charges, and the frame every
wave instruction runs in.
-/
namespace Sys2Proof.Machine

/-! ### Attempts -/

@[simp] theorem ok_bind {α β : Type} (x : α) (f : α → Attempt β) : ((Except.ok x : Attempt α) >>= f) = f x := rfl
@[simp] theorem pure_eq_ok {α : Type} (x : α) : (pure x : Attempt α) = Except.ok x := rfl
@[simp] theorem error_bind {α β : Type} (e : Stop) (f : α → Attempt β) :
    ((Except.error e : Attempt α) >>= f) = Except.error e := rfl

/-- What an attempt that goes on went through. -/
theorem bind_ok {α β : Type} {x : Attempt α} {f : α → Attempt β} {b : β} (h : (x >>= f) = Except.ok b) :
    ∃ a, x = Except.ok a ∧ f a = Except.ok b := by
  cases x with
  | error e => exact absurd h (by intro hh; cases hh)
  | ok a => exact ⟨a, rfl, h⟩

theorem ready_ok {s : State} {o : Owed} (h : s.owed.contains o = false) : ready s o = .ok () := by
  unfold ready
  rw [h]
  rfl

theorem owed_of_ready {s : State} {o : Owed} {u : Unit} (h : ready s o = .ok u) : s.owed.contains o = false := by
  unfold ready at h
  split at h
  · exact absurd h (by intro hh; cases hh)
  · rename_i ho
    exact eq_false_of_ne_true ho

/-! ### Scalar registers -/

/-- zs reads zero and nothing changes (12 R206). -/
@[simp] theorem readS_zs (s : State) : readS s .zs = .ok (0, s) := rfl

/-- A scalar register that no return owes reads its value and nothing changes. -/
theorem readS_s {s : State} {n : BitVec 7} (h : s.owed.contains (.s n.toNat) = false) :
    readS s (.s n) = .ok (mgetD s.w.s n.toNat 0, s) := by
  simp [readS, ready_ok h]

/-- A write to zs is discarded. -/
@[simp] theorem writeS_zs (s : State) (x : DWord) : writeS s .zs x = .ok s := rfl

theorem writeS_s {s : State} {n : BitVec 7} (x : DWord) (h : s.owed.contains (.s n.toNat) = false) :
    writeS s (.s n) x = .ok (s.setS n.toNat x) := by
  simp [writeS, ready_ok h]

/-- Everything a scalar read can do: the value of the register, or the head of a queue that is popped. -/
theorem readS_cases {s s' : State} {r : SReg} {x : DWord} (h : readS s r = .ok (x, s')) :
    (r = .zs ∧ x = 0 ∧ s' = s) ∨
    (∃ n, r = .s n ∧ s.owed.contains (.s n.toNat) = false ∧ x = mgetD s.w.s n.toNat 0 ∧ s' = s) ∨
    (∃ n q t, r = .q n ∧ s.owed.contains (.q n.toNat) = false ∧ s.wg.queues[n.toNat]? = some q ∧ q.entries = x :: t ∧
      s' = s.noteAcquire.updWg s.cur.1 s.w.wgslot
        (fun g => { g with queues := g.queues.set n.toNat { q with entries := t } })) := by
  cases r with
  | zs =>
    left
    simp only [readS_zs, Except.ok.injEq, Prod.mk.injEq] at h
    exact ⟨rfl, h.1.symm, h.2.symm⟩
  | s n =>
    right; left
    simp only [readS] at h
    obtain ⟨_, hr, h⟩ := bind_ok h
    simp only [pure_eq_ok, Except.ok.injEq, Prod.mk.injEq] at h
    exact ⟨n, rfl, owed_of_ready hr, h.1.symm, h.2.symm⟩
  | q n =>
    right; right
    simp only [readS] at h
    obtain ⟨_, hr, h⟩ := bind_ok h
    split at h
    · rename_i q hq
      split at h
      · rename_i e t he
        simp only [pure_eq_ok, Except.ok.injEq, Prod.mk.injEq] at h
        exact ⟨n, q, t, rfl, owed_of_ready hr, hq, by rw [he, h.1], h.2.symm⟩
      · exact absurd h (by intro hh; cases hh)
    · exact absurd h (by intro hh; cases hh)

/-- A scalar read leaves memory and every other field but the clusters alone. -/
theorem readS_mem {s s' : State} {r : SReg} {x : DWord} (h : readS s r = .ok (x, s')) : s'.mem = s.mem := by
  rcases readS_cases h with ⟨_, _, rfl⟩ | ⟨_, _, _, _, rfl⟩ | ⟨_, _, _, _, _, _, _, rfl⟩ <;> rfl

/-- Everything a scalar write can do: nothing, a register set, or a value pushed to a queue that has room. -/
theorem writeS_cases {s s' : State} {r : SReg} {x : DWord} (h : writeS s r x = .ok s') :
    (r = .zs ∧ s' = s) ∨
    (∃ n, r = .s n ∧ s.owed.contains (.s n.toNat) = false ∧ s' = s.setS n.toNat x) ∨
    (∃ n q, r = .q n ∧ s.wg.queues[n.toNat]? = some q ∧ q.entries.length + s.queueOwed n.toNat < q.depth ∧
      s' = s.updWg s.cur.1 s.w.wgslot
        (fun g => { g with queues := g.queues.set n.toNat { q with entries := q.entries ++ [x] } })) := by
  cases r with
  | zs =>
    left
    simp only [writeS_zs, Except.ok.injEq] at h
    exact ⟨rfl, h.symm⟩
  | s n =>
    right; left
    simp only [writeS] at h
    obtain ⟨_, hr, h⟩ := bind_ok h
    simp only [pure_eq_ok, Except.ok.injEq] at h
    exact ⟨n, rfl, owed_of_ready hr, h.symm⟩
  | q n =>
    right; right
    simp only [writeS] at h
    obtain ⟨_, _, h⟩ := bind_ok h
    split at h
    · rename_i q hq
      split at h
      · rename_i hroom
        simp only [pure_eq_ok, Except.ok.injEq] at h
        exact ⟨n, q, rfl, hq, hroom, h.symm⟩
      · exact absurd h (by intro hh; cases hh)
    · exact absurd h (by intro hh; cases hh)

theorem writeS_mem {s s' : State} {r : SReg} {x : DWord} (h : writeS s r x = .ok s') : s'.mem = s.mem := by
  rcases writeS_cases h with ⟨_, rfl⟩ | ⟨_, _, _, rfl⟩ | ⟨_, _, _, _, _, rfl⟩ <;> rfl

/-! ### Masks and vector registers -/

/-- k0 is all ones (12 R205). -/
@[simp] theorem mask_k0 (w : Wave) : w.mask 0 = BitVec.allOnes 128 := rfl

theorem readK_ok {s : State} {k : KReg} (h : s.owed.contains (.k k.toNat) = false) : readK s k = .ok (s.w.mask k) := by
  simp [readK, ready_ok h]

theorem writeK_ok {s : State} {k : KReg} (m : Mask) (h : s.owed.contains (.k k.toNat) = false) :
    writeK s k m = .ok (s.setK k m) := by
  simp [writeK, ready_ok h]

/-- k0 is never written. -/
@[simp] theorem setK_k0 (s : State) (m : Mask) : s.setK 0 m = s := rfl

theorem readV_file {s : State} {r : Nat} (act : Nat → Bool) (h : s.owed.contains (.v r) = false) (hb : r < s.w.bound) :
    readV s r act = .ok (fun l => s.w.lane r l) := by
  simp [readV, ready_ok h, hb]

theorem writeV_file {s : State} {r : Nat} (f : Nat → Option Word) (h : s.owed.contains (.v r) = false)
    (hb : r < s.w.bound) :
    writeV s r f = .ok (s.updW (fun w => { w with v := setLanes w.v r f 128 0 })) := by
  simp [writeV, ready_ok h, hb]

/-- Setting lanes of a register leaves the cells outside them alone. -/
theorem lane_setLanes_out (v : SMap Word) {r : Nat} {f : Nat → Option Word} {n l p : Nat}
    (hp : p < 128 * r + l ∨ 128 * r + l + n ≤ p) : mgetD (setLanes v r f n l) p 0 = mgetD v p 0 := by
  induction n generalizing v l with
  | zero => rfl
  | succ n ih =>
    unfold setLanes
    cases hf : f l with
    | none =>
      simp only
      exact ih v (by omega)
    | some x =>
      simp only
      rw [ih _ (by omega), mgetD_msetD_ne _ _ _ _ (by omega)]

/-- A lane that is set holds what f gives it, or what it held. -/
theorem lane_setLanes_in (v : SMap Word) {r : Nat} {f : Nat → Option Word} {n l i : Nat} (hl : l ≤ i) (hi : i < l + n) :
    mgetD (setLanes v r f n l) (128 * r + i) 0 = (f i).getD (mgetD v (128 * r + i) 0) := by
  induction n generalizing v l with
  | zero => omega
  | succ n ih =>
    unfold setLanes
    by_cases hil : i = l
    · subst hil
      rw [lane_setLanes_out _ (by omega)]
      cases hf : f i with
      | none => rfl
      | some x => simp
    · cases hf : f l with
      | none =>
        simp only
        exact ih v (by omega) (by omega)
      | some x =>
        simp only
        rw [ih _ (by omega) (by omega), mgetD_msetD_ne _ _ _ _ (by omega)]

/-! ### Memory behind the device's stores -/

/-- Moving lines at their homes changes slices and nothing else. -/
theorem charge_slices (s : State) (l : List (Nat × LineUse)) : s.charge l = { s with slices := (s.charge l).slices } := by
  unfold State.charge
  induction l generalizing s with
  | nil => rfl
  | cons u t ih => exact (ih _).trans rfl

@[simp] theorem charge_mem (s : State) (l : List (Nat × LineUse)) : (s.charge l).mem = s.mem := by rw [charge_slices]
@[simp] theorem charge_clusters (s : State) (l : List (Nat × LineUse)) : (s.charge l).clusters = s.clusters := by
  rw [charge_slices]
@[simp] theorem chargeWrite_mem (s : State) (pa n ca : Nat) : (s.chargeWrite pa n ca).mem = s.mem := charge_mem s _
@[simp] theorem chargeRead_mem (s : State) (pa n ca : Nat) : (s.chargeRead pa n ca).mem = s.mem := charge_mem s _

theorem store_memOk {s : State} (pa : Nat) (bs : List Byte) (h : Memory.wf s.mem = true) :
    Memory.wf (s.store pa bs).mem = true := wf_memWrite pa bs h

theorem storeSpans_memOk {s : State} (l : List (Nat × Nat × Nat)) (bs : List Byte) (h : Memory.wf s.mem = true) :
    Memory.wf (s.storeSpans l bs).mem = true := by
  induction l generalizing s bs with
  | nil => exact h
  | cons e t ih =>
    unfold State.storeSpans
    exact ih _ (store_memOk _ _ (by rw [chargeWrite_mem]; exact h))

/-- A hardware write keeps memory canonical. -/
theorem hwWrite_memOk {s s' : State} {cl ctx va : Nat} {bs : List Byte} (hw : s.hwWrite cl ctx va bs = .ok s')
    (h : Memory.wf s.mem = true) : Memory.wf s'.mem = true := by
  unfold State.hwWrite at hw
  split at hw
  · exact absurd hw (by intro hh; cases hh)
  · simp only [Except.ok.injEq] at hw
    rw [← hw]
    exact storeSpans_memOk _ _ (by rw [charge_mem]; exact h)

end Sys2Proof.Machine
end

