-- ==== Sys2Proof/Laws/Frame.lean ====
section
/-!
SUPPORT. The frame in which every wave instruction runs: what it answers when its body goes on, is held or traps, and what
charging and issuing change.
-/
namespace Sys2Proof.Machine

/-- A body that goes on, with its charge covered, completes. -/
theorem runWith_ok {h : Hints} {cost : State → Cost} {len : Nat} {fall : Bool} {s s1 : State} {w : Wave}
    {body : State → Attempt State} (hw : s.curWave? = some w) (hb : body s = .ok s1) (hc : s1.covers (cost s) h) :
    runWith h cost len fall s body =
      .next (s1.completed (cost s) h w.phase (if fall then some ((w.pc + len) % 2 ^ 64) else none)) := by
  unfold runWith
  rw [hw]
  simp only [hb]
  have hp : s1.pay (cost s) h =
      (true, (s1.debit s1.cur.1 s1.w.ctx (s1.chargeOf (cost s) h)).takePlane (cost s) true false) := by
    unfold State.pay State.chargeOf
    unfold State.covers State.chargeOf at hc
    simp only
    rw [if_pos hc]
  rw [hp]
  rfl

theorem run_ok {h : Hints} {floor len : Nat} {s s1 : State} {w : Wave} {body : State → Attempt State}
    (hw : s.curWave? = some w) (hb : body s = .ok s1) (hc : s1.covers { floor := floor } h) :
    run h floor len s body = .next (s1.completed { floor := floor } h w.phase (some ((w.pc + len) % 2 ^ 64))) :=
  runWith_ok (cost := fun _ => { floor := floor }) hw hb hc

theorem runJump_ok {h : Hints} {s s1 : State} {w : Wave} {body : State → Attempt State}
    (hw : s.curWave? = some w) (hb : body s = .ok s1) (hc : s1.covers {} h) :
    runJump h s body = .next (s1.completed {} h w.phase none) :=
  runWith_ok (cost := fun _ => {}) hw hb hc

/-- A body that traps takes the trap. -/
theorem runWith_trap {h : Hints} {cost : State → Cost} {len : Nat} {fall : Bool} {s : State} {w : Wave} {r : TrapRec}
    {note : State → State} {body : State → Attempt State} (hw : s.curWave? = some w)
    (hb : body s = .error (.trap note r)) (hn : (note s).cur = s.cur) :
    runWith h cost len fall s body = .next ((note s).trapped w h.s.toNat r) := by
  unfold runWith
  rw [hw]
  simp only [hb]
  unfold State.trapped
  rw [hn]

/-- A body that is held leaves its note, and the wave at its instruction. -/
theorem runWith_held {h : Hints} {cost : State → Cost} {len : Nat} {fall : Bool} {s : State} {w : Wave} {why : Why}
    {note : State → State} {body : State → Attempt State} (hw : s.curWave? = some w)
    (hb : body s = .error (.held why note)) :
    runWith h cost len fall s body = .next ((note s).holding why) := by
  unfold runWith
  rw [hw]
  simp only [hb]
  rfl

/-! ### What charging and issuing leave alone -/

@[simp] theorem debit_mem (s : State) (cl ctx n : Nat) : (s.debit cl ctx n).mem = s.mem := by
  unfold State.debit
  simp only
  split <;> rfl

@[simp] theorem debit_cur (s : State) (cl ctx n : Nat) : (s.debit cl ctx n).cur = s.cur := by
  unfold State.debit
  simp only
  split <;> rfl

/-- A charge changes no wave. -/
theorem debit_waveAt (s : State) (cl ctx n cl' row : Nat) : (s.debit cl ctx n).waveAt? cl' row = s.waveAt? cl' row := by
  have h := waveAt_setCluster s cl (k := { s.cluster cl with
    slots := (s.cluster cl).slots.map (fun x => (x.1, if x.2.ctx == ctx then { x.2 with units := x.2.units - n } else x.2)) })
    rfl cl' row
  unfold State.debit
  simp only
  split <;> exact h

/-- A charge changes no age counter. -/
theorem debit_ageCtr (s : State) (cl ctx n : Nat) : ((s.debit cl ctx n).cluster cl).ageCtr = (s.cluster cl).ageCtr := by
  unfold State.debit
  simp only
  split <;> simp [State.setCluster, State.cluster]

/-- Everything the plane's turn can change: the turn of the cluster at issue. -/
theorem takePlane_cases (s : State) (c : Cost) (issued begun : Bool) :
    s.takePlane c issued begun = s ∨
      ∃ t, s.takePlane c issued begun = s.setCluster s.cur.1 { s.cluster s.cur.1 with planeTurn := some t } := by
  unfold State.takePlane
  split
  · exact .inr ⟨_, rfl⟩
  · exact .inl rfl

@[simp] theorem takePlane_mem (s : State) (c : Cost) (i b : Bool) : (s.takePlane c i b).mem = s.mem := by
  rcases takePlane_cases s c i b with h | ⟨t, h⟩ <;> simp [h]

@[simp] theorem takePlane_cur (s : State) (c : Cost) (i b : Bool) : (s.takePlane c i b).cur = s.cur := by
  rcases takePlane_cases s c i b with h | ⟨t, h⟩ <;> simp [h]

@[simp] theorem takePlane_curWave (s : State) (c : Cost) (i b : Bool) : (s.takePlane c i b).curWave? = s.curWave? := by
  rcases takePlane_cases s c i b with h | ⟨t, h⟩ <;> rw [h]
  exact curWave_setCluster s _ rfl

@[simp] theorem takePlane_ageCtr (s : State) (c : Cost) (i b : Bool) :
    ((s.takePlane c i b).cluster s.cur.1).ageCtr = (s.cluster s.cur.1).ageCtr := by
  rcases takePlane_cases s c i b with h | ⟨t, h⟩ <;> simp [h]

/-- An issue that uses its sector changes no wave. -/
@[simp] theorem useSector_curWave (s : State) (l : Nat) (ph : BitVec 4) : (s.useSector l ph).curWave? = s.curWave? :=
  curWave_setCluster s _ rfl

@[simp] theorem useSector_mem (s : State) (l : Nat) (ph : BitVec 4) : (s.useSector l ph).mem = s.mem := rfl

@[simp] theorem issueDone_mem (s : State) (h : Hints) (ph : BitVec 4) (next : Option Nat) :
    (s.issueDone h ph next).mem = s.mem := by
  unfold State.issueDone
  simp only
  split <;> rfl

/-- A completed instruction's charge and issue touch no byte of memory. -/
@[simp] theorem completed_mem (s : State) (c : Cost) (h : Hints) (ph : BitVec 4) (next : Option Nat) :
    (s.completed c h ph next).mem = s.mem := by
  simp [State.completed]

/-- The wave after its instruction has issued. -/
theorem issueDone_wave {s : State} {w : Wave} (h : Hints) (ph : BitVec 4) (next : Option Nat) (hw : s.curWave? = some w) :
    (s.issueDone h ph next).curWave? = some
      { w with
        pc := next.getD w.pc, lastIssue := (s.issueDone h ph next).now, lastS := h.s.toNat, issuedOnce := true
        starve := 0, age := if h.y then (s.cluster s.cur.1).ageCtr else w.age, paid := 0, point := none
        mark := none, entry := none, arrived := none, waiting := none, linkReads := [], backed := [], phaseAt := ph, why := .none
        needEntry := next.isNone && w.needEntry } := by
  unfold State.issueDone
  simp only
  by_cases hy : h.y
  · simp only [hy, if_true]
    refine curWave_updW_some _ ?_
    rw [useSector_curWave]
    exact (curWave_setCluster s s.cur.1
      (k := { s.cluster s.cur.1 with ageCtr := (s.cluster s.cur.1).ageCtr + 1 }) rfl).trans hw
  · simp only [hy]
    refine curWave_updW_some _ ?_
    simpa using hw

/-- The wave after its instruction has completed. -/
theorem completed_wave {s : State} {w : Wave} (c : Cost) (h : Hints) (ph : BitVec 4) (next : Option Nat)
    (hw : s.curWave? = some w) :
    (s.completed c h ph next).curWave? = some
      { w with
        pc := next.getD w.pc, lastIssue := (s.completed c h ph next).now, lastS := h.s.toNat, issuedOnce := true
        starve := 0, age := if h.y then (s.cluster s.cur.1).ageCtr else w.age, paid := 0, point := none
        mark := none, entry := none, arrived := none, waiting := none, linkReads := [], backed := [], phaseAt := ph, why := .none
        needEntry := next.isNone && w.needEntry } := by
  have hd : ((s.debit s.cur.1 s.w.ctx (s.chargeOf c h)).takePlane c true false).curWave? = some w := by
    rw [takePlane_curWave]
    unfold State.curWave?
    rw [debit_waveAt, debit_cur]
    exact hw
  have ha := takePlane_ageCtr (s.debit s.cur.1 s.w.ctx (s.chargeOf c h)) c true false
  rw [debit_cur, debit_ageCtr] at ha
  have h3 := issueDone_wave h ph next hd
  rw [takePlane_cur, debit_cur, ha] at h3
  exact h3

end Sys2Proof.Machine
end

