-- ==== Sys2Proof/Tests/Slice0.lean ====
section
/-!
SUPPORT. Tests: what the decoder refuses, the spec's own words, single steps whose results the spec gives, and for every
statement a state and operands that meet its hypotheses.
-/
namespace Sys2Proof.Tests
open Sys2Proof Sys2Proof.Machine
set_option Elab.async false

/-! ### Small states -/

def h0 : Hints := { s := 0, y := false, e := 0 }

/-- A wave of context 1 in row 0 of cluster 0, with the file of 64 registers. -/
def wave0 : Wave :=
  { Wave.zero with
    ctx := 1, launch := 1, bound := 64, pc := 0x1000, s := [(1, 5), (2, 7), (3, 0x2000), (4, 0x2100)], k := [(1, 0x7), (2, 0x266)]
    v := [(128, 10), (129, 20), (130, 30), (256, 1), (257, 2)], tvec := 0x1001 }

def wg0 : Wg :=
  { Wg.zero with
    ctx := 1, launch := 1, rows := [0], vaultN := 8, plane := true
    queues := [{ depth := 1, entries := [] }, { depth := 1, entries := [9] }] }

/-- A range entry: valid, with attributes, from a page to a page, and an offset (02 R28). -/
def rangeEntry (attr lo hi off : Nat) : List Byte :=
  natToBytes 8 (lo + attr) ++ natToBytes 8 hi ++ natToBytes 8 off ++ natToBytes 8 0

/-- Code readable and executable below 0x2000, memory readable and writable up to 0xFFFFF, the upper half to memory from 0
up, and from 0x100000 the host window. -/
def tables : List Host.Cell :=
  memWrite [] 0x80000 (rangeEntry 0x15 0 0x1000 0 ++ rangeEntry 0xD 0x2000 0xFF000 0 ++
    rangeEntry 0xD 0xFF00000000000000 0xFF000000000FF000 0x100000000000000 ++
    rangeEntry 0x6D 0x100000 0x10F000 (2 ^ 50 - 0x100000) ++ rangeEntry 0x2D 0x200000 0x20F000 (2 ^ 40 - 0x200000))

def ctx1 : Ctx :=
  { life := .resident, part := 0, root := 0x90000, range := 0x80000, trBase := 0xFF00000000040000
    bwBase := 0xFF00000000000000, bsBase := 0xFF00000000000000
    view := [0x00010000#64, 128#64, 256#64, 0x08104040#64, 0x0000001801000120#64, 0x1FFE#64, 0x01000000#64, 0x3F#64] }

def part0 : Part :=
  { cols := [0, 1], share := 65536, ready := true, home := [0, 8, 16, 24, 32, 40, 48, 56, 64, 72, 80, 88, 96, 104, 112, 120] }

def cluster0 : Cluster :=
  { waves := [(0, wave0)], wgs := [(0, wg0)], slots := [(0, { ctx := 1, sems := [], units := 100000 })] }

/-- One wave at issue. -/
def s0 : State :=
  { State.reset with
    mem := tables, dev := { main := .up }, parts := [(0, part0)], ctxs := [(1, ctx1)], clusters := [(0, cluster0)]
    cur := (0, 0), windows := 1 }

/-- The same state with another wave at issue. -/
def sWave (w : Wave) : State := { s0 with clusters := [(0, { cluster0 with waves := [(0, w)] })] }

/-- An outcome's next state. -/
def nextOf (o : Host.Outcome State Fault Refusal) : State :=
  match o with
  | .next t => t
  | _ => s0

theorem next_of {o : Host.Outcome State Fault Refusal} (h : (match o with | .next _ => true | _ => false) = true) :
    ∃ t, o = .next t := by
  cases o with
  | next t => exact ⟨t, rfl⟩
  | fault _ => cases h
  | refused _ => cases h

/-! ### What the decoder refuses (12 R205, R206; 13 R224 to R227) -/

theorem test_wf_queueTwice : Instr.wf (.sadd h0 .zs (.q 1) (.q 1)) = false := by decide
theorem test_wf_ssel_queueTwice : Instr.wf (.ssel h0 .zs (.q 1) (.s 2) (.q 1)) = false := by decide
theorem test_wf_k0_written : Instr.wf (.kand h0 0 1 2) = false := by decide
theorem test_wf_oddPair : Instr.wf (.vadd h0 0 .i64 false 2 3 4) = false := by decide
theorem test_wf_vaddc_k0 : Instr.wf (.vaddc h0 0 .i32 1 2 3 0) = false := by decide
theorem test_wf_fcvt_same : Instr.wf (.fcvt h0 0 false .rne (.fmt { code := 3, x := false, u := false }) (.fmt { code := 3, x := false, u := false }) 1 2) = false := by
  decide
theorem test_wf_fadd_of_i32 : Instr.wf (.vred h0 0 .i32 .fadd .rne (.s 1) 2) = false := by decide
theorem test_wf_rounding_without_fadd : Instr.wf (.vred h0 0 .f32 .min .rz (.s 1) 2) = false := by decide
theorem test_wf_heads_k0 : Instr.wf (.vsegred h0 0 .i32 .add .rne 1 2 0) = false := by decide
theorem test_wf_load_f32 : Instr.wf (.vld h0 0 .f32 .rlx .wave 1 (.s 1) .noIndex 0) = false := by decide
theorem test_wf_store_i8 : Instr.wf (.sst h0 .i8 .rlx .wave (.s 1) (.s 2)) = false := by decide
theorem test_wf_load_rel : Instr.wf (.sld h0 .b32 .rel .dev (.s 1) (.s 2)) = false := by decide
theorem test_wf_rlx_dev : Instr.wf (.sld h0 .b32 .rlx .dev (.s 1) (.s 2)) = false := by decide
theorem test_wf_atom_and_i32 : Instr.wf (.atom h0 0 .i32 .and .rlx .wave 1 (.s 1) 2 3) = false := by decide
theorem test_wf_cas_operand : Instr.wf (.atom h0 0 .b32 .cas .rlx .wave 1 (.s 1) 2 3) = false := by decide
theorem test_wf_satom_without_c : Instr.wf (.satom h0 .b32 .cas .rlx .wave (.s 1) (.s 2) (.s 3) none) = false := by decide
theorem test_wf_scale_of_nosc : Instr.wf (.mwload h0 (.s 1) (.s 2) (.s 3) { code := 3, x := false, u := false } .nosc 0 false 0) = false := by
  decide
theorem test_wf_vldl_status : Instr.wf (.vldl h0 0 .rlx .wave 1 (.s 1) 2 3 4 4) = false := by decide
theorem test_wf_vcst_type : Instr.wf (.vcst h0 0 .i16 .rlx .wave 1 (.s 1)) = false := by decide
theorem test_wf_reorder_twice : Instr.wf (.reorder h0 0 false 1 (.s 1) [2, 2]) = false := by decide
theorem test_wf_publish_16 : Instr.wf (.publish96 h0 (.s 1) 16) = false := by decide
theorem test_wf_fence_rlx : Instr.wf (.fence h0 .rlx .dev) = false := by decide
theorem test_wf_tqpop_odd : Instr.wf (.tqpop h0 (.s 1) (.s 2) 3) = false := by decide
theorem test_wf_spawn_253 : Instr.wf (.spawn h0 0 1 (.s 1) 253) = false := by decide
theorem test_wf_xcopy_mc_tile : Instr.wf (.xcopy h0 true false .rlx .wave none (.s 1) (.s 2) (.s 3) 0 0 (some 1) none) = false := by
  decide
theorem test_wf_xcopy_masks : Instr.wf (.xcopy h0 false false .rlx .wave none (.s 1) (.s 2) (.s 3) 1 0 none none) = false := by decide
theorem test_wf_xgather_none : Instr.wf (.xgather h0 .rlx .wave none (.s 1) 2 (.s 3) 0 0 false 0 0) = false := by decide
theorem test_wf_mmul_blocks : Instr.wf (.mmul h0 .acc0 (.s 1) (.s 2) .zs { code := 3, x := false, u := false } .nosc 0 12 false false 0) = false := by
  decide
theorem test_wf_mdrain_add : Instr.wf (.mdrain h0 true .rlx .wave .acc0 (.s 1) (.s 2) none .f16 0 false 0) = false := by decide
theorem test_wf_mstat_clear : Instr.wf (.mstat h0 (.s 1) 3 1) = false := by decide
theorem test_wf_peval_lin : Instr.wf (.peval h0 0 .lin false 1 (.s 1) (.s 2) (.s 3) 0 0) = false := by decide
theorem test_wf_binapp_odd : Instr.wf (.binapp h0 0 1 3 4 (.s 1) 0) = false := by decide
theorem test_wf_rbox_ray : Instr.wf (.rbox h0 0 2 4 9) = false := by decide
theorem test_wf_rtri_quad : Instr.wf (.rtri h0 0 2 4 8) = false := by decide
theorem test_wf_rpush_k0 : Instr.wf (.rpush h0 0 1 2 0) = false := by decide
theorem test_wf_rpop_odd : Instr.wf (.rpop h0 0 1 2) = false := by decide
theorem test_wf_csrr_lane : Instr.wf (.csrr h0 (.sreg (.s 1)) .lane) = false := by decide
theorem test_wf_launch_queues : Instr.wf (.launch h0 .zs (.q 0) (.q 0)) = false := by decide
theorem test_wf_format_bits : Fmt.ok { code := 1, x := true, u := false } = false := by decide
theorem test_wf_good : Instr.wf (.sadd h0 .zs (.q 1) (.q 2)) = true := by decide

/-! ### The spec's own words (12 R203; 14 R239, R246; 15 R255, R263, R267, R270; 16 R275; 20 R300; 22; 24) -/

theorem test_word_brv : decodeParcels [0x00208601, 0, 0xA] = some (.brv h0 .all 3 10, 12) := by decide
theorem test_word_callt : decodeParcels [0x0000E000, 0x06000008] = some (.callt h0 .acq .dev (.s 8), 8) := by decide
theorem test_word_loop : decodeParcels [0x04014001, 0, 0xFFFFFFF8] = some (.loop h0 4 0xFFFFFFF8, 12) := by decide
theorem test_word_ssub : decodeParcels [0x06046000, 0x00000706] = some (.ssub h0 (.s 6) (.s 6) (.s 7), 8) := by decide
theorem test_word_kcmps : decodeParcels [0x01496000, 0x00000006] = some (.kcmps h0 false .lt 1 (.s 6), 8) := by decide
theorem test_word_vmad :
    decodeParcels [0x0A0AC800, 0x60030201] = some (.vmad h0 4 .n32 true 10 1 2 3, 8) := by decide
theorem test_word_ffma : decodeParcels [0x04106000, 0x01030201] = some (.ffma h0 0 .rz 4 1 2 3, 8) := by decide
theorem test_word_vred : decodeParcels [0x04D48200, 0x80000003] = some (.vred h0 1 .f32 .fadd .rne (.s 4) 3, 8) := by decide
theorem test_word_reorder :
    decodeParcels [0x0014E202, 0x00020514, 0x00001514, 0] = some (.reorder h0 1 false 0x14 (.s 5) [0x14, 0x15], 16) := by decide
theorem test_word_vld :
    decodeParcels [0x05160001, 0x00110704, 0x40] = some (.vld96 h0 0 .b32 .rlx .wave 5 (.s 4) (.vec 7 false) 2 0x40, 12) := by decide
theorem test_word_satom :
    decodeParcels [0x0996E000, 0x0A000302] = some (.satom h0 .b64 .or .rel .dev (.s 9) (.s 2) (.s 3) none, 8) := by decide
theorem test_word_xcopy :
    decodeParcels [0x031A2002, 0x1A0A0908, 0x005C0006, 0] =
      some (.xcopy h0 true false .rel .dev (some 3) (.s 8) (.s 9) (.s 10) 6 0x5C none none, 16) := by decide
theorem test_word_mmul :
    decodeParcels [0x011AA002, 0x00060504, 0x001B3F46, 0] =
      some (.mmul h0 .acc1 (.s 4) (.s 5) (.s 6) { code := 6, x := false, u := false } .e8 0x3F 11 true false 0, 16) := by decide
theorem test_word_pcfg : decodeParcels [0x001C0001, 0, 0x303] = some (.pcfg h0 0 3 3, 12) := by decide
theorem test_word_pif : decodeParcels [0x001D6400, 0x00020201] = some (.pif h0 2 .lt 1 2, 8) := by decide
theorem test_word_pred : decodeParcels [0x091DA000, 0x00000005] = some (.pred h0 0 .add (.s 9) 5, 8) := by decide
theorem test_word_rtri : decodeParcels [0x181E4200, 0x00000820] = some (.rtri h0 1 0x18 0x20 8, 8) := by decide
theorem test_word_csrw : decodeParcels [0x111F2000, 0x00000078] = some (.csrw h0 .pflags (.s 120), 8) := by decide
theorem test_word_brv_sub3 : decodeParcels [0x00608601, 0, 0xA] = none := by decide
theorem test_word_callt_rel : decodeParcels [0x0000E000, 0x0A000008] = none := by decide
theorem test_word_callt_ar_wave : decodeParcels [0x0000E000, 0x0C000008] = none := by decide
theorem test_word_loop_q0 : decodeParcels [0x80014001, 0, 0xFFFFFFF8] = none := by decide
theorem test_word_vaddc_k0 : decodeParcels [0x0A0AC000, 0x00000201] ≠ some (.vaddc h0 0 .i32 10 1 2 0, 8) := by decide

/-! ### Single steps with the spec's own results -/

/-- 14 R246: k2 with lanes 1, 2, 5, 6 and 9. -/
theorem test_kpopc : mgetD (nextOf (exec (.kpopc h0 (.s 4) 2) s0)).w.s 4 0 = 5 := by decide +kernel
theorem test_kfirst : mgetD (nextOf (exec (.kfirst h0 (.s 5) 2) s0)).w.s 5 9 = 1 := by decide +kernel
theorem test_ktos : mgetD (nextOf (exec (.ktos h0 (.s 6) 2 false) s0)).w.s 6 0 = 0x266 := by decide +kernel
theorem test_krank :
    let t := nextOf (exec (.krank h0 9 2) s0)
    [0, 1, 2, 3, 5, 6, 7, 9, 10, 127].map (t.w.lane 9) = [0, 0, 1, 2, 2, 3, 4, 4, 5, 5] := by decide +kernel
/-- 14 R242: −7 ÷ 2 and 7 ÷ −2 under .i64; −2^63 ÷ −1; a zero divisor. -/
theorem test_sdiv :
    let w := { wave0 with s := [(1, BitVec.ofInt 64 (-7)), (2, 2), (3, 0x8000000000000000), (4, BitVec.ofInt 64 (-1))] }
    (mgetD (nextOf (exec (.sdiv h0 false (.s 5) (.s 1) (.s 2)) (sWave w))).w.s 5 0 = BitVec.ofInt 64 (-3)) ∧
      (mgetD (nextOf (exec (.srem h0 false (.s 5) (.s 1) (.s 2)) (sWave w))).w.s 5 0 = BitVec.ofInt 64 (-1)) ∧
      (mgetD (nextOf (exec (.sdiv h0 false (.s 5) (.s 3) (.s 4)) (sWave w))).w.s 5 0 = 0x8000000000000000) ∧
      (mgetD (nextOf (exec (.srem h0 false (.s 5) (.s 1) .zs) (sWave w))).w.s 5 0 = BitVec.ofInt 64 (-7)) := by decide +kernel
/-- 14 R243: a sign-extended negative count. -/
theorem test_ssar_big : mgetD (nextOf (exec (.ssar96 h0 (.s 5) (.s 1) 0xFFFFFFFF) (sWave { wave0 with s := [(1, BitVec.ofInt 64 (-7))] }))).w.s 5 0
    = BitVec.allOnes 64 := by decide +kernel
/-- 14 R233: a counter of 0. -/
theorem test_loop_zero :
    let t := nextOf (exec (.loop h0 9 4) s0)
    mgetD t.w.s 9 0 = BitVec.allOnes 64 ∧ t.w.pc = 0x1010 := by decide +kernel
/-- 14 R232: BRU of a mask neither full nor empty traps with NONUNIFORM. -/
theorem test_bru : (nextOf (exec (.bru h0 1 4) s0)).w.cause = 0x11 := by decide +kernel
/-- 14 R206: an empty queue holds the wave. -/
theorem test_queue_empty : (nextOf (exec (.smov h0 (.s 5) (.q 0)) s0)).w.why = .sync := by decide +kernel
theorem test_queue_full : (nextOf (exec (.smov h0 (.q 1) (.s 1)) s0)).w.why = .sync := by decide +kernel
/-- 15 R252: a saturating sum; only active lanes are written. -/
theorem test_vadd_sat :
    let w := { wave0 with v := [(128, 0x7FFFFFFF), (256, 1), (259, 1)] }
    let t := nextOf (exec (.vadd h0 1 .i32 true 3 1 2) (sWave w))
    t.w.lane 3 0 = 0x7FFFFFFF ∧ t.w.lane 3 3 = 0 := by decide +kernel
/-- 15 R253: the carry of an active lane; an inactive lane keeps its bit. -/
theorem test_vaddc :
    let w := { wave0 with k := [(1, 1), (2, 0x3)], v := [(128, 0xFFFFFFFF)] }
    let t := nextOf (exec (.vaddc h0 1 .n32 3 1 2 2) (sWave w))
    t.w.lane 3 0 = 0 ∧ t.w.mask 2 = 0x3 := by decide +kernel
/-- 15 R254: VCMP clears the bits of inactive lanes. -/
theorem test_vcmp :
    (nextOf (exec (.vcmp h0 1 .i32 .gt 2 1 2) s0)).w.mask 2 = 0x7 := by decide +kernel
/-- 15 R267: 2^24 + 1 + 1 in lane order. -/
theorem test_vred_fadd :
    let w := { wave0 with k := [(2, 0x7)], v := [(384, 0x4B800000), (385, 0x3F800000), (386, 0x3F800000)] }
    let t := nextOf (exec (.vred h0 2 .f32 .fadd .rne (.s 4) 3) (sWave w))
    mgetD t.w.s 4 0 = 0x4B800000 ∧ mgetD t.w.lflags 1 0 = 1 ∧ mgetD t.w.lflags 0 0 = 0 := by decide +kernel
theorem test_vred_fadd_up :
    let w := { wave0 with k := [(2, 0x7)], v := [(384, 0x4B800000), (385, 0x3F800000), (386, 0x3F800000)] }
    mgetD (nextOf (exec (.vred h0 2 .f32 .fadd .ru (.s 4) 3) (sWave w))).w.s 4 0 = 0x4B800002 := by decide +kernel
/-- 15 R268: the lane rules worked through. -/
theorem test_vcomp :
    let w := { wave0 with
      k := [(1, 0x77)]
      v := [(640, 10), (641, 20), (642, 30), (643, 40), (644, 50), (645, 60), (646, 70), (647, 80)] }
    let t := nextOf (exec (.vcomp h0 1 false 8 5) (sWave w))
    (List.range 7).map (t.w.lane 8) = [10, 20, 30, 50, 60, 70, 0] := by decide +kernel
/-- 15 R266: a source lane from G up gives +0. -/
theorem test_vshuf_out :
    let w := { wave0 with k := [(1, 0x7)], v := [(643, 40), (767, 1), (1152, 3), (1153, 200), (1154, 127)] }
    let t := nextOf (exec (.vshuf h0 1 false .lidx 10 5 9) (sWave w))
    t.w.lane 10 0 = 40 ∧ t.w.lane 10 1 = 0 ∧ t.w.lane 10 2 = 1 := by decide +kernel
/-- 15 R258: the other operand where one is a NaN; −0 below +0. -/
theorem test_fmin : (f32minmax false 0x7FC00000 5).1 = 5 ∧ (f32minmax false 0 0x80000000).1 = 0x80000000 := by decide +kernel
/-- 09 R147: 0 × ∞ is invalid and canonical. -/
theorem test_fmul_invalid : f32mul .rne 0 0x7F800000 = (nanF32, flNV) := by decide +kernel
/-- 11 R188: TRAP is delivered at %tvec with RESUME at the next instruction. -/
theorem test_trap :
    let t := nextOf (exec (.trap h0 0xAB) s0)
    t.w.cause = 0x15 ∧ t.w.tepc = 0x100C ∧ t.w.pc = 0x1000 ∧ t.w.intrap = true ∧ memNat t.mem (0x40000 + 48 - 8) 4 = 0xAB := by decide +kernel
/-- 11 R188: TRET outside a handler is ILLEGAL. -/
theorem test_tret : (nextOf (exec (.tret h0) s0)).w.cause = 0x10 := by decide +kernel
/-- 16 R273: an address that is not a multiple of its size. -/
theorem test_sld_misaligned :
    (nextOf (exec (.sld96 h0 .b32 .rlx .wave (.s 5) (.s 3) 2) s0)).w.cause = 0x08 := by decide +kernel
/-- 16 R274: a load is counted and owes its register. -/
theorem test_sld :
    let t := nextOf (exec (.sld h0 .b32 .rlx .wave (.s 5) (.s 3)) s0)
    t.counter t.tag Op.ld = 1 ∧ t.owed = [.s 5] ∧ t.packets.length = 1 := by decide +kernel
/-- 16 R283: SEMACQ waits while its count is short, and is then in line. -/
theorem test_semacq : (nextOf (exec (.semacq96 h0 3 1) s0)).w.why = .sync := by decide +kernel
/-- 16 R284: SEMREL of the own cluster. -/
theorem test_semrel : ((nextOf (exec (.semrel96 h0 3 .zs 2) s0)).semOf 0 1 3).count = 2 := by decide +kernel
/-- 16 R292: TALLOC gives the lowest entry. -/
theorem test_talloc : mgetD (nextOf (exec (.talloc96 h0 (.s 1) .zs 1) s0)).w.s 1 0 = 0 := by decide +kernel
/-- 22 R318: PCFG without the plane is ILLEGAL. -/
theorem test_pcfg : (nextOf (exec (.pcfg h0 0 3 3) s0)).w.cause = 0x10 := by decide +kernel
/-- 24 R344: a leaf. -/
theorem test_feat : mgetD (nextOf (exec (.feat96 h0 (.s 5) 0x102) s0)).w.s 5 0 = 2700 := by decide +kernel
/-- 24 R342: %tvec keeps bit 1 at zero. -/
theorem test_csrw : (nextOf (exec (.csrw h0 .tvec (.s 2)) s0)).w.tvec = 5 := by decide +kernel

/-! ### Witnesses: a state and operands that meet the hypotheses of each statement -/

theorem witness_decodeParcels : ∃ i len, decodeParcels [0x00208601, 0, 0xA] = some (i, len) := ⟨_, _, test_word_brv⟩
theorem witness_encodingRoundTrip : (Instr.brv h0 .all 3 10).wf = true ∧ encode (.brv h0 .all 3 10) ≠ [] := by decide

theorem witness_scalarResults : ∃ r s1 t xs, scalarRule (.sadd h0 (.s 5) (.s 1) (.s 2)) = some r ∧
    readSources s0 r.srcs = .ok (xs, s1) ∧ writeS s1 r.d (r.result xs) = .ok t ∧ s0.curWave?.isSome ∧ t.covers {} h0 :=
  ⟨_, _, _, _, rfl, rfl, rfl, rfl, by change _ ≤ _; decide +kernel⟩

theorem witness_shiftCounts : ∃ t, readS s0 (.s 1) = .ok (5, s0) ∧ readS2 s0 (.imm 64) = .ok (64, s0) ∧
    writeS s0 (.s 5) 0 = .ok t ∧ (64 : DWord).toNat = 64 := ⟨_, rfl, rfl, rfl, by decide⟩
theorem witness_shiftCounts_63 : ∃ t, readS s0 (.s 1) = .ok (5, s0) ∧ readS2 s0 (.imm 63) = .ok (63, s0) ∧
    writeS s0 (.s 5) ((5 : DWord) <<< 63) = .ok t := ⟨_, rfl, rfl, rfl⟩

/-- Every case of 14 R242 has operands, and the corner cases do not meet the others. -/
theorem witness_divisionCorners : ∃ s t, readS s (.s 1) = .ok (0x8000000000000000, s) ∧ readS2 s (.reg (.s 2)) = .ok (BitVec.allOnes 64, s) ∧
    writeS s (.s 5) 0x8000000000000000 = .ok t :=
  ⟨sWave { wave0 with s := [(1, 0x8000000000000000), (2, BitVec.allOnes 64)] }, _, rfl, rfl, rfl⟩
theorem witness_divisionCorners_zero : ∃ t, readS s0 (.s 1) = .ok (5, s0) ∧ readS2 s0 (.reg .zs) = .ok (0, s0) ∧
    writeS s0 (.s 5) 0xFFFFFFFFFFFFFFFF = .ok t := ⟨_, rfl, rfl, rfl⟩
theorem witness_divisionCorners_rest : (BitVec.ofInt 64 (-3)).toInt = (BitVec.ofInt 64 (-7)).toInt.tdiv (2 : DWord).toInt ∧
    (BitVec.ofInt 64 (-1)).toInt = (BitVec.ofInt 64 (-7)).toInt.tmod (2 : DWord).toInt := by decide

theorem witness_scalarSources : s0.owed.contains (.s 1) = false ∧ s0.owed.contains (.q 1) = false ∧
    s0.wg.queues[1]? = some { depth := 1, entries := [9] } ∧ s0.wg.queues[0]? = some { depth := 1, entries := [] } := by decide +kernel
theorem witness_scalarDestinations : waitPoint s0 .wg = .ok () ∧ (0 : Nat) + s0.queueOwed 0 < 1 ∧ 1 ≤ 1 + s0.queueOwed 1 :=
  ⟨rfl, by decide +kernel, by decide +kernel⟩

theorem witness_effectFrames : ∃ t u v, writeS s0 (.s 5) 1 = .ok t ∧ writeK s0 3 1 = .ok u ∧ writeVW s0 true 62 (fun _ => some 1) = .ok v ∧
    63 < s0.w.bound := ⟨_, _, _, rfl, rfl, rfl, by decide⟩

theorem witness_vectorResults : ∃ r m xs t, vectorRule (.vadd h0 1 .i64 true 62 2 4) = some r ∧ readK s0 r.k = .ok m ∧
    readVecs s0 m r.srcs = .ok xs ∧ writeVW s0 r.wide r.d.toNat (atActive m xs r.lane) = .ok t ∧ r.d.toNat + 1 < s0.w.bound ∧
    s0.curWave?.isSome := ⟨_, _, _, _, rfl, rfl, rfl, rfl, by decide, rfl⟩
theorem witness_scalarToLanes : ∃ m t, readK s0 1 = .ok m ∧ readS s0 (.s 1) = .ok (5, s0) ∧
    writeVW s0 false 5 (fun l => if m.getLsbD l then some 5 else none) = .ok t := ⟨_, _, rfl, rfl, rfl⟩
theorem witness_floatResults : ∃ r m xs t, floatRule (.fadd h0 1 .rne 3 1 2) = some r ∧ readK s0 r.k = .ok m ∧
    readFloats s0 m r.srcs = .ok xs ∧ writeV s0 r.d.toNat (atActive m xs (fun l => (r.lane l).1)) = .ok t ∧ r.d.toNat < s0.w.bound :=
  ⟨_, _, _, _, rfl, rfl, rfl, rfl, by decide⟩

theorem witness_maskResults : ∃ x y t u v, readK s0 1 = .ok x ∧ readK s0 2 = .ok y ∧ writeK s0 3 (x &&& y) = .ok t ∧
    writeS s0 (.s 5) 1 = .ok u ∧ writeV s0 9 (fun _ => some 0) = .ok v ∧ x ≠ 0 ∧ x.getLsbD 0 = true :=
  ⟨_, _, _, _, _, rfl, rfl, rfl, rfl, rfl, by decide, by decide⟩
theorem witness_maskResults_kcmps : readS s0 (.s 1) = .ok (5, s0) ∧
    ∀ i : Nat, i < 128 → (0x1F : Mask).getLsbD i = intPred .lt (i : Int) (operand false 5) := ⟨rfl, by decide +kernel⟩

/-- One lane of VADDC with a carry, the others inactive. -/
theorem witness_addWithCarry : ∃ s m kc xa xb t u, readK s 1 = .ok m ∧ readK s 2 = .ok kc ∧ readVW s false 1 m.getLsbD = .ok xa ∧
    readVW s false 2 m.getLsbD = .ok xb ∧
    writeVW s false 3 (fun l => if m.getLsbD l then some ((xa l + xb l + (kc.getLsbD l).toNat) % 2 ^ widthOf false) else none) = .ok t ∧
    writeK t 2 3 = .ok u :=
  ⟨sWave { wave0 with k := [(1, 1), (2, 3)], v := [(128, 0xFFFFFFFF)] }, _, _, _, _, _, _, rfl, rfl, rfl, rfl, rfl, rfl⟩
theorem witness_compareAndSelect : ∃ m xa xb kc t u, readK s0 1 = .ok m ∧ readVW s0 false 1 m.getLsbD = .ok xa ∧ readVW s0 false 2 m.getLsbD = .ok xb ∧
    readK s0 2 = .ok kc ∧ writeK s0 3 0x7 = .ok t ∧
    writeVW s0 false 5 (fun l => if m.getLsbD l then some (if kc.getLsbD l then xa l else xb l) else none) = .ok u :=
  ⟨_, _, _, _, _, _, rfl, rfl, rfl, rfl, rfl, rfl⟩
theorem witness_floatCompare : ∃ m xa xb t, readK s0 1 = .ok m ∧ readV s0 1 m.getLsbD = .ok xa ∧ readV s0 2 m.getLsbD = .ok xb ∧ writeK s0 3 0x7 = .ok t ∧
    (f32val 0x7FC00000).isNaN = true ∧ (f32val 0x7F800001).isSNaN = true ∧ (f32val 0).isNaN = false ∧ f32val 0xFF800000 = .inf true ∧
    f32val 0x7F800000 = .inf false := ⟨_, _, _, _, rfl, rfl, rfl, rfl, by decide, by decide, by decide, by decide, by decide⟩
/-- Finite values on both sides of zero, in order. -/
theorem witness_floatCompare_finite : (∃ m e, f32val 0xBF800000 = .fin true m e) ∧ (∃ m e, f32val 0x3F800000 = .fin false m e) ∧
    (f32cmp .lt 0xBF800000 0x3F800000).1 = true ∧ (f32cmp .lt 0x3F800000 0xBF800000).1 = false := ⟨⟨_, _, rfl⟩, ⟨_, _, rfl⟩, by decide, by decide⟩
theorem witness_floatDecisions : f32val 0x7F800000 = .inf false ∧ f32val 0xFF800000 = .inf true ∧ (f32val 0).isZero = true ∧
    (∃ n m e, f32val 0x3F800000 = .fin n m e ∧ m ≠ 0) ∧ (f32val 0xBF800000).neg? = true ∧
    f32val 0xBF800000 = (f32val 0x3F800000).negate := ⟨by decide, by decide, by decide, ⟨_, _, _, rfl, by decide⟩, by decide, by decide⟩
theorem witness_shuffles : ∃ m xa xb y t, readK s0 1 = .ok m ∧ readVW s0 false 1 m.getLsbD = .ok xb ∧
    readVW s0 true 2 (((List.range 128).filter (fun i => m.getLsbD i)).map xb).contains = .ok xa ∧
    readVW s0 true 2 (fun l => l == 5 && m != 0) = .ok y ∧
    readS s0 (.s 1) = .ok (5, s0) ∧ writeVW s0 true 4 (fun _ => some 1) = .ok t := ⟨_, _, _, _, _, rfl, rfl, rfl, rfl, rfl, rfl⟩
theorem witness_compaction : ∃ m x t, readK s0 1 = .ok m ∧ readVW s0 false 1 m.getLsbD = .ok x ∧
    writeVW s0 false 5 (fun n => (lanesBelow (fun i => m.getLsbD i) x 128)[n]?) = .ok t := ⟨_, _, _, rfl, rfl, rfl⟩
theorem witness_reductions : ∃ m x mb t u, readK s0 1 = .ok m ∧ readVW s0 false 1 m.getLsbD = .ok x ∧ readK s0 2 = .ok mb ∧
    writeVW s0 false 5 (fun _ => some 1) = .ok t ∧ writeS s0 (.s 5) 1 = .ok u := ⟨_, _, _, _, _, rfl, rfl, rfl, rfl, rfl⟩
/-- Three active lanes with keys 2, 1 and 1: lanes 1 and 2 go first, in lane order. -/
theorem witness_reorder : let s := sWave { wave0 with s := [(1, 1)], v := [(128, 2), (129, 1), (130, 1)] }
    (∃ m key x, readK s 1 = .ok m ∧ readVW s false 1 m.getLsbD = .ok key ∧ readVW s false 2 m.getLsbD = .ok x ∧ readS s (.s 1) = .ok (1, s)) ∧
    s.w.wnum = 0 ∧ (1 : DWord).toNat % 2 ^ 16 = 2 ^ s.w.wnum ∧ s.wg.rows[0]? = some s.cur.2 ∧ s.wg.exited.contains 0 = false ∧
    (∀ e ∈ (s.cluster s.cur.1).waves, e.1 ≠ s.cur.2 → e.2.wgslot = s.w.wgslot → e.2.arrived = none) ∧ 2 < s.w.bound ∧
    [1, 2, 0].Perm ((List.range 128).filter (fun i => (0x7 : Mask).getLsbD i)) ∧
    [1, 2, 0].Pairwise (fun i j => s.w.lane 1 i < s.w.lane 1 j ∨ (s.w.lane 1 i = s.w.lane 1 j ∧ i < j)) :=
  ⟨⟨_, _, _, rfl, rfl, rfl, rfl⟩, by decide, by decide, by decide, by decide, by decide, by decide, by decide +kernel, by decide +kernel⟩
/-- Waves 0 and 1 of a workgroup, in rows 0 and 4, with keys 2, 1 and 1; wave 1 has arrived with the same list. -/
def sReorder : State :=
  let w := { wave0 with s := [(1, 3)], v := [(128, 2), (129, 1), (130, 1)] }
  let w1 := { w with wnum := 1, arrived := some (.reorder h0 1 false 1 (.s 1) [2]) }
  { s0 with clusters := [(0, { cluster0 with waves := [(0, w), (4, w1)], wgs := [(0, { wg0 with rows := [0, 4] })] })] }
theorem witness_reorder_gang : let s := sReorder
    (readS s (.s 1)).toOption.map Prod.fst = some 3 ∧ s.wg.rows[s.w.wnum]? = some s.cur.2 ∧ s.wg.rows.Nodup ∧ s.wg.exited = [] ∧
    ((List.range 16).filter (fun n => (3 : DWord).getLsbD n)).filterMap (fun n => s.wg.rows[n]?) = [0, 4] ∧
    (crossLists s [(0, .s 1)] 0 0).toOption.any (fun l => mget l 4 == some 3 && (otherCrossing s 3 l).isEmpty) = true ∧
    (s.waveAt? 0 4).any (fun w => w.stage == s.w.stage && w.arrived == some (.reorder h0 1 false 1 (.s 1) [2])) = true ∧
    (holdsOf (crossValues s 1 1 false [2])).toOption.isSome = true ∧
    (∀ row ∈ [0, 4], (crossValues (s.asRow row) 1 1 false [2]).toOption.any (fun x =>
      (List.range 4).map (fun l => (x.1 l, (x.2.1 l).toNat)) == [(true, 2), (true, 1), (true, 1), (false, 0)]) = true) ∧
    [(0, 1), (0, 2), (4, 1), (4, 2), (0, 0), (4, 0)].Perm [(0, 0), (0, 1), (0, 2), (4, 0), (4, 1), (4, 2)] ∧
    (writeAs s 4 (fun v => writeVW v false 2 (fun l => if l < 3 then some l else none))).toOption.isSome = true ∧
    (writeAs s 4 (fun v => (readS v (.s 1)).map Prod.snd)).toOption.isSome = true := by decide +kernel

theorem witness_budget : (sWave wave0).curWave?.isSome ∧
    let s := { s0 with clusters := [(0, { cluster0 with slots := [(0, { ctx := 1, sems := [], units := 7 })] })] }
    s.units s.cur.1 s.w.ctx < s.chargeOf {} { h0 with e := 1 } := by decide +kernel
theorem witness_branches : ∃ m, readS s0 (.s 1) = .ok (5, s0) ∧ readK s0 1 = .ok m ∧ m ≠ BitVec.allOnes 128 ∧ m ≠ 0 :=
  ⟨_, rfl, rfl, by decide, by decide⟩
theorem witness_branches_all : readK s0 0 = .ok (BitVec.allOnes 128) ∧ readK s0 5 = .ok 0 := ⟨rfl, rfl⟩
theorem witness_loopCounts : s0.owed.contains (.s 1) = false ∧ mgetD s0.w.s 9 0 = 0 ∧ 2 ≤ (mgetD s0.w.s 1 0).toNat := by decide +kernel

/-- Code at 0x1800: two FILL parcels and ENTRY; at 0x1900 a NOP. -/
def sCode : State :=
  let bytes (i : Instr) : List Byte := (encode i).flatMap (fun w => natToBytes 4 w.toNat)
  let code := memWrite (memWrite tables 0x1800 (bytes .fill ++ bytes .fill ++ bytes (.entry h0))) 0x1900 (bytes (.nop { h0 with s := 1 }))
  { s0 with mem := memWrite code 0x2000 (natToBytes 8 0x1800) }
/-- A check of an answer whose values do not matter. -/
def isOk : EntryCheck → Bool
  | .ok _ => true
  | _ => false
def isNoEntry : EntryCheck → Bool
  | .noEntry => true
  | _ => false
theorem witness_calls : isOk (sCode.checkEntry 0 0 entryFuel 0x1800) = true ∧ isNoEntry (sCode.checkEntry 0 0 entryFuel 0x1900) = true ∧
    sCode.owed.contains (.s 127) = false := by decide +kernel
theorem witness_calls_entryRead : (entryRead sCode 0x2000).toOption.map Prod.fst = some 0x1800 ∧ waitPoint sCode .dev = .ok () ∧
    sCode.w.entry = none ∧ ({ wave0 with entry := some (0x2000, 0x1800) } : Wave).entry = some (0x2000, 0x1800) ∧ (0x2000 : Nat) ≠ 0x2008 :=
  ⟨by decide +kernel, rfl, rfl, rfl, by decide⟩
theorem witness_calls_misaligned : canonical (0x2004 : DWord).toNat = true ∧ (0x2004 : DWord).toNat % 8 ≠ 0 := by decide

def rec0 : JobRec :=
  { vaddr := 0, progress := 0, ctx := 1, wave := 0, cluster := 0, sem := 255, access := 0, job := 0, cause := 2, iaddr := 0, wgx := 0, seq := 1 }
theorem witness_exit : s0.w.held = [] ∧ (sWave { wave0 with held := [rec0] }).w.held = rec0 :: [] := by decide
def plane0 : Plane :=
  { ctx := 1, wgslot := 0, cells := [(0, 0x3F800000)], enable := BitVec.allOnes 4096, stack := [], flags := [(0, 1)], wm1 := 63, hm1 := 63, en := 0 }
def sPlane (p : Plane) : State := { s0 with clusters := [(0, { cluster0 with plane := some p })] }
theorem witness_trapf : (∃ e, e ∈ (sWave { wave0 with lflags := [(3, 8)] }).w.lflags ∧ e.2 &&& (sWave { wave0 with lflags := [(3, 8)] }).w.fflagsEn ≠ 0) ∧
    (∀ e, e ∈ s0.w.lflags → e.2 &&& s0.w.fflagsEn = 0) ∧ (sPlane { plane0 with en := 1 }).myPlane = some { plane0 with en := 1 } ∧
    (∃ e, e ∈ ({ plane0 with en := 1 } : Plane).flags ∧ e.2 &&& ({ plane0 with en := 1 } : Plane).en ≠ 0) ∧
    (flagsRaised s0).toOption.isSome ∧ (flagsRaised (sPlane { plane0 with en := 1 })).toOption.isSome ∧
    (flagsRaised (sWave { wave0 with lflags := [(3, 8)] })).toOption.isSome := by
  and_intros
  all_goals first
    | exact ⟨(3, 8), by decide, by decide⟩
    | decide +kernel
theorem witness_trapDelivery : s0.waveAt? 0 0 = some wave0 ∧ wave0.intrap = false ∧ wave0.tvec.getLsbD 0 = true ∧
    (let r : TrapRec := { cause := 0x15, iaddr := 0, resume := 12 }
     let p : TrapRec := { cause := 0x17, iaddr := 0, resume := 12 }
     (r.areaParts.foldlM (fun (s : State) x => s.hwWrite 0 1 (s.trapArea 0 wave0 + x.1) x.2) s0).toOption.isSome = true ∧
       (p.areaParts.foldlM (fun (s : State) x => s.hwWrite 0 1 (s.trapArea 0 wave0 + x.1) x.2) s0).toOption.isSome = true ∧
       p.areaParts.map (fun x => (x.1, x.2.length)) = [(0, 64), (0x80, 512)]) := by decide +kernel
theorem witness_trapReturn : (sWave { wave0 with intrap := true }).w.intrap = true ∧ s0.w.intrap = false := by decide
theorem witness_trapEscalation : (sWave { wave0 with tvec := 0 }).waveAt? 0 0 = some { wave0 with tvec := 0 } ∧
    mget ((sWave { wave0 with tvec := 0 }).cluster 0).wgs 0 = some wg0 := by decide
theorem witness_hostServiced : let s := { s0 with ctxs := [(1, { ctx1 with hostMask := 2 ^ 12 + 2 })] }
    s.waveAt? 0 0 = some wave0 ∧ wave0.bwait = none ∧ (s.ctxOf wave0.ctx).hostMask.testBit 12 = true ∧
    (s.ctxOf wave0.ctx).hostMask.testBit 1 = true ∧ (s.ctxOf wave0.ctx).hostMask.testBit 2 = false := by decide

/-! ### Memory -/

theorem ok_of {ε α : Type} {x : Except ε α} (h : x.toOption.isSome = true) : ∃ a, x = .ok a := by
  cases x with
  | ok a => exact ⟨a, rfl⟩
  | error _ => cases h

def lanes3 : List LaneAcc := [0, 1, 2].map (fun l => { lane := l, va := 0x2000 + 4 * l })
theorem witness_vectorLoads : loadForm (.vld h0 1 .b32 .rlx .wave 5 (.s 3) (.vec 2 false) 2) =
    some ⟨h0, 8, 1, .b32, .rlx, .wave, 5, .s 3, .vec 2 false, 4, 0⟩ ∧
    (∃ m ix, readK s0 1 = .ok m ∧ readIndex s0 m.getLsbD (.vec 2 false) = .ok ix ∧ targetVW s0 false 5 m.getLsbD = .ok ()) ∧
    readS s0 (.s 3) = .ok (0x2000, s0) ∧ (∃ ok, checkLanes s0 4 .read none lanes3 = .ok ok) ∧ counterRoom s0 Op.ld = .ok () :=
  ⟨rfl, ⟨_, _, rfl, rfl, rfl⟩, rfl, ok_of (by decide +kernel), rfl⟩
theorem witness_vectorStores : storeForm (.vst h0 1 .b32 .rlx .wave 5 (.s 3) .noIndex 2) =
    some ⟨h0, 8, 1, .b32, .rlx, .wave, 5, .s 3, .noIndex, 4, 0⟩ ∧ (∃ x, readVW s0 false 5 (0x7 : Mask).getLsbD = .ok x) ∧
    (∃ ok, checkLanes s0 4 .write none lanes3 = .ok ok) ∧ counterRoom s0 Op.st = .ok () :=
  ⟨rfl, ⟨_, rfl⟩, ok_of (by decide +kernel), rfl⟩
/-- VCST from element 0: all of its elements pass; with a base at the end of the map the first does not. -/
theorem witness_packedStores : packedForm (.vcst h0 1 .b32 .rlx .wave 1 (.s 3)) =
    some ⟨h0, 8, 1, .b32, .rlx, .wave, 1, .s 3, .noIndex, 0, 0⟩ ∧ s0.w.rows.toNat = 0 ∧
    (∀ k, k < 3 → (((s0.accessOf k).checkAccess 0 1 (0x2000 + 4 * k) 4 .write none).toOption.isSome = true)) ∧
    ((s0.accessOf 0).checkAccess 0 1 0x110000 4 .write none).toOption.isSome = false ∧
    -- a stride that misaligns
    (6 : Nat) % 4 ≠ 0 ∧ canonical 0x2000 = true :=
  ⟨rfl, by decide, by decide +kernel, by decide +kernel, by decide, by decide⟩
theorem witness_scalarLoadsAndStores : readS s0 (.s 3) = .ok (0x2000, s0) ∧ (∃ v, s0.checkAccess 0 1 0x2000 4 .read none = .ok v) ∧
    scalarRoom s0 (.s 5) = .ok () ∧ (∃ v, s0.checkAccess 0 1 0x2000 4 .write none = .ok v) ∧
    (s0.checkAccess 0 1 0x2002 4 .read none).toOption.isSome = false :=
  ⟨rfl, ok_of (by decide +kernel), rfl, ok_of (by decide +kernel), by decide +kernel⟩
theorem witness_atomics : atomForm (.atom h0 1 .b32 .add .rlx .wave 5 (.s 3) 2 1) =
    some (⟨h0, 8, 1, .b32, .rlx, .wave, 5, .s 3, .vec 2 false, 4, 0⟩, .add, 1) ∧ targetVW s0 false 5 (0x7 : Mask).getLsbD = .ok () ∧
    (∃ ok, checkLanes s0 4 .atomic (some (.add, .b32)) lanes3 = .ok ok) ∧
    (∃ v, s0.checkAccess 0 1 0x2000 4 .atomic (some (.cas, .b32)) = .ok v) :=
  ⟨rfl, rfl, ok_of (by decide +kernel), ok_of (by decide +kernel)⟩

/-- A packet has arrived, and the turn names it. -/
def arrive (s : State) (id : Nat) : State :=
  { s with packets := mupd s.packets id (fun p => { p with loc := .arrived 0 }), subj := { a := id } }
/-- The access a packet carries. -/
def accessAt (s : State) (id : Nat) : Option Access :=
  match mget s.packets id with
  | some { body := .access a, .. } => some a
  | _ => none
/-- The store, load and atomic of the wave at its home: their packets have identifier 2. -/
def sStore : State := arrive (nextOf (exec (.sst h0 .b32 .rlx .wave (.s 1) (.s 3)) s0)) 2
def sLoad : State := arrive (nextOf (exec (.sld h0 .b32 .rlx .wave (.s 5) (.s 3)) s0)) 2
def sAtomic : State := arrive (nextOf (exec (.satom h0 .b32 .add .rlx .wave (.s 5) (.s 3) (.s 1) none) s0)) 2
/-- Everything State.requestDue asks, but that the packet carries the access. -/
def dueAt (s : State) (id kind : Nat) : Bool :=
  (match mget s.packets id, accessAt s id with
    | some p, some a => p.kind == kind && !p.answer && p.loc == .arrived 0 && sliceHomed a.pa && !s.queuedBehind id p &&
        !s.noTarget a.pa && !s.lockedOut a && (s.moveLines a.uses).isSome
    | _, _ => false) && s.subj.a == id && !s.onLink id && !s.thingHeld (.request id)
theorem witness_storePerforms : dueAt sStore 2 2 = true ∧ (accessAt sStore 2).map Access.kind = some .store ∧
    (sStore.slice (sStore.lineHome 0x2000)).barriers = [] := by decide +kernel
theorem witness_loadPerforms : dueAt sLoad 2 0 = true ∧ (accessAt sLoad 2).map Access.kind = some .load := by decide +kernel
theorem witness_atomicPerforms : dueAt sAtomic 2 3 = true ∧ (accessAt sAtomic 2).map Access.kind = some (.atomic .add .b32) ∧
    (accessAt sAtomic 2).map Access.size = some 4 := by decide +kernel
/-- The store writes four bytes and no other; its packet is the acknowledgement. -/
theorem test_write : let t := nextOf (exec .write sStore)
    memNat t.mem 0x2000 4 = 5 ∧ memNat t.mem 0x2004 4 = 0 ∧ (mget t.packets 2).map Packet.kind = some 4 := by decide +kernel
theorem test_atomicRequest : let t := nextOf (exec .atomicRequest sAtomic)
    memNat t.mem 0x2000 4 = 5 ∧ (accessAt t 2).map Access.result = some 0 := by decide +kernel
/-- The load's answer at its cluster. -/
def sAnswer : State := arrive (nextOf (exec .readRequest { sLoad with mem := memWrite sLoad.mem 0x2000 [0x2A, 0, 0, 0x80] })) 2
theorem witness_answersLand : (mget sAnswer.packets 2).map (fun p => (p.kind, p.answer, p.loc)) = some (1, true, .arrived 0) ∧
    sAnswer.isHeld 2 = false ∧ (accessAt sAnswer 2).map Access.dest = some (.scalar (.s 5)) ∧
    (∀ a, accessAt sAnswer 2 = some a → sAnswer.regsEntry a.tag = none ∧ (sAnswer.residentOf a.tag).isSome) := by
  refine ⟨by decide +kernel, by decide +kernel, by decide +kernel, ?_⟩
  intro a ha
  have h : ((accessAt sAnswer 2).all (fun a => decide (sAnswer.regsEntry a.tag = none) && (sAnswer.residentOf a.tag).isSome)) = true := by
    decide +kernel
  rw [ha] at h
  simpa using h
theorem test_readResponse : let t := nextOf (exec .readResponse sAnswer)
    mgetD t.w.s 5 0 = 0x8000002A ∧ t.packets = [] ∧ t.owed = [] := by decide +kernel

theorem witness_fence : s0.curWave?.isSome ∧ sStore.isPending 2 = true ∧ 2 ∈ sStore.pointAt sStore.tag .dev ∧
    (waitPoint s0 .dev).toOption.isSome = true := by decide +kernel
theorem witness_wait : (let s := sWave { wave0 with held := [{ rec0 with counters := 4 }] }
    s.w.held = [] ++ { rec0 with counters := 4 } :: [] ∧ waitNames 0xFF 0 0xFF { rec0 with counters := 4 } = true ∧
    waitNames 0 0xFF 0xFF { rec0 with counters := 1 } = true ∧ waitNames 0xFF 0 0 { rec0 with counters := 1 } = false ∧ s.counter s.tag Op.ld ≤ 0) ∧
    ¬ sLoad.counter sLoad.tag Op.ld ≤ 0 := by decide +kernel
def window0 : PubWindow := { base := 0x4000000000, en := true, limit := 0x400000000F, vaddr := 0x100 }
theorem witness_publish : let s := { s0 with parts := [(0, { part0 with windows := [(15, window0)] })] }
    waitPoint s .sys = .ok () ∧ counterRoom s Op.ld = .ok () ∧ mget s.parts (s.partOfCtx s.w.ctx) = some { part0 with windows := [(15, window0)] } ∧
    mget ({ part0 with windows := [(15, window0)] } : Part).windows 15 = some window0 ∧ window0.en = true ∧
    (∃ t, writeS (s.publish 0 15 window0).2 (.s 5) 1 = .ok t) :=
  ⟨rfl, rfl, by decide +kernel, by decide, by decide, _, rfl⟩
/-- What slice 0 holds for the window, and for another. -/
theorem witness_publish_held : let e : PubWrite := { win := 15, addr := 0x100, bytes := [1, 2] }
    let s := { s0 with parts := [(0, { part0 with windows := [(15, window0)] })], slices := [(0, { pub := [e, { e with win := 3 }] })] }
    0 ∈ s.slicesOf 0 ∧ (s.slice 0).pub.filter (fun e => e.win == 15) = [e] ∧ e.addr + e.bytes.length ≤ 2 ^ 49 ∧
      2 ^ 49 < ({ e with addr := 2 ^ 49 } : PubWrite).addr + e.bytes.length ∧ (s.publish 0 15 window0).1 = 1 := by decide +kernel
theorem witness_publish_none : waitPoint s0 .sys = .ok () ∧ (∀ p w, mget s0.parts (s0.partOfCtx s0.w.ctx) = some p →
    mget p.windows 0 = some w → w.en = false) ∧ ∃ t, writeS s0 (.s 5) 0 = .ok t := by
  refine ⟨rfl, ?_, _, rfl⟩
  intro p w hp hw
  have : p = part0 := by
    have h : mget s0.parts (s0.partOfCtx s0.w.ctx) = some part0 := by decide +kernel
    rw [h] at hp; exact (Option.some.inj hp).symm
  subst this; cases hw

def sSem (m : Sem) : State :=
  { s0 with clusters := [(0, { cluster0 with slots := [(0, { ctx := 1, sems := [(3, m)], units := 100000 })] })] }
theorem witness_semacq : let m := (sSem { count := 2 }).semOf 0 1 3
    m.error = false ∧ m.waiters = [] ∧ 2 ≤ m.count ∧ m.count < 3 := by decide +kernel
theorem witness_semacq_behind : ((sSem { count := 2, waiters := [7] }).semOf 0 1 3).waiters = 7 :: [] ∧ (7 : Nat) ≠ s0.cur.2 := by decide +kernel
theorem witness_semacq_error : let m := (sSem { error := true, held := some rec0 }).semOf 0 1 3
    m.error = true ∧ m.held = some rec0 := by decide +kernel
theorem witness_semrel : (s0.cluster 0).retired = false ∧ counterRoom s0 Op.st = .ok () ∧ s0.pointDev s0.tag = [] ∧
    s0.semsEntry 0 1 = none ∧ s0.laterals = [] ∧ s0.partOfCluster 8 = s0.partOfCluster 0 ∧ (8 : Nat) ≠ s0.cur.1 ∧ s0.partOfCluster 1 ≠ s0.partOfCluster 0 := by
  and_intros
  all_goals first
    | decide +kernel
    | rfl

/-- A barrier line at 0x3000. -/
def sLine (gen arrived expect state : Nat) : State :=
  { s0 with mem := memWrite tables 0x3000 (natToBytes 2 expect ++ natToBytes 2 arrived ++ natToBytes 4 gen ++ natToBytes 1 state) }
theorem witness_barrierLines : sliceHomed 0x3000 = true ∧ (s0.slice (s0.lineHome 0x3000)).waiters = [] ∧
    (sLine 4 1 2 1).barrierLine 0x3000 = { gen := 4, arrived := 1, expect := 2, state := 1 } ∧
    (sLine 4 0 2 1).barrierLine 0x3000 = { gen := 4, arrived := 0, expect := 2, state := 1 } ∧ (s0.barrierLine 0x3000).state = 0 := by
  decide +kernel
theorem witness_barrierInstructions : ((s0.barrierCheck 0x3000).toOption = some 0x3000) ∧ lineTurn s0 0x3000 = .ok () ∧
    s0.w.bwait = none ∧ ((s0.takeLine 0x3000 0x3000 false).barrierLine 0x3000).state ≠ 1 ∧
    (((sLine 4 1 2 1).takeLine 0x3000 0x3000 false).barrierLine 0x3000).gen = (0x400000000 : DWord).toNat / 2 ^ 32 ∧
    (((sLine 4 1 2 1).takeLine 0x3000 0x3000 false).barrierLine 0x3000).gen ≠ (0x500000000 : DWord).toNat / 2 ^ 32 ∧
    ((sLine 4 1 2 1).barrierCheck 0x3000).toOption = some 0x3000 ∧ (∃ t, barrierDone { s0 with fresh := s0.fresh + 1 } (.s 5) 3 = .ok t) ∧
    (3 : DWord).toNat % 2 ^ 32 = 3 ∧
    ((s0.barrierCheck 0x3001).toOption.isSome = false) ∧ (∃ t, barrierDone s0 (.s 5) 0 = .ok t) := by
  and_intros
  all_goals first
    | decide +kernel
    | exact ⟨_, rfl⟩
    | rfl
theorem witness_barrierWoken : (sWave { wave0 with bwait := some { line := 0x3000, gen := 4, outcome := some (5, 1) } }).w.bwait =
    some { line := 0x3000, gen := 4, outcome := some (5, 1) } := by decide

def sMail (m : Mailbox) : State := { s0 with slices := [(8, { mboxes := [(2, m)] })] }
theorem witness_mailboxes : (0x208 : DWord).toNat % 128 = 8 ∧ (0x208 : DWord).toNat / 2 ^ 8 % 16 = 2 ∧
    s0.partOfSlice 8 = s0.partOfCluster s0.cur.1 ∧ waitPoint s0 .dev = .ok () ∧
    mget ((sMail { ctx := 1, packets := [List.replicate 256 7] }).slice 8).mboxes 2 = some { ctx := 1, packets := [List.replicate 256 7] } ∧
    (∃ v, readV s0 1 (fun l => decide (l < 60)) = .ok v) ∧ ∃ t, writeV (sMail { ctx := 1, packets := [] }) 5 (fun _ => some 0) = .ok t :=
  ⟨by decide, by decide, by decide +kernel, rfl, by decide +kernel, ⟨_, rfl⟩, _, rfl⟩
/-- A task queue of 256 entries in memory at 0x3000: header fields HEAD and TAIL. -/
def sTq (head tail : Nat) : State :=
  { s0 with mem := memWrite tables 0x3000 (natToBytes 8 (0x4000 + 8) ++ natToBytes 8 head ++ natToBytes 8 tail) }
theorem witness_taskQueues : (sTq 3 3).feature 5 = true ∧ ((sTq 3 3).tqHeader 0x3000).map TqHeader.count = some 0 ∧
    (sTq 3 3).tqChip 0x3000 = [] ∧ ((sTq 0 512).tqHeader 0x3000).map TqHeader.count = some 512 ∧ s0.tqHeader 0x3000 = none ∧
    ((sTq 3 3).tqPush 0x3000 (1, 2)).1 = 0 ∧ ((sTq 3 3).tqPop 0x3000).2.1 = none := by decide +kernel
/-- The same queue with n entries from HEAD on its chip. -/
def sTqChip (head tail n : Nat) : State :=
  let s := sTq head tail
  { s with slices := [(s.lineHome 0x3000, { tq := [(0x3000, (List.range n).map (fun i => (head + i, (1, 2))))] })] }
/-- Full; room on chip; a full chip and room in the ring; a full ring and room on chip. -/
theorem witness_taskQueues_push : (∀ q, q ∈ (sTq 0 512).tqHeader 0x3000 → ¬ q.count < 256 + 2 ^ q.log2n) ∧
    ((sTqChip 3 4 1).tqHeader 0x3000).map TqHeader.count = some 1 ∧ ((sTqChip 3 4 1).tqChip 0x3000).length = 1 ∧
    ((sTqChip 0 256 256).tqHeader 0x3000).map TqHeader.count = some 256 ∧ ((sTqChip 0 256 256).tqChip 0x3000).length = 256 ∧
    ((sTqChip 0 256 256).tqRing .write (0x4000 + 16 * 0)).toOption.any (fun x => x.1 == 0x4000) = true ∧ (sTqChip 0 256 256).noBarrier 0x4000 16 ∧
    ((sTqChip 0 257 1).tqHeader 0x3000).map TqHeader.count = some 257 ∧ ((sTqChip 0 257 1).tqChip 0x3000).length = 1 ∧
    (((sTqChip 0 257 1).tqHeader 0x3000).any (fun q => ((sTqChip 0 257 1).tqReadRing q 1).toOption.any (fun x =>
      ((x.2.setTqChip 0x3000 []).tqRing .write (q.entry q.tail)).toOption.any (fun y => y.1 % 16 == 0 && decide (0x3040 ≤ y.1)))) = true) ∧
    (sTqChip 3 4 1).pageLocked 0x3000 = false := by
  and_intros
  all_goals first
    | decide +kernel
    | (intro l h1 h2
       obtain rfl : l = 256 := by omega
       decide +kernel)
/-- The entry at the head on chip, and in the ring. -/
theorem witness_taskQueues_pop : mget ((sTqChip 3 4 1).tqChip 0x3000) 3 = some (1, 2) ∧ mget ((sTq 3 4).tqChip 0x3000) 3 = none ∧
    ((sTq 3 4).tqHeader 0x3000).any (fun q => q.count != 0 && ((sTq 3 4).tqReadRing q q.head).toOption.any (fun x => x.1 == (0, 0))) = true := by
  decide +kernel
theorem witness_tqpush : tqAt (sTq 3 3) 0x3000 = .ok 0x3000 ∧ lineTurn (sTq 3 3) 0x3000 = .ok () := by
  refine ⟨?_, rfl⟩
  have h : ((sTq 3 3).checkAccess 0 1 0x3000 64 .atomic none).toOption = some (0x3000, 0xD) := by decide +kernel
  have h2 : (sTq 3 3).checkAccess (sTq 3 3).cur.1 (sTq 3 3).w.ctx 0x3000 64 .atomic none = .ok (0x3000, 0xD) := by
    have e : (sTq 3 3).cur.1 = 0 ∧ (sTq 3 3).w.ctx = 1 := by decide +kernel
    rw [e.1, e.2]
    revert h
    cases (sTq 3 3).checkAccess 0 1 0x3000 64 .atomic none with
    | ok a => intro h; exact congrArg _ (Option.some.inj h)
    | error _ => intro h; cases h
  have h3 : (sTq 3 3).poisoned 0x3000 64 = false := by decide +kernel
  unfold tqAt
  rw [h2]
  simp [h3]

/-- A spill queue header at PA 0x50000 with HEAD and TAIL, and bin 2 of the entry 0x1800. -/
def bin0 : Bin := { ctx := 1, entryPc := 0x1800, recs := [[1, 2, 3, 4]], prio := 0, tmo := 1, launch := 1, bound := 16, timer := 64 }
def sSpill (head tail : Nat) : State :=
  let m := memWrite tables 0x50000 (natToBytes 8 (0xFF00000000060000 + 14) ++ natToBytes 8 head ++ natToBytes 8 tail)
  { s0 with
    mem := memWrite m 0x60000 ([5, 0, 0, 0] ++ List.replicate 12 0 ++ natToBytes 8 0x1800)
    ctxs := [(1, { ctx1 with spillQ := 0xFF00000000050000 })], clusters := [(0, { cluster0 with bins := [(2, bin0)] })] }
theorem witness_spawnRecords : (sSpill 0 0).feature 4 = true ∧ waitPoint (sSpill 0 0) .dev = .ok () ∧
    ((sSpill 0 0).spillHeader 0 1).toOption.map SpillHeader.count = some 0 ∧ ((sSpill 0 0).cluster 0).binFor 1 0x1800 = some 2 ∧
    mget ((sSpill 0 0).cluster 0).bins 2 = some bin0 ∧ (∃ v, readV (sSpill 0 0) 1 (0x7 : Mask).getLsbD = .ok v) ∧
    (placeLanes 0 1 1 8 (fun l => { words := [BitVec.ofNat 32 l], entryPc := 0x1800, prio := 0, tmo := 0 }) [0, 1, 2] [] none (sSpill 0 0)).2.1 = none := by
  and_intros
  all_goals first
    | decide +kernel
    | exact ⟨_, rfl⟩
    | rfl
theorem witness_launchAnswers : readS s0 (.s 1) = .ok (5, s0) ∧ waitPoint s0 .dev = .ok () ∧ counterRoom s0 Op.ld = .ok () ∧
    (s0.queue (s0.partOfCtx s0.w.ctx) 5).slots = 0 ∧ s0.w.kicking = false ∧
    (∃ t, writeS (s0.updW (fun w => { w with kicking := false, kickResult := none })) (.s 6) 3 = .ok t) :=
  ⟨rfl, rfl, rfl, by decide +kernel, by decide +kernel, _, rfl⟩
def sQueue (r : RingQueue) : State := { s0 with parts := [(0, { part0 with queues := [(5, r)] })] }
theorem witness_launchAnswers_queue : ((sQueue { halted := true }).queue 0 5).halted = true ∧ ((sQueue { slots := 4 }).queue 0 5).slots ≠ 0 ∧
    2 ^ 31 ≤ (7 % 2 ^ 32 + 2 ^ 32 - ((sQueue { slots := 4, next := 8 }).queue 0 5).next % 2 ^ 32) % 2 ^ 32 ∧
    (sWave { wave0 with kicking := true, kickResult := some 0 }).w.kickResult = some 0 := by decide +kernel
/-- A kick for the queue's next entry, one beyond the ring, one behind another, and one carried out for a wave that waits. -/
theorem witness_launchAnswers_kick : let r : RingQueue := { ring := 0x1000, slots := 4, next := 8 }
    let k : Kick := { seq := 8, rereads := 0, from? := some s0.tag, reading := true }
    let s := { sWave { wave0 with kicking := true } with parts := [(0, { part0 with queues := [(5, { r with kick := some k })] })] }
    (sQueue r).queue 0 5 = r ∧ r.halted = false ∧ r.slots ≠ 0 ∧ r.kick = none ∧ r.entryAddr + 64 ≤ 2 ^ 49 ∧
    (8 + 2 ^ 32 - r.next) % 2 ^ 32 < r.slots ∧ (13 + 2 ^ 32 - r.next) % 2 ^ 32 < 2 ^ 31 ∧ r.slots ≤ (13 + 2 ^ 32 - r.next) % 2 ^ 32 ∧
    (s.queue 0 5).kick = some k ∧ k.from? = some s0.tag ∧ (s.queue 0 5).pendingKicks = [] ∧ (s.residentOf s0.tag).any Wave.kicking = true ∧
    (waitPoint s .dev).toOption.isSome = true := by decide +kernel

/-- An LOD descriptor at 0x3000 of one level of one page at 0x10000, its map word at 0x3100 with the page present. -/
def sLod : State :=
  let m := memWrite (memWrite tables 0x3000 (natToBytes 8 0x10000 ++ natToBytes 8 0x3100 ++ natToBytes 8 (7 * 2 ^ 32 + 127 * 2 ^ 16 + 127) ++
    natToBytes 8 0)) 0x3100 [1]
  { s0 with mem := memWrite m 0x80020 (rangeEntry 0x8D 0x2000 0xFF000 0) }
def lodDesc0 : LodDesc := { data := 0x10000, tail := 0, nlm1 := 0, map := 0x3100, fb := false, resource := 7, h0m1 := 127, w0m1 := 127, ring := 0 }
theorem witness_lodLoads : sLod.feature 3 = true ∧ (lodDescriptor sLod 0x3000 0x7).toOption.map (fun x => x.2.1) = some lodDesc0 ∧
    (∀ l, l < 3 → ((sLod.accessOf (mapAccess l)).lodLookup 0 1 lodDesc0 0 0 0).result.toOption = some (0, 0, 0)) ∧
    ((sLod.accessOf (mapAccess 0)).lodLookup 0 1 lodDesc0 0 0 0).words.map Prod.fst = [0x3100] ∧ (accessTurn sLod 0x3100 8 false).toOption.isSome = true ∧
    (targetV sLod 5 (0x7 : Mask).getLsbD).toOption.isSome = true ∧
    ((sLod.accessOf 0).lodRead 0 1 (lodDesc0.elemAddr 0 0 0)).toOption.isSome = true ∧ (0x7 : Mask) ≠ 0 := by decide +kernel
theorem witness_lodFences : s0.feature 3 = true ∧ waitPoint s0 .dev = .ok () ∧ s0.lodBusy s0.w.ctx 7 = false :=
  ⟨by decide +kernel, rfl, by decide +kernel⟩

def tile0 : Tile := { size := 2, base := 1, owner := 0, ctx := 1, cslot := 0, pend := 0, state := .ready }
def sTile (t : Tile) : State := { s0 with clusters := [(0, { cluster0 with tiles := [(3, t)] })] }
theorem witness_tileAllocation : s0.wg.vaultN = 8 ∧ (0x7000 + 1 * 4096) ≤ s0.wg.vaultN * 4096 ∧ s0.wg.vaultN * 4096 < 0x7000 + 2 * 4096 ∧
    mget (s0.cluster 0).tiles 0 = none ∧ ((s0.cluster 0).reservedTiles 1).contains 0 = false ∧
    mget ((sTile tile0).cluster 0).tiles 3 = some tile0 ∧ (257 : Nat) > 256 := by decide +kernel
/-- No tile number is free: 256 entries in use. -/
theorem witness_tileAllocation_none : let s := { s0 with clusters := [(0, { cluster0 with tiles := (List.range 256).map (fun n => (n, tile0)) })] }
    (∀ j, j < 256 → (mget (s.cluster 0).tiles j).isSome = true) ∧ s.wg.vaultN = 8 := by decide +kernel
theorem witness_tileMoves : tileNeed (sTile tile0) 3 = .ok tile0 ∧ jobRoom (sTile tile0) = .ok () ∧ (128 : DWord).toNat % 64 = 0 ∧
    (0x1F80 : Word).toNat + (128 : DWord).toNat ≤ tile0.size * 4096 := ⟨rfl, rfl, by decide, by decide⟩

/-- The fields of a record of two rows of sixteen words, unmarked. -/
def shapeBytes : List Byte := natToBytes 8 (1 * 2 ^ 32 + 15 * 2 ^ 16 + 2 * 2 ^ 9) ++ natToBytes 8 64 ++ natToBytes 8 64 ++ natToBytes 40 0
def sShape : State := { s0 with mem := memWrite tables 0x3000 (natToBytes 1 1 ++ shapeBytes.drop 1) }
theorem witness_shapeRecords : (s0.checkAccess 0 1 0x3000 64 .write none).toOption.isSome = true ∧ sliceHomed 0x3000 = true ∧
    shapeStatus shapeBytes = 0 ∧ shapeStatus (natToBytes 8 2) ≠ 0 := by decide +kernel
theorem witness_copiesIssue : (shapeRead sShape 0x3000 false).toOption.map (fun x => x.1.valid) = some true ∧
    tileNeed? s0 none = .ok none ∧ tileNeed? (sTile tile0) (some 3) = .ok (some tile0) ∧ inTile (some tile0) 0x1F80 (0, 128) = true ∧
    inTile (some tile0) 0x1F80 (0, 129) = false ∧ jobRoom sShape = .ok () ∧
    sShape.strayColumn (sShape.partOfCtx sShape.w.ctx) 1 = false ∧ (∃ v, readV s0 1 (fun l => decide (l < 16)) = .ok v) :=
  ⟨by decide +kernel, rfl, rfl, by decide, by decide, rfl, by decide +kernel, _, rfl⟩
/-- A texture level as an XCOPY source: the descriptor is read as the copy issues. -/
theorem witness_copiesIssue_lod : (lodCopyDesc sLod 0x3000
    { valid := true, lod := true, level := 0, x0 := 0, y0 := 0, statusA := 0x7000, e := { esz := 4, n0 := 1, n1 := 1, n2 := 1, s1 := 0, s2 := 0, d1 := 0, d2 := 0 } }).toOption.map
      (fun x => x.2.1) = some lodDesc0 := by decide +kernel
theorem witness_jobsStart : let j := { newJob s0 (.line 0x2000 0 1 true) 0 none 1 with fill := some 3 }
    j.isPlane = false ∧ j.readOut = none ∧ (∀ n, j.fill = some n → j.readOut ≠ some n) ∧ j.pos = 0 ∧ mget ((sTile tile0).cluster 0).tiles 3 = some tile0 :=
  ⟨rfl, rfl, (fun _ _ h => by cases h), rfl, by decide +kernel⟩

/-! ### Matrix, plane and traversal -/

def mill0 : Mill :=
  { ctx := 1, wgslot := 0, weights := [], scales := [], fmtByte := 3, kbm1 := 0, banks := [], flags0 := 0, flags1 := 0 }
def sMill (m : Option Mill) : State := { s0 with clusters := [(0, { cluster0 with mill := m })] }
theorem witness_gang : s0.feature 1 = true ∧ readS s0 .zs = .ok (0, s0) ∧
    (let s := { s0 with clusters := [(0, { cluster0 with wgs := [(0, { wg0 with rows := [0, 4] })] })] }
     (3 : Nat).testBit s.w.wnum = true ∧ ((List.range 16).filter (fun n => (3 : Nat).testBit n)).length = 2 ∧ s.wg.rows.length = 2) :=
  ⟨by decide +kernel, rfl, by decide +kernel⟩
/-- The array is the workgroup's, another's, or nobody's. -/
theorem witness_mstat : (sMill (some mill0)).myMill 0 1 0 = some mill0 ∧ s0.myMill 0 1 0 = none ∧ s0.savedMill 0 1 0 = none ∧
    (s0.cluster 0).mill = none ∧ (sMill (some { mill0 with wgslot := 3 })).myMill 0 1 0 = none ∧
    (sMill (some { mill0 with wgslot := 3 })).savedMill 0 1 0 = none ∧
    ((sMill (some { mill0 with wgslot := 3 })).cluster 0).mill = some { mill0 with wgslot := 3 } ∧
    (∃ t, writeS s0 (.s 5) 0 = .ok t) := by
  and_intros
  all_goals first
    | decide +kernel
    | exact ⟨_, rfl⟩
theorem witness_mstat_saved : { s0 with ctxs := [(1, { ctx1 with mills := [(0, mill0)] })] }.savedMill 0 1 0 = some mill0 := by decide +kernel
theorem witness_mdrain : (drainBase s0 false 0 0x3000 1024 4 (256 * efSize .f32)).toOption = some 0x3000 ∧ jobRoom s0 = .ok () ∧
    (sMill (some mill0)).w.gang = 0 ∧ ((sMill (some mill0)).cluster 0).latch = [] ∧
    (∀ e, e ∈ ((sMill (some mill0)).cluster 0).waves → e.2.arrived = none) := by
  and_intros
  all_goals first
    | decide +kernel
    | rfl
/-- A gang of waves 0 and 1; wave 1, in row 4, has not arrived. -/
def sGang : State :=
  { s0 with clusters := [(0, { cluster0 with
      waves := [(0, { wave0 with gang := 3 }), (4, { wave0 with gang := 3, wnum := 1 })], wgs := [(0, { wg0 with rows := [0, 4] })] })] }
theorem witness_mdrain_gang : sGang.w.gang ≠ 0 ∧ sGang.w.gang.getLsbD 1 = true ∧ (1 : Nat) ≠ sGang.w.wnum ∧ sGang.wg.rows[1]? = some 4 ∧
    sGang.wg.exited.contains 1 = false ∧ (sGang.waveAt? 0 4).map Wave.arrived = some none := by decide +kernel
theorem witness_matrixArrays : (formatOn (sMill (some mill0)) { code := 3, x := false, u := false } (.nop h0)).toOption.isSome = true ∧
    (sMill (some mill0)).pastLatch.quietOperands ∧ (sMill (some mill0)).w.rows = 0 ∧
    (operandBase s0 false 0 0x3000 0 24 (fmtBytes { code := 3, x := false, u := false } 256)).toOption = some 0x3000 ∧
    (match (sMill (some mill0)).pastLatch.operand 0x3000 (fmtBytes { code := 3, x := false, u := false } 256) with
      | .ok runs => (readRuns ((sMill (some mill0)).pastLatch.charge (lineUses runs)) runs).toOption.any (fun x =>
          match x.1 with
          | .ok bs => bs.length == fmtBytes { code := 3, x := false, u := false } 256
          | .error _ => false)
      | .error _ => false) = true :=
  ⟨by decide +kernel, ⟨by decide +kernel, by decide +kernel, by decide +kernel, fun _ => rfl⟩, by decide, by decide +kernel, by decide +kernel⟩
theorem witness_blockValues : blockTerm (0 == 0 || 1 == 0) (.inf false) (.fin false 1 0) = .nan ∧
    Term.inf false ∈ (([FVal.inf false].zip [FVal.fin false 1 0]).map (fun p => blockTerm false p.1 p.2)) ∧
    blockTerm false (.fin false 1 0) (.fin false 1 0) = .fine ∧ (FVal.fin true 0 0).isZero = true := by decide

theorem witness_plane : s0.feature 0 = true ∧ (sPlane plane0).myPlane = some plane0 ∧ planeFree (sPlane plane0) = .ok () ∧ s0.myPlane = none ∧
    (∃ r, planeRule (.padd h0 0 1 0 0) = some r) ∧ (plane0.runs (BitVec.allOnes 128) 4095 = true) ∧ plane0.stack = [] := by
  and_intros
  all_goals first
    | decide +kernel
    | exact ⟨_, rfl⟩
    | rfl
/-- The plane is another's: a higher sector has taken it in this cycle, or a wave of another row has begun its steps. -/
theorem witness_planeTaken :
    (let s := { s0 with clusters := [(0, { cluster0 with plane := some plane0, planeTurn := some { time := 0, sector := 1, begun := none } })] }
     s.myPlane.isSome = true ∧ (s.cluster s.cur.1).planeTurn = some { time := s.now, sector := 1, begun := none } ∧ s.cur.2 / 16 < 1) ∧
    (let w := { wave0 with paid := 2 }
     let s := { s0 with clusters := [(0, { cluster0 with
       waves := [(0, wave0), (4, w)], plane := some plane0, planeTurn := some { time := 9, sector := 0, begun := some 4 } })] }
     s.myPlane.isSome = true ∧ (4 : Nat) ≠ s.cur.2 ∧ s.waveAt? s.cur.1 4 = some w ∧ w.paid ≠ 0) := by decide +kernel
theorem witness_plane_full : ({ plane0 with stack := List.replicate 8 (0, 0) } : Plane).stack.length = 8 ∧
    ({ plane0 with stack := List.replicate 7 (0, 0) } : Plane).stack.length < 8 := by decide
/-- A tile of one cell's plane, in the vault that VA 0x200000 maps to. -/
def sPlaneTile : State :=
  { s0 with
    ctxs := [(1, { ctx1 with vaultVa := 0x200000 })]
    clusters := [(0, { cluster0 with plane := some { plane0 with wm1 := 0, hm1 := 0 }, tiles := [(3, tile0)] })] }
theorem witness_planeTransfers : (planeRect sPlaneTile { plane0 with wm1 := 0, hm1 := 0 } 3 0 64 .f32).toOption = some (0x201000, 64) ∧
    jobPlace sPlaneTile = .ok () ∧ planeFree sPlaneTile = .ok () ∧ sPlaneTile.wgEntry 0 1 0 .plane = none ∧
    (sPlaneTile.cluster 0).plane = some { plane0 with wm1 := 0, hm1 := 0 } ∧ plane0.ctx = s0.tag.ctx ∧ plane0.wgslot = s0.tag.wgslot :=
  ⟨by decide +kernel, rfl, rfl, by decide +kernel, by decide +kernel, by decide, by decide⟩
/-- A bin buffer at 0x3000 of one tile and one entry, with a count. -/
def sBin (count : Nat) : State :=
  let hdr := natToBytes 8 0x5000 ++ natToBytes 8 0x4000 ++ natToBytes 8 (2 ^ 32 + 2 ^ 16 + 1)
  { sPlane plane0 with mem := memWrite (memWrite tables 0x3000 hdr) 0x4000 (natToBytes 4 count) }
def binHeader0 : BinHeader := { bins := 0x5000, cnt := 0x4000, cap := 1, th := 1, tw := 1, fails := 0, seq := 0 }
theorem witness_binapp : binHeaderOf (memRead (sBin 0).mem 0x3000 64) = some binHeader0 ∧
    (sBin 0).rangeFault 0 1 (pagesOf binHeader0.cntBytes) 0x4000 binHeader0.cntBytes = none ∧
    (sBin 0).rangeFault 0 1 (pagesOf binHeader0.binBytes) 0x5000 binHeader0.binBytes = none ∧
    ((sBin 0).checkAccess 0 1 0x3000 64 .atomic none).toOption.isSome = true ∧ (sBin 0).owed = [] ∧
    (accessTurn (sBin 0) 0x3000 64 true).toOption.isSome = true ∧
    ((sBin 0).binRead (sBin 0).tag 0x4000 4).toOption.map Prod.fst = some 0 ∧
    ((sBin 1).binRead (sBin 1).tag 0x4000 4).toOption.map Prod.fst = some 1 ∧
    ((sBin 0).binWrite (sBin 0).tag 0x5000 8 7).toOption.isSome = true := by decide +kernel

def sRay : State := { s0 with clusters := [(0, { cluster0 with rayStacks := [(5, { ctx := 1, wgslot := 0, chip := [9] })] })] }
theorem witness_traversal : s0.feature 2 = true ∧ (∃ x, readVW s0 true 0 (0x7 : Mask).getLsbD = .ok x) ∧ targetV s0 20 (0x7 : Mask).getLsbD = .ok () ∧
    (afterAll s0 (s0.orderAfter false)).toOption.isSome = true ∧ (0x200 : Nat) % 128 = 0 ∧
    (0x208 : Nat) % 16 ≠ 0 ∧ (f32val 0x7FC00000).isNaN = true ∧ (FVal.inf false).isFin = false :=
  ⟨by decide +kernel, ⟨_, rfl⟩, rfl, by decide +kernel, by decide, by decide, by decide, by decide⟩
theorem witness_rayStacks : sRay.stackOf ({ valid := true, spill := 0, chip := 1, stack := 5 } : RayHandle).word =
      some ({ valid := true, spill := 0, chip := 1, stack := 5 }, { ctx := 1, wgslot := 0, chip := [9] }) ∧ s0.stackOf 0 = none ∧
    ((sRay.stackOf ({ valid := true, spill := 28, chip := 64, stack := 5 } : RayHandle).word).map (fun x => 512 ≤ x.1.depth)) = some True ∧
    (∃ hs, readV sRay 1 (0x7 : Mask).getLsbD = .ok hs) := ⟨by decide +kernel, by decide +kernel, by
      have h : (sRay.stackOf ({ valid := true, spill := 28, chip := 64, stack := 5 } : RayHandle).word).map (fun x => x.1.depth) = some 512 := by
        decide +kernel
      revert h
      cases sRay.stackOf ({ valid := true, spill := 28, chip := 64, stack := 5 } : RayHandle).word with
      | none => intro h; cases h
      | some x => intro h; simp at h; simp [h], _, rfl⟩
theorem witness_rstart : (claimStacks (s0.cluster 0) (fun _ => none) [0, 1, 2] []).isSome = true ∧ s0.traversals = [] ∧ s0.w.held = [] := by
  decide +kernel
theorem test_rpush_rpop : (match pushLane sRay ({ valid := true, spill := 0, chip := 1, stack := 5 } : RayHandle).word 7 with
    | .ok ((w, bad), t) => !bad && (match popLane t w with
      | .ok ((_, x), _) => x == 7
      | .error _ => false)
    | .error _ => false) = true := by decide +kernel
/-- A stack whose 64 entries on chip are full and whose spill area is at an address that no entry maps: the push fails. -/
theorem witness_rayStacks_fail :
    let full : RayStack := { ctx := 1, wgslot := 0, chip := List.replicate 64 9 }
    let s := { s0 with ctxs := [(1, { ctx1 with bsBase := 0x500000 })], clusters := [(0, { cluster0 with rayStacks := [(5, full)] })] }
    let w := ({ valid := true, spill := 0, chip := 64, stack := 5 } : RayHandle).word
    (stackLanes (fun s _ => pushLane s w 7) s [1, 2]).2.1.map Prod.fst = [1, 2] ∧
      (stackLanes (fun s l => pushLane s (if l == 1 then 0 else w) 7) s [1, 2]).2.1.map Prod.fst = [2] := by decide +kernel

theorem test_pflags_waitsLoad :
    let j : Job := { kind := .planeLoad [(0, 0)] .f32, code := 5, tags := [s0.tag], iaddr := 0, sem := none, total := 1, pieces := [(0, 1)] }
    let s := { sPlane plane0 with jobs := [(1, j)] }
    (nextOf (exec (.csrw h0 .pflags (.s 2)) s)).w.pc = s.w.pc ∧ (nextOf (exec (.csrw h0 .pflags (.s 2)) (sPlane plane0))).w.pc ≠ s.w.pc := by
  decide +kernel

theorem witness_systemRegisters : (sPlane plane0).myPlane = some plane0 ∧ (∃ t, writeS s0 (.s 5) (s0.readCsr .ctx) = .ok t) ∧
    (8 : Nat) ≠ 0x100 ∧ (let s := sWave { wave0 with ctx := 0 }; s.w.ctx = 0) ∧ waitPoint s0 .sys = .ok () ∧ s0.w.ctx ≠ 0 :=
  ⟨by decide +kernel, ⟨_, rfl⟩, by decide, by decide, rfl, by decide⟩

/-! ### The device and its host -/

def image0 : FirmwareImage := { digest := 0, secVersion := 1, verified := true }
def conf0 : PartConfig := { cols := [0, 1], share := none, granules := [] }
def config0 : BoardConfig := { digest := 0, verified := true, parts := [conf0], retired := [3], masks := [] }
def dev0 : Device := { main := .off, current := some image0, previous := some image0, storedRetired := [9] }

theorem witness_power : State.reset.dev.main ≠ .up ∧ config0.verified = true ∧ State.reset.dev.bootImage = none ∧
    dev0.main ≠ .up ∧ dev0.bootImage = some image0 ∧ config0.parts[0]? = some conf0 ∧ config0.parts[1]? = none ∧
    ({ dev0 with fused := 2 } : Device).bootImage = none ∧
    ({ dev0 with current := some { image0 with verified := false } } : Device).bootImage = some image0 ∧
    s0.dev.main = .up ∧ s0.parts ≠ [] ∧ mget s0.parts 0 = some part0 := by decide +kernel

theorem witness_parts : s0.partOfCluster 0 = some 0 ∧ (s0.cluster 0).retired = false ∧ s0.partOfSlice 0 = some 0 ∧
    (s0.slice 0).failed = false ∧ (s0.slice 0).waiters = [] ∧ s0.partOfCol (siteCol 0) = some 0 ∧
    s0.dev.linkDown.contains 0 = false ∧ mgetD s0.dev.linkSpares 0 0 < 2 ∧
    (let d : Device := { main := .up, linkSpares := [(0, 2)] }
     d.linkDown.contains 0 = false ∧ 2 ≤ mgetD d.linkSpares 0 0) ∧ s0.dev.cxlDown.contains 0 = false ∧
    mget ({ s0 with slices := [(0, { lines := [(5, { dirty := true })] })] }.slice 0).lines 5 = some { dirty := true } ∧
    s0.portOfLine 5 = none ∧ ({ s0 with dev := { main := .up, cxlCounts := [1, 0, 0, 0, 0, 0] } } : State).portOfLine (cxlBase / 64) = some 0 ∧ mget s0.parts 0 = some part0 ∧
    (let s : State := { s0 with clusters := [] }
     mget s.ctxs 1 = some ctx1 ∧ ctx1.life ≠ .destroying ∧ s.ctxBusy 1 = false) := by
  decide +kernel

/-- A launch queue of sixteen slots, and one whose kick has come to its first entry. -/
def queue0 : RingQueue := { ring := 0x1000, slots := 16, next := 2 }
def kick0 : Kick := { seq := 2, rereads := 0, from? := none, reading := true }
def sRing (q : Nat) (r : RingQueue) : State := s0.setQueue 0 q r
/-- A launch packet of context 1 with its placement map at 0x3000: one workgroup of one wave in row 0 of cluster 0. -/
def packetBytes : List Byte :=
  natToBytes 8 (2 ^ 32) ++ natToBytes 8 0x1000 ++ natToBytes 8 0x3000 ++ natToBytes 8 0 ++ natToBytes 32 7
def sMap : State :=
  { s0 with mem := memWrite (memWrite tables 0x3000 (natToBytes 8 0 ++ natToBytes 8 0 ++ natToBytes 48 0)) 0x3040 (natToBytes 64 0) }
def launch0 : Launch :=
  { part := 0, queue := 0, seq := 0, ctx := 1, prio := 0, kernel := 0x1000, args := [7], hdr :=
      { gx := 1, gy := 1, gz := 1, waves := 1, spRegs := 8, regs := 8, plane := false, vaultG := 0, tmo := 0, qdepth := [0, 0, 0, 0, 0, 0, 0, 0], profile := 0 }
    entries := [{ cl := 0, waves := [(0, 0)] }], done := 0, link := 0, left := 0, profiling := [] }

theorem witness_queues : (sRing 0 queue0).queueReady 0 = true ∧ reachesPart 0 (.virtualFunction 0) = true ∧ reachesQueue .firmware deviceQueue = true ∧
    reachesPart 1 (.virtualFunction 0) = false ∧ (sRing 0 queue0).queue 0 0 = queue0 ∧ queue0.halted = false ∧ queue0.slots ≠ 0 ∧ queue0.kick = none ∧
    (sRing 3 { queue0 with halted := true }).queueReady 0 = true ∧
    (let gap (seq : Nat) := (seq % 2 ^ 32 + 2 ^ 32 - queue0.next % 2 ^ 32) % 2 ^ 32
     2 ^ 31 ≤ gap 1 ∧ gap 18 < 2 ^ 31 ∧ queue0.slots ≤ gap 18 ∧ gap 17 < queue0.slots) ∧
    ((sRing 3 { queue0 with halted := true }).queue 0 3).halted = true ∧ reachesQueue (.virtualFunction 0) 0 = true ∧
    (sRing 0 { queue0 with kick := some { kick0 with reading := false } }).queue 0 0 =
      { queue0 with kick := some { kick0 with reading := false } } := by decide +kernel
theorem witness_registers : (∀ cl, (({ s0 with clusters := [] } : State).cluster cl).unposted = []) ∧
    (mget ({ s0 with clusters := [] } : State).parts 0).isSome ∧
    reachesDevice .physicalFunction = true ∧ ((sWave { wave0 with halted := true }).cluster 0).hsel = 0 ∧
    (sWave { wave0 with halted := true }).waveAt? 0 0 = some { wave0 with halted := true } ∧ wave0.draining = false ∧
    wave0.held = [] ∧ wave0.arrived = none ∧ (mget s0.parts 0).isSome := by
  and_intros
  all_goals first
    | exact fun _ => rfl
    | decide +kernel
/-- A ring entry at the top of the host's bus addresses, and one past it. -/
theorem witness_queues_limit : queue0.entryAddr + 64 ≤ 2 ^ 49 ∧ ({ queue0 with ring := 2 ^ 49 - 192 } : RingQueue).entryAddr + 64 = 2 ^ 49 ∧
    2 ^ 49 < ({ queue0 with ring := 2 ^ 49 - 128 } : RingQueue).entryAddr + 64 ∧ ({ kick0 with reading := false } : Kick).due ≤ s0.now := by
  decide +kernel
theorem witness_registers_unreached : (regPlace (clusterBlock 0 + 0x108)).reachedBy (.virtualFunction 0) = false ∧
    (regPlace (partBlock 1 + 0x1008)).reachedBy (.virtualFunction 0) = false := by decide +kernel
theorem witness_dispatch : let r := { queue0 with held := [{ bytes := packetBytes, from? := none }] }
    let s := sMap.setQueue 0 0 r
    s.queue 0 0 = r ∧ r.halted = false ∧ s.admits 0 = true ∧ ∃ p h es, launchPacket packetBytes = some p ∧ p.barrier = false ∧
      (s.setQueue 0 0 { r with held := [] }).packetStatus 0 none packetBytes = none ∧
      s.thingHeld (.map 0 0) = false ∧ (match (s.setQueue 0 0 { r with held := [] }).readMap r.mapGot p.ctx p.pmap with
        | .ok h' es' _ => decide ((h', es') = (h, es))
        | _ => false) = true := by
  and_intros
  all_goals first
    | decide +kernel
    | exact ⟨_, launch0.hdr, launch0.entries, rfl, by decide +kernel, by decide +kernel, by decide +kernel, by decide +kernel⟩
theorem witness_completion : (mget ({ s0 with launches := [(0, launch0)] } : State).launches 0 = some launch0) ∧ launch0.left = 0 ∧
    launch0.profiling = [] ∧ s0.accesses = [] ∧ s0.peerReqs = [] := by decide +kernel

/-! Commands -/

/-- A command of partition 0, and the state at which it is due. -/
def cmd0 (op a b c : Nat) : Command :=
  { seq := 0, op := op, a := a, b := b, c := c, done := 0, malformed := false, result := none, waitingFor := [] }
def sCmd (s : State) (c : Command) : State := s.setQueue 0 commandQueue { cmd := some c }
/-- A record of a context: weight 1, and every area at an address of its own. -/
def record0 : List Byte :=
  natToBytes 8 0 ++ natToBytes 8 0x80000 ++ natToBytes 8 0x100 ++ natToBytes 8 0 ++ natToBytes 8 0xFF00000000000000 ++
    natToBytes 8 0xFF00000100000000 ++ natToBytes 8 0xFF00000200000000 ++ natToBytes 8 0xFF00000500000000 ++ natToBytes 8 0xFF00000600000000 ++
    natToBytes 8 0xFF00000300000000 ++ natToBytes 8 0xFF00000400000000 ++ natToBytes 8 0 ++ natToBytes 32 0 ++
    natToBytes 8 0x00010000 ++ natToBytes 8 128 ++ natToBytes 8 256 ++ natToBytes 8 0x08104040 ++ natToBytes 8 0x0000001801000120 ++
    natToBytes 8 0x1FFE ++ natToBytes 8 0x01000000 ++ natToBytes 8 0x3F ++ natToBytes 320 0

/-- What a command of partition 0 asks holds where it is due. -/
def dueWith (s : State) (c : Command) (cond : State → Bool) : Prop := (sCmd s c).commandDue 0 c.op c 0 ∧ cond (sCmd s c) = true
theorem dueWith_of {s : State} {c : Command} {cond : State → Bool}
    (h : ((sCmd s c).cmdDue 0 c.op = some c ∧ c.part 0 = 0 ∧ (mget (sCmd s c).parts 0).isSome = true) ∧ cond (sCmd s c) = true) :
    dueWith s c cond := h
theorem witness_ctxCreate :
    dueWith s0 (cmd0 opCtxCreate 2 (2 ^ 49 - 512) 0) (fun s => decide (record0.length = 512) && recordOk (s.clustersOf 0).length record0 &&
      !s.ctxElsewhere 0 2 && (mget s.ctxs 2).isNone) ∧
    dueWith s0 (cmd0 opCtxCreate 2 (2 ^ 49 - 511) 0) (fun _ => decide (2 ^ 49 < (2 ^ 49 - 511 : Nat) + 512)) ∧
    dueWith s0 (cmd0 opCtxCreate 1 0 0) (fun s => recordOk (s.clustersOf 0).length record0 && !s.ctxElsewhere 0 1 && (mget s.ctxs 1).isSome) ∧
    dueWith s0 (cmd0 opCtxCreate 0 0 0) (fun s => recordOk (s.clustersOf 0).length record0 && s.ctxElsewhere 0 0) ∧
    dueWith s0 (cmd0 opCtxCreate 2 0 0) (fun s => decide ((natToBytes 512 1).length = 512) && !recordOk (s.clustersOf 0).length (natToBytes 512 1)) := by
  refine ⟨?_, ?_, ?_, ?_, ?_⟩
  all_goals exact dueWith_of (by decide +kernel)
/-- Context 1 with nothing resident. -/
def sIdle : State := { s0 with clusters := [], cur := (0, 0) }
theorem witness_ctxDestroy :
    dueWith s0 (cmd0 opCtxDestroy 2 0 0) (fun s => !s.ctxElsewhere 0 2 && (mget s.ctxs 2).isNone) ∧
    dueWith { s0 with ctxs := [(1, { ctx1 with life := .destroying })] } (cmd0 opCtxDestroy 1 0 0)
      (fun s => !s.ctxElsewhere 0 1 && (mget s.ctxs 1).any (fun x => x.life == .destroying)) ∧
    dueWith sIdle (cmd0 opCtxDestroy 1 0 0) (fun s => !s.ctxElsewhere 0 1 && decide (mget s.ctxs 1 = some ctx1 ∧ ctx1.life ≠ .destroying)) ∧
    (let s := sCmd sIdle (cmd0 opCtxDestroy 1 0 0)
     ∀ cl, cl ∈ s.clustersOf 0 → (s.cluster cl).hosts 1 = false ∧ (s.cluster cl).startQ = [] ∧ ∀ e, e ∈ (s.cluster cl).slots → e.2.ctx ≠ 1) :=
  ⟨dueWith_of (by decide +kernel), dueWith_of (by decide +kernel), dueWith_of (by decide +kernel),
    fun _ _ => ⟨rfl, rfl, fun _ h => by cases h⟩⟩
theorem witness_commandDone :
    let c := { cmd0 opCtxDestroy 1 0 0 with waitingFor := [1] }
    ((sCmd sIdle c).queue 0 commandQueue).cmd = some c ∧ c.result = none ∧ (sCmd sIdle c).ctxBusy 1 = false := by decide +kernel
theorem witness_commandCompletion :
    let c := { cmd0 opCtxDestroy 1 0 0 with result := some 0 }
    let r : RingQueue := { cmd := some c, kick := some kick0, slots := 16, next := 2 }
    r.pendingKicks = [] ∧ 2 ^ 31 ≤ kickGap 2 3 ∧ kickGap 3 3 < 2 ^ 31 ∧ (s0.setQueue 0 commandQueue r).queue 0 commandQueue = r := by
  decide +kernel

theorem witness_copies :
    dueWith s0 (cmd0 opCopyIn 0 0x3000 64) (fun s => s.spanOwned 0 0x3000 64) ∧
    dueWith s0 (cmd0 opCopyIn 0 (2 ^ 43) 64) (fun s => !s.spanOwned 0 (2 ^ 43) 64) ∧
    dueWith s0 (cmd0 opCopyIn (2 ^ 49 - 63) 0x3000 64) (fun s => s.spanOwned 0 0x3000 64 && decide (2 ^ 49 < (2 ^ 49 - 63 : Nat) + 64)) ∧
    dueWith s0 (cmd0 opCopyOut 0x3000 (2 ^ 49 - 63) 64) (fun s => s.spanOwned 0 0x3000 64 && decide (2 ^ 49 < (2 ^ 49 - 63 : Nat) + 64)) ∧
    dueWith s0 (cmd0 opCopyOut 0x3000 0 64) (fun s => s.spanOwned 0 0x3000 64 && !s.poisoned 0x3000 64) ∧
    dueWith s0 (cmd0 opCopyOut (2 ^ 43) 0 64) (fun s => !s.spanOwned 0 (2 ^ 43) 64) ∧
    (sCmd s0 (cmd0 opCopyIn 0 0x3000 64)).noBarrier 0x3000 64 := by
  refine ⟨?_, ?_, ?_, ?_, ?_, ?_, ?_⟩
  all_goals first
    | exact dueWith_of (by decide +kernel)
    | decide +kernel
    | exact fun _ _ _ => rfl
def shootdown0 : Shootdown := { queue := 0, ctx := 1, lo := 0x2000, hi := 0x3000, ranges := true, pages := false, acks := [0], waits := [] }
theorem witness_shootdown :
    dueWith s0 (cmd0 opShootdown 1 0x2000 1) (fun s => s.ctxIn 0 (1 % 4096)) ∧ dueWith s0 (cmd0 opShootdown 2 0x2000 0) (fun s => !s.ctxIn 0 2) ∧
    (let s : State := { sCmd s0 (cmd0 opShootdown 1 0x2000 1) with shootdowns := [(6, shootdown0)], subj := { a := 6, b := 0 } }
     mget s.shootdowns 6 = some shootdown0 ∧ shootdown0.acks.contains 0 = true ∧ mget shootdown0.waits 0 = none ∧
       s.underWay 0 shootdown0 = [] ∧ s.engineOut 0 s.nextId shootdown0 = false ∧ ∀ x, x ∈ shootdown0.acks → x = 0) ∧
    (∃ x, x ∈ ({ shootdown0 with acks := [0, 1] } : Shootdown).acks ∧ x ≠ 0) :=
  ⟨dueWith_of (by decide +kernel), dueWith_of (by decide +kernel), by decide +kernel, ⟨1, by decide⟩⟩
/-- A fault log of context 1 at 0x3000: sixteen records at 0x4000 of the memory it maps to, two written, the first delivered and the other not. -/
def sLog (delivered : Bool) : State :=
  { s0 with
    ctxs := [(1, { ctx1 with flog := 0xFF00000000003000 })]
    mem := memWrite (memWrite tables 0x3000 (natToBytes 8 (0xFF00000000004000 + 4) ++ natToBytes 8 2)) (0x4000 + 40)
      (natToBytes 8 (if delivered then 2 ^ 63 else 0)) }
/-- Freeing n records is due; the worst of their results. -/
def logDue (s : State) (n worst : Nat) : Bool :=
  let u : State := { s with old := [] }
  s.ctxIn 0 1 && (match u.readLog 0 1 with
    | .ok h => (if (h.write + 2 ^ 32 - h.free) % 2 ^ 32 < n then worst == 1 else u.logResult 1 h n h.free 0 == worst) &&
        ((u.charge (u.logUses 1 h h.free n)).hwWrite 0 1 ((s.ctxOf 1).flog + 16) (natToBytes 4 n)).toOption.isSome
    | .error _ => false)
theorem witness_logFree : dueWith (sLog true) (cmd0 opLogFree 1 1 0) (fun s => logDue s 1 0) ∧
    dueWith (sLog false) (cmd0 opLogFree 1 1 0) (fun s => logDue s 1 3) ∧ dueWith (sLog true) (cmd0 opLogFree 1 3 0) (fun s => logDue s 3 1) :=
  ⟨dueWith_of (by decide +kernel), dueWith_of (by decide +kernel), dueWith_of (by decide +kernel)⟩
def away0 (m : AwayMode) : Away :=
  { mode := m, wg := { wg0 with vaultN := 0, plane := false, queues := [] }, waves := [(0, wave0)], plane := none, tileNums := []
    rayStacks := [], wake := [], order := 0, broken := false, merging := false }
def sAway (m : AwayMode) : State := { s0 with clusters := [(0, { away := [(awayKey 1 0, away0 m)] })] }
theorem witness_mboxCommand :
    dueWith (sMail { ctx := 1, packets := [] }) (cmd0 opMbox 0x208 1 0) (fun s => s.partOfSlice (0x208 % 128) == some 0 && s.ctxIn 0 1 &&
      mget (s.slice 8).mboxes (bits 0x208 11 8) == some { ctx := 1, packets := [] }) ∧
    dueWith s0 (cmd0 opMbox 1 1 0) (fun s => s.partOfSlice 1 ≠ some 0) ∧ dueWith s0 (cmd0 opMbox 8 2 0) (fun s => !s.ctxIn 0 2) ∧
    dueWith s0 (cmd0 opMbox 8 0xFFFF 0) (fun s => s.partOfSlice 8 == some 0) ∧ dueWith s0 (cmd0 opMbox 1 0xFFFF 0) (fun s => s.partOfSlice 1 ≠ some 0) := by
  refine ⟨?_, ?_, ?_, ?_, ?_⟩
  all_goals exact dueWith_of (by decide +kernel)
theorem witness_answerCommand :
    dueWith (sAway .parked) (cmd0 opAnswer 0 1 1) (fun s => s.partOfCluster (0 % 128) == some 0 && s.ctxIn 0 1 &&
      mget (s.cluster 0).away (awayKey 1 (bits 0 13 8)) == some (away0 .parked)) ∧
    dueWith (sAway .escalated) (cmd0 opAnswer 0 1 1) (fun s => s.partOfCluster (0 % 128) == some 0 && s.ctxIn 0 1 &&
      mget (s.cluster 0).away (awayKey 1 (bits 0 13 8)) == some (away0 .escalated)) ∧
    dueWith s0 (cmd0 opAnswer 0 2 1) (fun s => s.ctxIn 0 1 && (mget (s.cluster 0).away (awayKey 1 (bits 0 13 8))).isNone) ∧
    mget (away0 .parked).waves 0 = some wave0 := by
  refine ⟨?_, ?_, ?_, ?_⟩
  all_goals first
    | exact dueWith_of (by decide +kernel)
    | decide +kernel

def sCkpt : State := { sIdle with parts := [(0, { part0 with checkpointing := true })], subj := { a := 0 } }
def image1 : CheckpointImage :=
  { layout := sCkpt.dev.layout, part := 0, clusters := [], slices := [], ctxs := [], launches := [] }
theorem witness_checkpoint :
    (let s : State := { sCmd s0 (cmd0 opCheckpoint 0 0 0) with subj := { a := 0 } }
     s.cmdDue 0 opCheckpoint = some (cmd0 opCheckpoint 0 0 0) ∧ 0 ≠ deviceQueue ∧ (mget s.parts 0).isSome) ∧
    (mget sCkpt.parts 0 = some { part0 with checkpointing := true }) ∧
    (∀ cl, cl ∈ sCkpt.clustersOf 0 → (sCkpt.cluster cl).divQuiet = true ∧ (sCkpt.cluster cl).wgs = []) ∧
    sCkpt.partBusy 0 = false ∧ sCkpt.dev.offAfter = [] ∧
    (let s : State := { sCmd s0 (cmd0 opRestore 0 0 0) with checkpoints := [image1] }
     s.cmdDue 0 opRestore = some (cmd0 opRestore 0 0 0) ∧ s.imageFor 0 = some image1 ∧ s.memOk = true ∧
       (s.slicesOf 0).flatMap (fun n => ckptDirty s.mem n 32768 0) = []) ∧
    sCkpt.memOk = true ∧ sCkpt.partCell 0 0x3000 = true ∧ sCkpt.partCell 0 (vaultBase + 5) = true ∧ inAreas [0, 1] ckptBase = true ∧
    inAreas [0, 1] (ckptBase - 1) = false ∧ inAreas [0, 1] (ckptBase + 2 * 0xA00000000) = false ∧
    (let s := sCmd s0 (cmd0 opRestore 0 0 0)
     s.cmdDue 0 opRestore = some (cmd0 opRestore 0 0 0) ∧ s.imageFor 0 = none) := by
  and_intros
  all_goals decide +kernel
/-- A dirty line of slice 0 that its column's area records: its bytes, and its address with bit 0 set. -/
theorem witness_checkpoint_dirty :
    let s : State := { sCkpt with mem := memWrite tables (ckptLines 0 + 64) (natToBytes 8 (0x3000 + 1)) }
    ckptDirty s.mem 0 32768 0 = [(ckptLines 0, 0x3000)] ∧ s.memOk = true := by decide +kernel

/-- The load of the wave waits at its home for the answer of the host. -/
def sLink : State :=
  { sLoad with hostReqs := [(7, { ask := .packet 2, fn := 0, link := 0, addr := 0x2000, len := 4 })], peerReqs := [(7, { ask := .packet 2, fn := 0, link := 0, addr := 0x2000, len := 4 })] }
theorem witness_links : mget sLink.hostReqs 7 = some { ask := .packet 2, fn := 0, link := 0, addr := 0x2000, len := 4 } ∧
    mget sLink.peerReqs 7 = mget sLink.hostReqs 7 ∧ (accessAt sLink 2).map Access.kind = some .load ∧
    (sWave { wave0 with waiting := some 7 }).waveAt? 0 0 = some { wave0 with waiting := some 7 } ∧
    (let s := s0.setQueue 0 commandQueue { queue0 with kick := some kick0 }
     (s.queue 0 commandQueue).kick = some kick0 ∧ bytesToNat ((natToBytes 64 2).take 4) = (s.queue 0 commandQueue).next ∧
       bytesToNat ((natToBytes 64 3).take 4) ≠ (s.queue 0 commandQueue).next) ∧ kick0.rereads < 64 ∧
    64 ≤ ({ kick0 with rereads := 64 } : Kick).rereads := by decide +kernel
def sPeer : State := { s0 with dev := { main := .up, masks := [(0, 8)] } }
def peer0 (op : RemoteOp) : PeerRequestIn := { link := 0, remotePart := 3, part := 0, addr := 0x3000, op := op, tag := 5 }
theorem witness_peers : sPeer.admitted (peer0 (.read 8)) = true ∧ s0.admitted (peer0 (.read 8)) = false ∧
    sPeer.spanOwned 0 0x3000 8 = true ∧ sPeer.spanOwned 1 0x3000 8 = false ∧ sPeer.poisoned 0x3000 8 = false ∧
    peerOffered (peer0 (.atomic .add .b32 1 0)) = true ∧ sPeer.pageLocked 0x3000 = false ∧
    (sPeer.moveLines (peerAccess (peer0 (.read 8))).uses).isSome = true ∧
    (sPeer.moveLines (peerAccess (peer0 (.write (natToBytes 8 1)))).uses).isSome = true ∧
    (sPeer.moveLines (peerAccess (peer0 (.atomic .add .b32 1 0))).uses).isSome = true ∧ (∀ l, (sPeer.slice (sPeer.lineHome (64 * l))).barriers.contains (64 * l) = false) := by
  and_intros
  all_goals first
    | decide +kernel
    | exact fun _ => rfl

/-- The wave's load on its way out of the cluster's site. -/
def sOut : State := nextOf (exec (.sld h0 .b32 .rlx .wave (.s 5) (.s 3)) s0)
def sInject : State := nextOf (exec .packetInjection { sOut with subj := { a := clusterSite 0 } })
theorem witness_braid : (sOut.nextOut (clusterSite 0)).isSome = true ∧
    (match sOut.nextOut (clusterSite 0) with
      | some (_, p) => decide (p.tokens ≤ mgetD sOut.flitTokens (clusterSite 0) 256 ∧ sOut.queuedFlits (clusterSite 0) + p.flits ≤ 16)
      | none => false) = true ∧
    (∃ out, out < 5 ∧ (sInject.pick (clusterSite 0) out 5 0).any (fun x => x.2.2.1.kind ≠ 7) = true) ∧
    mget ({ s0 with credits := [(4, { site := 1, out := 2, vc := 2, due := 0, flits := 1 })] } : State).credits 4 =
      some { site := 1, out := 2, vc := 2, due := 0, flits := 1 } ∧
    0 < (s0.slice 3).tokens ∧ (s0.slice 3).failed = false ∧ sliceHomed (64 * 5) = true ∧ s0.homeOf 0 (64 * 5) < 128 ∧
    s0.waveAt? 0 0 = some wave0 ∧ 4095 ≤ ({ wave0 with starve := 4095 } : Wave).starve ∧
    ({ s0 with windows := 0 } : State).windows * 256 ≤ s0.now ∧ s0.now < s0.windows * 256 := by
  and_intros
  all_goals decide +kernel
/-- A credit due now is given before the grant; a window that is due lets nothing be injected and no line move. -/
theorem witness_braid_due : let s : State := { s0 with credits := [(4, { site := 1, out := 2, vc := 2, due := 0, flits := 1 })] }
    (s.credits.map Prod.fst).Nodup ∧ (s.dueCredits 1 2).credits = [] ∧ sOut.windowDue = false ∧
    ({ sOut with now := 256 } : State).windowDue = true ∧ ({ s0 with windows := 0 } : State).windowDue = false := by decide +kernel
/-- A line that is not there, a clean one and a dirty one, with a token left and with none. -/
theorem witness_lineTransfers : let x : Slice := { lines := [(5, { dirty := true }), (6, { dirty := false })] }
    let s : State := { s0 with slices := [(s0.homeOf 0 (64 * 7), x)] }
    mget (s.slice (s.homeOf 0 (64 * 7))).lines 7 = none ∧ (s.slice (s.homeOf 0 (64 * 7))).lines.length < 32768 ∧ s.windowDue = false ∧
    mget x.lines 5 = some { dirty := true } ∧ mget x.lines 6 = some { dirty := false } ∧ ({ x with tokens := 0 } : Slice).tokens = 0 := by
  decide +kernel
theorem witness_starvation : let w := { wave0 with starve := 4095, starveAt := 1 }
    (sWave w).waveAt? 0 0 = some w ∧ w.starveAt = (sWave w).now + 1 := by decide +kernel
def key0 : LodKey := { ctx := 1, resource := 7, level := 0, px := 0, py := 0, word := 0x3100 }
theorem witness_keyAgeOut : 0 < ({ s0 with slices := [(8, { lod := [key0] })] }.slice 8).lod.length := by decide +kernel

/-- Mail of context 1 for mailbox 2 of slice 8. -/
def mail0 (kind code : Nat) (answer : Bool) (dst : Nat) : Packet :=
  { kind := kind, src := clusterSite 0, dst := dst, part := 0, ctx := 1, flits := 5, answer := answer, loc := .arrived 0
    body := .mail 0 s0.tag (.s 5) 2 (List.replicate 256 7) code }
def sMailed (p : Packet) (m : Mailbox) : State :=
  { s0 with packets := [(9, p)], subj := { a := 9 }, slices := [(siteNumber p.dst, { mboxes := [(2, m)] })] }
theorem witness_mail : let p := mail0 5 0 false (sliceSite 8)
    (∀ e ∈ (sMailed p { ctx := 1, packets := [] }).packets, e.1 = 9) ∧ (sMailed p { ctx := 1, packets := [] }).isHeld 9 = false ∧
    mget ((sMailed p { ctx := 1, packets := [] }).slice (siteNumber p.dst)).mboxes 2 = some { ctx := 1, packets := [] } ∧
    16 ≤ ({ ctx := 1, packets := List.replicate 16 [] } : Mailbox).packets.length ∧ ({ ctx := 2, packets := [] } : Mailbox).ctx ≠ p.ctx := by
  decide +kernel
theorem witness_mailRefused : let p := mail0 8 1 true (clusterSite 0)
    ((sMailed p { ctx := 1, packets := [] }).landValue s0.tag (.scalar (.s 5)) 1).isSome = true ∧ p.answer = true := by decide +kernel
/-- A semaphore add of one for semaphore 3 of cluster 0. -/
def add0 : Access := { op := 0, tag := s0.tag, kind := .semRel, va := 3, pa := 0, size := 0, data := 1 }
theorem witness_semAdd : mget ({ s0 with laterals := [(6, add0)], subj := { a := 6 } } : State).laterals 6 = some add0 ∧ s0.isHeld 6 = false ∧
    (∀ x ∈ ({ s0 with laterals := [(6, add0)] } : State).laterals, ¬ x.1 < 6) ∧ s0.semsEntry add0.size add0.tag.ctx = none ∧ s0.semWaits add0.size add0.tag.ctx = false ∧ s0.holdsSlot add0.size add0.tag.ctx = true ∧
    ({ s0 with clusters := [(0, { cluster0 with slots := [], div := [(0, { state := .evicting, kind := .sems, ctx := 1, wgslot := 0, lo := 0, n := 0, shadow := 0 })] })] } : State).semWaits 0 1 = true := by
  decide +kernel

/-- An add for cluster 1 that came at cycle 1, and another for it that came at a cycle of its own. -/
def sRelay (other : Nat) (k : Cluster) : State :=
  let p (t : Nat) : Packet :=
    { kind := 0xA, src := clusterSite 0, dst := clusterSite 1, part := 0, ctx := 1, flits := 1, loc := .arrived t
      body := .access { add0 with size := 0 }, relayed := true }
  { s0 with subj := { a := 9 }, packets := [(9, p 1), (7, p other)], now := 5, clusters := [(0, k)] }
theorem witness_semAdd_relay : (∀ other : Fin 3, let s := sRelay other cluster0
      (mget s.packets 9).map (fun p => (p.kind, p.answer, p.arrivedAt)) = some (0xA, false, 1) ∧ s.isHeld 9 = false ∧
        mget s.laterals 9 = none ∧ s.isHeld 7 = false ∧ (mget s.packets 7).map Packet.loc = some (.arrived other)) ∧
    (sRelay 2 cluster0).semsEntry 0 1 = none ∧ (sRelay 2 cluster0).holdsSlot 0 1 = true ∧
    (let e : DivEntry := { state := .evicting, kind := .sems, ctx := 1, wgslot := 0, lo := 0, n := 0, shadow := 0 }
     (sRelay 2 { cluster0 with slots := [], div := [(0, e)] }).semWaits 0 1 = true) := by decide +kernel

/-- A vault access of the wave, to byte 64 of its own cluster's vault. -/
def vaultAcc (kind : AccKind) (dest : Dest) : Access :=
  { op := 0, tag := s0.tag, kind := kind, va := 0, pa := vaultBase + 64, size := 4, data := 5, dest := dest }
theorem witness_vaults : let a := vaultAcc .load (.lane 1 0 false)
    mget ({ s0 with laterals := [(6, a)], subj := { a := 6 } } : State).laterals 6 = some a ∧ region a.pa = .vault 0 ∧
    s0.vaultEntry ((a.pa - vaultBase) / vaultBytes) 1 ((a.pa - vaultBase) % vaultBytes) = none ∧ s0.regsEntry a.tag = none ∧
    s0.residentOf a.tag = some wave0 ∧ 1 < wave0.bound := by decide +kernel
def ray0 : Traversal := { op := 0, tag := s0.tag, triangle := true, lane := 0, dst := 8, addr := 0x3000, ray := List.replicate 8 0, iaddr := 0 }
/-- A triangle's node of twelve words at 0x3000: the last is asked for, and all but the last have been read. -/
theorem witness_traversalResult : ray0.asked = [] ∧ ray0.after = [] ∧ s0.isHeld 6 = false ∧ 9 ∈ ray0.missing ∧
    (match s0.readNode ray0 9 with
      | .word _ t => t.subj == s0.subj
      | _ => false) = true ∧
    (match s0.readNode { ray0 with addr := 0x500000 } 9 with
      | .fault c => c == causeNotPresent
      | _ => false) = true ∧
    ({ ray0 with got := (List.range 40).map (fun k => (k, 0)) } : Traversal).missing = [] ∧
    (s0.landWords ray0.tag ray0.lane ray0.dst (ray0.result (List.replicate 10 0))).any (fun t => t.subj == s0.subj) = true ∧
    (s0.translate 0 1 (0x3000 + 4 * 9) .read).toOption.map Prod.fst = some 0x3024 ∧ s0.poisoned 0x3024 4 = false ∧
    (s0.moveLines (usesOf 0x3024 4 (fun _ => .read 0))).isSome = true ∧
    ({ s0 with poison := [0x3024 / 64] } : State).poisoned 0x3024 4 = true := by decide +kernel

def report0 (job : Option (Nat × Nat)) : LodReport :=
  { op := 0, tag := s0.tag, ring := 0, resource := 7, level := 0, px := 1, py := 2, delivered := 0xFF, word := 0x3100, status := .none
    origin := clusterSite 0, job := job }
def lodPacket (r : LodReport) (answer : Bool) : Packet :=
  { kind := 9, src := clusterSite 0, dst := sliceSite 8, part := 0, ctx := 1, flits := 2, answer := answer, loc := .arrived 0, body := .lod r }
/-- An Eddy ring of sixteen entries: its header at 0x3000 and its entries at 0x4000. -/
def sEddy (produce : Nat) (p : Packet) : State :=
  { s0 with
    ctxs := [(1, { ctx1 with eddy := [0x3000#64] })], packets := [(9, p)], subj := { a := 9 }
    mem := memWrite tables 0x3000 (natToBytes 8 (0x4000 + 4) ++ natToBytes 8 produce) }
theorem witness_feedback : let r := report0 none
    let p := lodPacket r false
    (sEddy 3 p).eddyVa r = 0x3000 ∧ ((sEddy 3 p).eddyAt 0 1 0x3000).toOption.map Prod.fst = some 0x3000 ∧ (sEddy 3 p).isHeld 9 = false ∧
    (sEddy 3 p).thingHeld (.request 9) = false ∧
    (∀ e ∈ (sEddy 3 p).packets, e.1 = 9) ∧ region 0x4030 = .hbm 0 ∧ (sEddy 3 p).noBarrier 0x3000 64 ∧ (eddyHeader (memRead (sEddy 3 p).mem 0x3000 64)).map EddyHeader.produce = some 3 ∧
    (eddyHeader (memRead (sEddy 16 p).mem 0x3000 64)).map EddyHeader.produce = some 16 ∧
    ((sEddy 3 p).eddyEntry 0 1 (0x4000 + 3 * 16)).toOption.map Prod.fst = some 0x4030 ∧ ((sEddy 3 p).slice (siteNumber p.dst)).lod = [] ∧
    (sEddy 3 p).poisoned 0x3000 64 = false ∧ ((sEddy 3 p).landValue r.tag .none 0).isSome = true := by
  and_intros
  all_goals first
    | decide +kernel
    | exact fun _ _ _ => rfl
/-- A report is known by its context, resource, level and page, whatever map word it names. -/
theorem witness_feedback_known : let r := report0 none
    let k : LodKey := { ctx := 1, resource := 7, level := 0, px := 1, py := 2, word := 0x3108 }
    k.word ≠ r.word ∧ k.ctx = r.tag.ctx ∧ k.resource = r.resource ∧ k.level = r.level ∧ k.px = r.px ∧ k.py = r.py := by decide
/-! Workgroups -/

/-- Cluster 0 is empty and the workgroup of the launch waits to start there. -/
def sStart : State :=
  { s0 with clusters := [(0, { startQ := [{ launch := 4, index := 0 }] })], launches := [(4, { launch0 with left := 1 })], subj := { a := 0 } }
theorem witness_workgroupStart : (sStart.wantOf { launch := 4, index := 0 }).isSome = true ∧ (sStart.cluster 0).retired = false ∧
    sStart.freezing 0 = false ∧ (match sStart.wantOf { launch := 4, index := 0 } with
      | some (w, l, m) => !sStart.outgone 0 w && (sStart.placeNow 0 w).isSome && decide (m.waves.map Prod.snd).Nodup && l.ctx == 1
      | none => false) = true ∧ sStart.semsEntry 0 1 = none := by decide +kernel
def spawnBin (n timer : Nat) : Bin :=
  { ctx := 1, entryPc := 0x1800, recs := List.replicate n [1, 2, 3, 4], prio := 0, tmo := 1, launch := 0, bound := 8, timer := timer }
def sBinned (n timer : Nat) : State := { s0 with clusters := [(0, { cluster0 with bins := [(2, spawnBin n timer)] })], subj := { a := 0, b := 2 } }
theorem witness_binWaves : (sBinned 130 9).binReady 0 2 = some (spawnBin 130 9) ∧ 128 ≤ (spawnBin 130 9).recs.length ∧ (spawnBin 3 0).timer ≤ s0.now ∧
    (spawnBin 3 0).recs.length ≤ 128 ∧ ((sBinned 3 0).cluster 0).binPlace 1 8 ≠ none ∧
    (firstBelow (((sBinned 3 0).cluster 0).wgSlotFree 1 none) 64 0).isSome = true := by decide +kernel
/-- A spill queue of 2^14 entries at 0x8000 for context 1, whose one record is for the key of a bin in use. -/
def sSpilled : State :=
  let m := memWrite tables 0x3000 (natToBytes 8 (0xFF00000000008000 + 14) ++ natToBytes 8 0 ++ natToBytes 8 1)
  { s0 with
    ctxs := [(1, { ctx1 with spillQ := 0xFF00000000003000 })], mem := memWrite m 0x8000 (natToBytes 16 9 ++ natToBytes 8 0x1800 ++ natToBytes 8 0)
    clusters := [(0, { cluster0 with bins := [(2, spawnBin 3 9)] })], subj := { a := 0, b := 1 } }
theorem witness_spillRefill : (match sSpilled.spillHeader 0 1 with
      | .ok q => decide (q.count = 1) && (match (sSpilled.charge (sSpilled.spillUses 0 1)).readArea 0 1 (q.entry q.head) 32 with
        | .ok (b, t) => (t.cluster 0).binFor 1 (spawnRecOf b).entryPc == some 2 &&
            (t.hwWrite 0 1 (sSpilled.spillAddr 0 1 + 8) (natToBytes 4 1)).toOption.isSome
        | .error _ => false)
      | .error _ => false) = true ∧ sSpilled.holdsSlot 0 1 = true ∧ (sSpilled.ctxOf 1).life ≠ .destroying ∧
    mget (sSpilled.cluster 0).bins 2 = some (spawnBin 3 9) := by decide +kernel
def sDrain : State := { sWave { wave0 with draining := true } with subj := { a := 0, b := 0 } }
theorem witness_leaseFree : mget (sDrain.cluster 0).waves 0 = some { wave0 with draining := true } ∧
    sDrain.owesWave (({ wave0 with draining := true } : Wave).tag 0 0) = false ∧ sDrain.wgEntry 0 1 0 .regs = none ∧
    mget (sDrain.cluster 0).wgs 0 = some wg0 ∧ (∀ x, x ∈ (sDrain.cluster 0).waves → x.2.wgslot = 0 → x.1 = 0) ∧
    (let w := { wave0 with draining := true }
     ∃ x, x ∈ ({ cluster0 with waves := [(0, w), (4, wave0)] } : Cluster).waves ∧ x.1 ≠ 0 ∧ x.2.wgslot = w.wgslot) ∧
    s0.waveAt? 0 0 = some wave0 ∧ wave0.draining = false := by
  and_intros
  all_goals decide +kernel
def sEnded : State := { s0 with clusters := [(0, { ended := [(0, wg0)], plane := some { plane0 with wgslot := 3 } })], subj := { a := 0, b := 0 } }
theorem witness_vaultRelease : mget (sEnded.cluster 0).ended 0 = some wg0 ∧ sEnded.wgBusy 0 0 wg0 = false ∧
    (sEnded.cluster 0).planeOf wg0.ctx 0 = none ∧ ({ sLoad with clusters := sEnded.clusters } : State).wgBusy 0 0 wg0 = true ∧
    (sEnded.cluster 0).wavesOf 3 = [] ∧ (∀ j, j ∈ sEnded.jobs → j.2.isPlane = false) ∧
    (let s := { s0 with clusters := [(0, { cluster0 with plane := some plane0 })], subj := { a := 0 } }
     (s.cluster 0).plane = some plane0 ∧ ∃ x ∈ (s.cluster 0).wavesOf 0, x.2.ctx = plane0.ctx ∧ x.2.draining = false) ∧
    mget ((sAway .killed).cluster 0).away (awayKey 1 0) = some (away0 .killed) ∧
    (sAway .killed).wgBusy 0 (awayKey 1 0 % 64) (away0 .killed).wg = false := by decide +kernel

def entry0 (st : DivState) (kind : DivKind) : DivEntry := { state := st, kind := kind, ctx := 1, wgslot := 0, lo := 0, n := 0, shadow := 0 }
/-- The upper half maps to memory from 0 up, 32 MiB of it. -/
def tables2 : List Host.Cell := memWrite tables 0x80040 (rangeEntry 0xD 0xFF00000000000000 0xFF00000001FFF000 0x100000000000000)
def sDiv (e : DivEntry) (wgs : SMap Wg) : State :=
  let k := { cluster0 with wgs := wgs, waves := [], div := [(0, e)] }
  { s0 with clusters := [(0, k)], subj := { a := 0 }, mem := tables2 }
theorem witness_evictionDone : let s := sDiv (entry0 .evicting .sems) []
    ((s.cluster 0).div.map Prod.snd).filter (fun d => d.state == .evicting) = [entry0 .evicting .sems] ∧
    (entry0 .evicting .sems).issued = 0 ∧ s.subj.b = 0 ∧ (s.cluster 0).bins = [] ∧
    ((s.cluster 0).slots.find? (fun y => y.2.ctx == 1)).isSome = true ∧ semRecords [] = [] ∧ (s.cluster 0).held = [] ∧
    s.millOwners 0 = [] ∧ (s.hwWrite 0 1 (s.areaOf 0 1 + 0x1200800) ((rangeFrom 0 64).flatMap (fun n => natToBytes 16 (mgetD ([] : SMap Sem) n {}).count))).toOption.isSome =
      true := by decide +kernel
theorem witness_mergeDrained : let s := sDiv (entry0 .merging .sems) []
    ((s.cluster 0).div.map Prod.snd).filter (fun d => d.state == .merging) = [entry0 .merging .sems] ∧
    (s.hwRead 0 1 (s.areaOf 0 1 + 0x1200800) 1024).toOption.isSome = true ∧ (s.cluster 0).wgs = [] ∧ s.millOwners 0 = [] := by decide +kernel
/-- A workgroup of context 1 is back, its Millrace's state is saved and the array is free. -/
theorem witness_mergeDrained_mill : let s := { sDiv (entry0 .merging .sems) [(0, wg0)] with ctxs := [(1, { ctx1 with mills := [(0, mill0)] })] }
    s.millOwners 0 = [(1, 0)] ∧ s.savedMill 0 1 0 = some mill0 ∧ (s.cluster 0).mill = none ∧ wg0.stopped = false := by decide +kernel
theorem witness_park : let w := { wave0 with pending := some { cause := 2, iaddr := 0x1000, resume := 0x1000 } }
    let s : State := { s0 with clusters := [(0, { cluster0 with waves := [(0, w)], wgs := [(0, { wg0 with stopped := true })] })] }
    wg0.escalated = false ∧ (s.cluster 0).wavesOf 0 = [(0, w)] ∧ w.pending.isSome = true ∧ (s.cluster 0).divQuiet = true ∧
    (s.cluster 0).divRoom (s.entriesNeeded 0 [0] false) = true ∧ (s.cluster 0).held = [] ∧ s.subj.c = 0 ∧
    ({ s with subj := { a := 0, b := 0, c := 1 } } : State).subj.c ≠ 0 ∧ (s.beginEvict 0 [0] none).planeUnfinished 0 = false := by decide +kernel
theorem witness_resume : let s : State := { sAway .answered with subj := { a := 0, b := awayKey 1 0 }, mem := tables2 }
    (away0 .answered).waits = true ∧ (s.cluster 0).divQuiet = true ∧ s.freezing 0 = false ∧ (s.cluster 0).retired = false ∧
    s.outgone 0 ((away0 .answered).want (awayKey 1 0)) = false ∧ (s.placeNow 0 ((away0 .answered).want (awayKey 1 0))).isSome = true ∧
    (away0 .answered).broken = false ∧ ((s.gainSlot 0 1).readAway 0 0 (away0 .answered)).toOption.isSome = true := by decide +kernel

/-! Engine jobs -/

def job0 (kind : JobKind) (total pieces : Nat) : Job :=
  { kind := kind, code := 0, tags := [s0.tag], iaddr := 0, sem := none, total := total, pieces := [(0, pieces)] }
def sJob (j : Job) (c : Nat := 0) : State := { s0 with jobs := [(5, j)], subj := { a := 5, b := 0, c := c } }
def oneRow : Extent := { esz := 4, n0 := 2, n1 := 1, n2 := 1, s1 := 0, s2 := 0, d1 := 0, d2 := 0 }
def copy0 : Job := job0 (.copy 0x2000 0x3000 oneRow) 2 2
theorem witness_engineElement : mget (sJob copy0).jobs 5 = some copy0 ∧ copy0.pos < copy0.total ∧ (sJob copy0).jobReady copy0 = true ∧
    ((sJob copy0).checkAccess copy0.owner.cl copy0.owner.ctx (addr 0x2000 (oneRow.srcOff copy0.pos)) 4 .read none).toOption.isSome = true ∧
    (((sJob copy0).accessOf dstAccess).checkAccess copy0.owner.cl copy0.owner.ctx (addr 0x3000 (oneRow.dstOff copy0.pos)) 4 .write none).toOption.isSome =
      true ∧
    (let j' := { copy0 with waits := [2] }
     ({ sLoad with jobs := [(5, j')] } : State).jobReady j' = false) := by decide +kernel
/-- Both elements are on their way: the first is still to be read, the second has been. -/
def flying (first : Option (Nat × Nat × Nat)) : Job :=
  { copy0 with
    pos := 2
    flight := [{ n := 0, src := first, dst := 0x3000, dstPa := 0x3000, attr := 0xD, data := [1, 2, 3, 4] },
      { n := 1, dst := 0x3004, dstPa := 0x3004, attr := 0xD, data := [5, 6, 7, 8] }] }
theorem witness_engineRead : (flying (some (0x2000, 0x2000, 0xD))).flight[0]?.bind Flight.src = some (0x2000, 0x2000, 0xD) ∧
    sliceHomed 0x2000 = true ∧ (sJob (flying (some (0x2000, 0x2000, 0xD)))).poisoned 0x2000 oneRow.esz = false ∧
    ((sJob (flying (some (0x2000, 0x2000, 0xD)))).moveLines (usesOf 0x2000 4 (fun _ => .read (attrCa 0xD)))).isSome = true ∧
    (sJob copy0).noTarget 0x2000 = false ∧ (sJob copy0).thingHeld (.element 5 0) = false ∧ s0.partOfCtx copy0.owner.ctx = 0 ∧
    -- the element's piece belongs to a slice that is not its source's home, or to its home
    nearSites (sliceSite (s0.homeOf 0 0x2000)) (sliceSite (copy0.pieceOf copy0.owner.cl 0)) = false ∧
    nearSites (sliceSite (s0.homeOf 0 0x2000)) (sliceSite ({ copy0 with srcHome := [(2, 16)] }.pieceOf copy0.owner.cl 0)) = true := by
  decide +kernel
theorem witness_engineSend : (∃ f, (flying none).flight[1]? = some f) ∧ (∀ g ∈ (flying none).flight, g.src = none ∧ g.coming = false) :=
  ⟨⟨_, rfl⟩, by decide⟩
def copied0 : CopyWrite := { job := 5, piece := 0, va := 0x3000, pa := 0x3000, parts := [(0, [1, 2, 3, 4])] }
def engine0 (kind dst : Nat) (b : Body) : Packet :=
  { kind := kind, src := clusterSite 0, dst := dst, part := 0, ctx := 1, flits := 2, loc := .arrived 0, body := b }
def sEngine (p : Packet) : State := { sJob copy0 with packets := [(9, p)], subj := { a := 9 } }
theorem witness_engineData : let p := engine0 6 (sliceSite 8) (.copy copied0)
    let q := engine0 7 (clusterSite 0) (.multicast 5 0 0 64 [(0, [1, 2])])
    (sEngine p).isHeld 9 = false ∧ (sEngine p).queuedBehind 9 p = false ∧ sliceHomed copied0.pa = true ∧ (sEngine p).noTarget copied0.pa = false ∧
    (sEngine p).addTiles = [] ∧ ((sEngine p).moveLines copied0.uses).isSome = true ∧ copy0.faults = [] ∧ mget copy0.pieces copied0.piece = some 2 ∧
    siteNumber q.dst = 0 ∧ (sEngine q).holdsSlot 0 q.ctx = true ∧ (sEngine q).vaultEntry 0 q.ctx 64 = none ∧
    mget (sEngine p).jobs copied0.job = some copy0 := by decide +kernel
/-- The bytes of an element that was read away from its job's site have come there. -/
theorem witness_engineCame : let f : Flight := { n := 1, dst := 0x3004, dstPa := 0x3004, attr := 0xD, coming := true }
    let p := engine0 6 (sliceSite 8) (.element 5 1 [1, 2, 3, 4])
    let s : State := { sJob { copy0 with flight := [f] } with packets := [(9, p)], subj := { a := 9 } }
    s.isHeld 9 = false ∧ s.queuedBehind 9 p = false ∧ s.addTiles = [] ∧ mget s.jobs 5 = some { copy0 with flight := [f] } ∧
      [f].find? (fun f => f.n == 1 && f.coming) = some f := by decide +kernel
/-- A piece of which nothing is left to land, of a job that fills tile 3 and of one that fills none. -/
def landed0 (fill : Option Nat) : Job := { job0 (.copy 0x2000 0x3000 oneRow) 2 0 with cpOps := [1], fill := fill }
theorem witness_pieceLanding : let s : State := { sJob (landed0 (some 3)) with clusters := (sTile { tile0 with pend := 2, state := .filling }).clusters }
    mget (landed0 none).pieces 0 = some 0 ∧ mdel (landed0 none).pieces 0 = [] ∧
    mdel ({ landed0 none with pieces := [(0, 0), (1, 2)] } : Job).pieces 0 ≠ [] ∧
    s.pieceHeld (landed0 (some 3)) false = false ∧ s.thingHeld (.piece 5 0 false) = false ∧ (landed0 (some 3)).sem = none ∧
    s.wgEntry (landed0 none).owner.cl (landed0 none).owner.ctx (landed0 none).owner.wgslot .tiles = none ∧
    (mget (s.cluster (landed0 none).owner.cl).tiles 3).map Tile.pend = some 2 ∧ tile0.owner = (landed0 none).owner.wgslot ∧
    tile0.ctx = (landed0 none).owner.ctx ∧ (landed0 none).faults = [] ∧ (landed0 none).toRead = [] ∧
    (mget ({ s with ops := [(1, { tag := s.tag, cp := true, left := 1 })] } : State).ops 1).map Op.left = some 1 := by decide +kernel
/-- The workgroup's tiles are being written out: the ingress holds the piece. -/
theorem witness_pieceLanding_held : let e : DivEntry := { state := .evicting, kind := .tiles, ctx := 1, wgslot := 0, lo := 0, n := 0, shadow := 0 }
    let s : State := { sJob (landed0 (some 3)) with clusters := [(0, { cluster0 with div := [(0, e)] })] }
    s.pieceHeld (landed0 (some 3)) false = true ∧ s.thingHeld (.piece 5 0 false) = false := by
  decide +kernel
/-- A read-out of two pieces, the first of them read. -/
def readOut0 : Job := { job0 (.line 0x201000 0x3000 128 false) 128 64 with readOut := some 3, toRead := [(0, 0), (1, 64)] }
theorem witness_pieceLanding_read : let s : State := { sJob readOut0 1 with clusters := (sTile { tile0 with pend := 2, state := .draining }).clusters }
    s.subj.c ≠ 0 ∧ mget readOut0.toRead 0 = some 0 ∧ mdel readOut0.toRead 0 ≠ [] ∧ s.pieceHeld readOut0 true = false ∧
    s.pieceIsHeld readOut0 5 0 true = false ∧ readOut0.readOut = some 3 ∧ readOut0.steps = readOut0.stepsPaid ∧
    (mget (s.cluster 0).tiles 3).map (fun x => (x.ctx, x.owner, x.pend)) = some (1, 0, 2) := by decide +kernel
theorem witness_settleJob : let j := { copy0 with pos := 2, pieces := [], cpOps := [1] }
    j.done = true ∧ j.faults = [] ∧ (mget ({ sJob j with ops := [(1, { tag := s0.tag, cp := true, left := 1 })] } : State).ops 1).map Op.left =
      some 1 := by decide +kernel

/-! The step -/

/-- Sector 0 of cluster 0 issues; the wave stands at the NOP of 0x1900. -/
def sTurn : State :=
  { sCode with
    clusters := [(0, { cluster0 with waves := [(0, { wave0 with pc := 0x1900 })] })], agenda := [{ act := .issue 0 0 }] }
theorem witness_stepRunsDecoded : sTurn.sectorIssued 0 0 = false ∧ ({ sTurn with agenda := [] } : State).sectorOrder 0 0 = [0] ∧
    sTurn.waveAt? 0 0 = some { wave0 with pc := 0x1900 } ∧
    ({ sTurn with cur := (0, 0) } : State).deliverDue 0 0 { wave0 with pc := 0x1900 } = none ∧ wave0.needEntry = false ∧
    (sTurn.translate 0 1 0x1900 .fetch).toOption.map Prod.fst = some 0x1900 ∧ wave0.endAt = none ∧
    (match sTurn.readFor 1 0x1900 32 with
      | .bytes bs _ => bs == memRead sTurn.mem 0x1900 32
      | _ => false) = true ∧ sTurn.movesCovered sTurn = true ∧
    sTurn.movesCovered { sTurn with slices := [(0, { tokens := 0, drawn := true, owed := 2 })] } = true ∧
    ({ sTurn with slices := [(0, { tokens := 0, drawn := true })] } : State).movesCovered
      { sTurn with slices := [(0, { tokens := 0, drawn := true, owed := 2 })] } = false ∧
    region 0x1900 = .hbm 0 ∧ (decodeBytes ((memRead sTurn.mem 0x1900 32).drop 0)).map Prod.snd = some 8 ∧
    (decodeBytes (natToBytes 32 7)).isNone = true := by decide +kernel
theorem witness_memoryKept : sTurn.memOk = true ∧ ∃ t, step sTurn = .next t := ⟨by decide +kernel, next_of (by decide +kernel)⟩
theorem test_stepIssues : let t := nextOf (step sTurn)
    t.issued = true ∧ (t.waveAt? 0 0).map Wave.pc = some 0x1908 := by decide +kernel
/-- From reset, a FILL placed where the machine fetches is the first instruction that runs. -/
theorem test_firstInstruction : (nextOf (step (State.reset.withFetchWord 32 3))).issued = true := by decide +kernel
theorem witness_decode : (Instr.nop h0).wf = true ∧ encode (.nop h0) ≠ [] ∧ s0.curWave?.isSome = true := by decide +kernel
end Sys2Proof.Tests
end

/-!
PROOFS. Address spaces, contexts and partitions: the commands that create, destroy and complete (O50), and checkpoints (O53).
-/
namespace Sys2Proof.Machine

/-! ### A context under destruction stays so (01 R23) -/

/-- A context that exists and is being destroyed. -/
def State.Dooms (s : State) (n : Nat) : Prop := ∃ y, mget s.ctxs n = some y ∧ y.life = .destroying

namespace State.Dooms
variable {s : State} {n : Nat}

theorem of_ctxs {t : State} (h : s.Dooms n) (e : t.ctxs = s.ctxs) : t.Dooms n := by
  unfold State.Dooms at *
  rwa [e]

/-- The entry of one context is replaced, and a destruction stands there too. -/
theorem of_mset {t : State} (h : s.Dooms n) {m : Nat} {c : Ctx} (e : t.ctxs = mset s.ctxs m c)
    (hc : m = n → c.life = .destroying) : t.Dooms n := by
  obtain ⟨y, hy, hl⟩ := h
  unfold State.Dooms
  rw [e]
  by_cases hm : m = n
  · subst hm
    exact ⟨c, mget_mset_same _ _ _, hc rfl⟩
  · exact ⟨y, (mget_mset_ne _ _ (Ne.symm hm)).trans hy, hl⟩

/-- The entry of one context is changed by a function that leaves a destruction standing. -/
theorem of_mupd {t : State} (h : s.Dooms n) {m : Nat} {f : Ctx → Ctx} (e : t.ctxs = mupd s.ctxs m f)
    (hf : ∀ c, c.life = .destroying → (f c).life = .destroying) : t.Dooms n := by
  cases hm : mget s.ctxs m with
  | none => exact h.of_ctxs (e.trans (mupd_none f hm))
  | some c =>
    refine h.of_mset (e.trans (mupd_some f hm)) fun hmn => hf c ?_
    obtain ⟨y, hy, hl⟩ := h
    rw [← hmn, hm, Option.some.injEq] at hy
    rwa [hy]

/-- A fold that carries a state along, among other things, keeps a destruction that each of its steps keeps. -/
theorem foldl_carried {α β : Type} (get : β → State) (l : List α) {f : β → α → β}
    (hf : ∀ b a, (get b).Dooms n → (get (f b a)).Dooms n) {b : β} (h : (get b).Dooms n) : (get (l.foldl f b)).Dooms n := by
  induction l generalizing b with
  | nil => exact h
  | cons a t ih => exact ih (hf b a h)

theorem foldl {α : Type} (h : s.Dooms n) (l : List α) {f : State → α → State}
    (hf : ∀ s a, s.Dooms n → (f s a).Dooms n) : (l.foldl f s).Dooms n := foldl_carried id l hf h

end State.Dooms

/-! ### What leaves the contexts alone -/

@[simp] theorem charge_ctxs (s : State) (l : List (Nat × LineUse)) : (s.charge l).ctxs = s.ctxs := by rw [charge_slices]

theorem storeSpans_ctxs (s : State) (l : List (Nat × Nat × Nat)) (bs : List Byte) : (s.storeSpans l bs).ctxs = s.ctxs := by
  induction l generalizing s bs with
  | nil => rfl
  | cons e t ih => exact (ih _ _).trans (charge_ctxs s _)

theorem hwWrite_ctxs {s t : State} {cl ctx va : Nat} {bs : List Byte} (hw : s.hwWrite cl ctx va bs = .ok t) :
    t.ctxs = s.ctxs := by
  unfold State.hwWrite at hw
  split at hw
  · cases hw
  · cases hw
    exact (storeSpans_ctxs _ _ _).trans (charge_ctxs s _)

theorem readArea_ctxs {s t : State} {cl ctx va n : Nat} {b : List Byte} (hr : s.readArea cl ctx va n = .ok (b, t)) :
    t.ctxs = s.ctxs := by
  unfold State.readArea at hr
  cases hb : s.hwRead cl ctx va n with
  | error e => rw [hb] at hr; cases hr
  | ok b =>
    rw [hb] at hr
    cases hr
    exact charge_ctxs s _

@[simp] theorem postWrite_ctxs (s : State) (fn link addr : Nat) (bs : List Byte) :
    (s.postWrite fn link addr bs).ctxs = s.ctxs := by
  unfold State.postWrite
  split <;> rfl

theorem postFault_ctxs (s : State) (part : Nat) (e : List Byte) : (s.postFault part e).ctxs = s.ctxs := by
  unfold State.postFault
  split
  · rfl
  · split
    · exact postWrite_ctxs s _ _ _ _
    · rfl

theorem askLink_ctxs (s : State) (part pa len : Nat) (ask : HostAsk) : (s.askLink part pa len ask).2.ctxs = s.ctxs := by
  unfold State.askLink
  dsimp only
  split <;> rfl

theorem cacheUse_ctxs (s : State) (cl ctx va : Nat) : (s.cacheUse cl ctx va).ctxs = s.ctxs := by
  unfold State.cacheUse
  split
  · rfl
  · dsimp only
    split
    · rfl
    · split
      · exact charge_ctxs s _
      · rfl

theorem leaveQueues_ctxs (s : State) (cl row : Nat) : (s.leaveQueues cl row).ctxs = s.ctxs := by
  unfold State.leaveQueues
  split
  · rfl
  · dsimp only
    split <;> rfl

theorem quiesce_ctxs (s : State) (cl row : Nat) : (s.quiesce cl row).ctxs = s.ctxs := by
  unfold State.quiesce
  split
  · rfl
  · dsimp only
    split <;> rfl

theorem store_ctxs (s : State) (pa : Nat) (bs : List Byte) : (s.store pa bs).ctxs = s.ctxs := rfl

theorem setBarrierLine_ctxs (s : State) (pa : Nat) (b : BarrierLine) : (s.setBarrierLine pa b).ctxs = s.ctxs := by
  unfold State.setBarrierLine
  exact (store_ctxs _ _ _).trans (store_ctxs _ _ _)

theorem touchQueue_ctxs (s : State) (pa : Nat) : (s.touchQueue pa).ctxs = s.ctxs := by
  unfold State.touchQueue
  dsimp only
  split <;> rfl

namespace State.Dooms
variable {s : State} {n : Nat}

/-- A hardware write that may fail, and what follows in either case. -/
theorem hwWrite {t : State} {cl ctx va : Nat} {bs : List Byte} (h : s.Dooms n) (hw : s.hwWrite cl ctx va bs = .ok t) :
    t.Dooms n := h.of_ctxs (hwWrite_ctxs hw)

/-! ### Fault records -/

theorem setLost (h : s.Dooms n) (r : JobRec) : (s.setLost r).Dooms n := by
  unfold State.setLost
  dsimp only
  refine foldl ?_ _ fun s a h => ?_
  · exact h.of_ctxs rfl
  · split
    next hw => exact h.hwWrite hw
    next => exact h

theorem markPending (h : s.Dooms n) (ctx : Nat) : (s.markPending ctx).Dooms n := h.of_mupd rfl fun _ hc => hc

theorem notifyRecord (h : s.Dooms n) (r : JobRec) (cause : Nat) : (s.notifyRecord r cause).Dooms n :=
  (h.markPending r.ctx).of_ctxs (postFault_ctxs _ _ _)

theorem loseRecord (h : s.Dooms n) (r : JobRec) (cause : Nat) : (s.loseRecord r cause).Dooms n := by
  unfold State.loseRecord
  refine notifyRecord ?_ r cause
  split
  · exact h
  · exact h.setLost r

theorem appendRecord (h : s.Dooms n) (r : JobRec) : (s.appendRecord r).Dooms n := by
  have hc (l : List (Nat × LineUse)) : (s.charge l).Dooms n := h.of_ctxs (charge_ctxs s l)
  unfold State.appendRecord
  split
  next => exact h
  next c _ =>
    split
    next => exact h.loseRecord r _
    next lh _ =>
      dsimp only
      split
      next =>
        split
        next hw => exact ((hc _).hwWrite hw).loseRecord r _
        next => exact (hc _).loseRecord r _
      next =>
        split
        next => exact (hc _).loseRecord r _
        next hw =>
          split
          next => exact (hc _).loseRecord r _
          next hw2 => exact (((hc _).hwWrite hw).hwWrite hw2).notifyRecord r _

theorem nextSeq (h : s.Dooms n) (ctx : Nat) : (s.nextSeq ctx).2.Dooms n := by
  unfold State.nextSeq
  split
  next c hm =>
    refine h.of_mset rfl fun e => ?_
    obtain ⟨y, hy, hl⟩ := h
    rw [← e, hm, Option.some.injEq] at hy
    rwa [← hy] at hl
  next => exact h

theorem hwFault (h : s.Dooms n) (cl ctx cause vaddr access progress iaddr : Nat) :
    (s.hwFault cl ctx cause vaddr access progress iaddr).Dooms n := (h.nextSeq ctx).appendRecord _

theorem settleRecords (h : s.Dooms n) (cl ctx wgx : Nat) (lh : LogHeader) (k i : Nat) :
    (s.settleRecords cl ctx wgx lh k i).Dooms n := by
  induction k generalizing s i with
  | zero => exact h
  | succ k ih =>
    unfold State.settleRecords
    dsimp only
    split
    next => exact ih h _
    next b t hr =>
      have ht : t.Dooms n := h.of_ctxs (readArea_ctxs hr)
      refine ih ?_ _
      split
      · split
        next hw => exact ht.hwWrite hw
        next => exact ht
      · exact ht

theorem settleLog (h : s.Dooms n) (cl ctx wgx : Nat) : (s.settleLog cl ctx wgx).Dooms n := by
  unfold State.settleLog
  split
  · exact (h.of_ctxs (charge_ctxs s _)).settleRecords _ _ _ _ _ _
  · exact h

/-! ### Shadows, barriers and stores at their homes -/

theorem shadowFail (h : s.Dooms n) (cl ctx wgx : Nat) (e : Nat × Nat) (access : Nat) :
    (s.shadowFail cl ctx wgx e access).Dooms n := by
  unfold State.shadowFail
  refine hwFault ?_ _ _ _ _ _ _ _
  split
  · exact h.of_ctxs rfl
  · exact h

theorem entryFail (h : s.Dooms n) (cl : Nat) (e : DivEntry) (f : Nat × Nat) (access : Nat) :
    (s.entryFail cl e f access).Dooms n := shadowFail (s := s.updDiv cl _ _) (h.of_ctxs rfl) _ _ _ _ _

theorem wake (h : s.Dooms n) (t : WTag) (gen code : Nat) : (s.wake t gen code).Dooms n := by
  unfold State.wake
  split
  · exact h.of_ctxs rfl
  · split
    next => exact h
    next a _ =>
      have ha (f : Away → Away) : (s.updAway t.cl a.1 f).Dooms n := h.of_ctxs rfl
      dsimp only
      split
      next hw => exact (ha _).hwWrite hw
      next => exact (ha _).shadowFail _ _ _ _ _

theorem releaseLine (h : s.Dooms n) (pa : Nat) (gen : Waiter → Nat) (code : Nat) : (s.releaseLine pa gen code).Dooms n :=
  foldl (s := s.setSlice _ _) (h.of_ctxs rfl) _ fun _ _ h => h.wake _ _ _

theorem touchBarrier (h : s.Dooms n) (pa : Nat) : (s.touchBarrier pa).Dooms n := by
  unfold State.touchBarrier
  split
  · exact (h.releaseLine pa Waiter.gen outcomeBroken).of_ctxs ((setBarrierLine_ctxs _ _ _).trans (charge_ctxs _ _))
  · exact h

theorem homeStore (h : s.Dooms n) (pa : Nat) (bs : List Byte) : (s.homeStore pa bs).Dooms n := by
  unfold State.homeStore
  dsimp only
  split
  · exact foldl (s := s.store pa bs) (h.of_ctxs rfl) _ fun s l h => (h.of_ctxs (touchQueue_ctxs s _)).touchBarrier _
  · exact h.of_ctxs rfl

theorem vaultStore (h : s.Dooms n) {ctx pa len : Nat} {put : Nat → State → State} {t : State}
    (hput : ∀ a, (put a s).Dooms n) (ht : s.vaultStore ctx pa put len = some t) : t.Dooms n := by
  unfold State.vaultStore at ht
  split at ht
  · cases ht; exact hput _
  · cases ht
  · cases ht; exact h.entryFail _ _ _ _

/-! ### The Millrace -/

theorem saveMill (h : s.Dooms n) (cl : Nat) (m : Mill) : (s.saveMill cl m).Dooms n := by
  unfold State.saveMill
  dsimp only
  refine foldl ?_ _ fun s x h => ?_
  · exact h.of_mupd rfl fun _ hc => hc
  · split
    next hw => exact h.hwWrite hw
    next => exact h.hwFault _ _ _ _ _ _ _

theorem restoredMill (h : s.Dooms n) (cl : Nat) (m : Mill) : (s.restoredMill cl m).2.Dooms n := by
  unfold State.restoredMill
  split
  next hr => exact h.of_ctxs (readArea_ctxs hr)
  next => exact h.hwFault _ _ _ _ _ _ _

/-- What a workgroup's array comes back as, and what reading it leaves. -/
theorem takeMill_saved (h : s.Dooms n) (cl ctx slot : Nat) :
    (match s.savedMill cl ctx slot with
      | some m => s.restoredMill cl m
      | none => (Mill.fresh ctx slot, s)).2.Dooms n := by
  split
  · exact h.restoredMill cl _
  · exact h

theorem takeMill (h : s.Dooms n) (cl ctx slot : Nat) : (s.takeMill cl ctx slot).Dooms n := by
  unfold State.takeMill
  refine of_mupd (takeMill_saved ?_ cl ctx slot) rfl fun _ hc => hc
  split
  · exact h.saveMill cl _
  · exact h

theorem returnMill (h : s.Dooms n) (cl : Nat) : (s.returnMill cl).Dooms n := by
  unfold State.returnMill
  dsimp only
  split
  · split
    · exact h
    · exact h.takeMill _ _ _
  · exact h

theorem freeMill (h : s.Dooms n) (cl ctx slot : Nat) : (s.freeMill cl ctx slot).Dooms n := by
  unfold State.freeMill
  refine returnMill ?_ cl
  split
  · exact h.of_mupd rfl fun _ hc => hc
  · exact h.of_mupd rfl fun _ hc => hc

/-! ### The end of a launch on a cluster, and a slot that is freed -/

theorem placeWrite (h : s.Dooms n) {launch ctx pa ca : Nat} {bs : List Byte} {t : State}
    (ht : s.placeWrite launch ctx pa ca bs = some t) : t.Dooms n := by
  unfold State.placeWrite at ht
  dsimp only at ht
  split at ht
  · cases ht; exact h.of_ctxs (postWrite_ctxs s _ _ _ _)
  · cases ht; exact h.of_ctxs (askLink_ctxs s _ _ _ _)
  · exact h.vaultStore (fun a => homeStore (h.of_ctxs (charge_ctxs s _)) a bs) ht

theorem tableWrite (h : s.Dooms n) {launch cl ctx fuel va : Nat} {bs : List Byte} {t : State}
    (ht : s.tableWrite launch cl ctx fuel va bs = .ok t) : t.Dooms n := by
  induction fuel generalizing s va bs with
  | zero => cases ht; exact h
  | succ fuel ih =>
    unfold State.tableWrite at ht
    dsimp only at ht
    split at ht
    · cases ht; exact h
    · split at ht
      · cases ht
      · split at ht
        · cases ht
        next hp => exact ih (placeWrite (h.of_ctxs (cacheUse_ctxs s _ _ _)) hp) ht

theorem settleProfile (h : s.Dooms n) (cl launch : Nat) : (s.settleProfile cl launch).Dooms n := by
  unfold State.settleProfile
  split
  · exact h
  · dsimp only
    split
    · exact h
    · split
      · exact h.of_ctxs rfl
      · split
        next ht =>
          refine tableWrite ?_ ht
          exact h.of_ctxs rfl
        next =>
          refine hwFault ?_ _ _ _ _ _ _ _
          exact h.of_ctxs rfl
        next => exact h

theorem countEnd (h : s.Dooms n) (cl launch : Nat) : (s.countEnd cl launch).Dooms n := by
  refine settleProfile ?_ cl launch
  exact h.of_ctxs rfl

theorem spillPut (h : s.Dooms n) {cl ctx : Nat} {q : SpillHeader} {r : SpawnRec} {t : State}
    (ht : s.spillPut cl ctx q r = .ok t) : t.Dooms n := by
  unfold State.spillPut at ht
  split at ht
  · cases ht
  next hw => exact (h.hwWrite hw).hwWrite ht

theorem spillRecs (h : s.Dooms n) (cl ctx : Nat) (b : Bin) (l : List (List Word)) : (s.spillRecs cl ctx b l).2.2.Dooms n := by
  induction l generalizing s with
  | nil => exact h
  | cons r t ih =>
    unfold State.spillRecs
    dsimp only
    split
    · exact h
    · have hc : (s.charge (s.spillUses cl ctx)).Dooms n := h.of_ctxs (charge_ctxs s _)
      split
      next => exact hc
      next hp => exact ih (hc.spillPut hp)

theorem spillBins (h : s.Dooms n) (cl ctx : Nat) : (s.spillBins cl ctx).Dooms n := by
  unfold State.spillBins
  dsimp only
  split
  · refine foldl_carried (fun acc : Nat × Option (Nat × Nat) × State => acc.2.2) _ ?_ ?_
    · exact fun acc b ha => ha.spillRecs cl ctx b.2 b.2.recs
    · exact h.of_ctxs rfl
  · refine hwFault (foldl_carried (fun acc : Nat × Option (Nat × Nat) × State => acc.2.2) _ ?_ ?_) _ _ _ _ _ _ _
    · exact fun acc b ha => ha.spillRecs cl ctx b.2 b.2.recs
    · exact h.of_ctxs rfl

theorem dropSlot (h : s.Dooms n) (cl ctx : Nat) : (s.dropSlot cl ctx).Dooms n := (h.spillBins cl ctx).of_ctxs rfl

theorem settleLife (h : s.Dooms n) (ctx : Nat) : (s.settleLife ctx).Dooms n :=
  h.of_mupd rfl fun c hc => by rw [if_pos hc]; exact hc

theorem settleSlot (h : s.Dooms n) (cl ctx : Nat) : (s.settleSlot cl ctx).Dooms n := by
  unfold State.settleSlot
  refine settleLife ?_ ctx
  split
  · exact h
  · split
    · exact h
    · exact (h.foldl _ fun _ r h => h.appendRecord r).dropSlot cl ctx

/-! ### What a destruction removes -/

theorem endWg (h : s.Dooms n) (cl slot : Nat) (g : Wg) : (s.endWg cl slot g).Dooms n := by
  refine settleSlot (countEnd (settleLog (freeMill ?_ cl g.ctx slot) cl g.ctx g.wgx) cl g.launch) cl g.ctx
  exact h.of_ctxs rfl

theorem discardWg (h : s.Dooms n) (cl slot : Nat) : (s.discardWg cl slot).Dooms n := by
  unfold State.discardWg
  split
  · exact h
  · refine endWg ?_ cl slot _
    refine of_ctxs (foldl h _ fun s row h => ?_) rfl
    exact (h.of_ctxs (leaveQueues_ctxs s cl row)).of_ctxs (quiesce_ctxs _ cl row)

theorem discardAway (h : s.Dooms n) (cl key : Nat) : (s.discardAway cl key).Dooms n := by
  unfold State.discardAway
  split
  · exact h
  · refine countEnd (settleLog (freeMill ?_ cl _ _) cl _ _) cl _
    exact h.of_ctxs rfl

theorem discardOn (h : s.Dooms n) (ctx cl : Nat) : (s.discardOn ctx cl).Dooms n := by
  unfold State.discardOn
  refine settleSlot (foldl ?_ _ fun _ e h => h.countEnd cl e.launch) cl ctx
  refine foldl ?_ _ fun _ key h => h.discardAway cl key
  refine foldl ?_ _ fun _ slot h => h.discardWg cl slot
  exact h.of_ctxs rfl

end State.Dooms

/-! ### Tables -/

theorem mget_map {α β : Type} (m : SMap α) (f : Nat → α → β) (n : Nat) :
    mget (m.map (fun x => (x.1, f x.1 x.2))) n = (mget m n).map (f n) := by
  induction m with
  | nil => rfl
  | cons e t ih =>
    obtain ⟨k, a⟩ := e
    by_cases h : n = k
    · simp [mget, h]
    · simpa [mget, h] using ih

theorem mem_of_mget {α : Type} {m : SMap α} {n : Nat} {a : α} (h : mget m n = some a) : (n, a) ∈ m := by
  induction m with
  | nil => cases h
  | cons e t ih =>
    obtain ⟨k, b⟩ := e
    by_cases hk : n = k
    · simp only [mget, hk, if_true, Option.some.injEq] at h
      simp [hk, h]
    · simp only [mget, hk, if_false] at h
      exact List.mem_cons_of_mem _ (ih h)

theorem mget_mupd_same {α : Type} (m : SMap α) (n : Nat) (f : α → α) : mget (mupd m n f) n = (mget m n).map f := by
  cases h : mget m n with
  | none => simp [mupd_none f h, h]
  | some a => simp [mupd_some f h]

/-! ### Queues -/

/-- There is a place for a queue: the device's, or that of a partition that exists. -/
def State.HasQueue (s : State) (part : Nat) : Prop := part = deviceQueue ∨ (mget s.parts part).isSome = true

/-- Setting a queue changes partitions and the device, and nothing else. -/
theorem setQueue_eq (s : State) (part q : Nat) (r : RingQueue) :
    s.setQueue part q r = { s with parts := (s.setQueue part q r).parts, dev := (s.setQueue part q r).dev } := by
  unfold State.setQueue
  split <;> rfl

@[simp] theorem setQueue_mem (s : State) (part q : Nat) (r : RingQueue) : (s.setQueue part q r).mem = s.mem := by
  rw [setQueue_eq]
@[simp] theorem setQueue_ctxs (s : State) (part q : Nat) (r : RingQueue) : (s.setQueue part q r).ctxs = s.ctxs := by
  rw [setQueue_eq]
@[simp] theorem setQueue_clusters (s : State) (part q : Nat) (r : RingQueue) :
    (s.setQueue part q r).clusters = s.clusters := by rw [setQueue_eq]
@[simp] theorem setQueue_slices (s : State) (part q : Nat) (r : RingQueue) : (s.setQueue part q r).slices = s.slices := by
  rw [setQueue_eq]
@[simp] theorem setQueue_hostOut (s : State) (part q : Nat) (r : RingQueue) :
    (s.setQueue part q r).hostOut = s.hostOut := by rw [setQueue_eq]
@[simp] theorem setQueue_nextId (s : State) (part q : Nat) (r : RingQueue) : (s.setQueue part q r).nextId = s.nextId := by
  rw [setQueue_eq]

theorem queue_congr {s t : State} (hp : t.parts = s.parts) (hd : t.dev = s.dev) (part q : Nat) :
    t.queue part q = s.queue part q := by
  simp [State.queue, hp, hd]

theorem hasQueue_congr {s t : State} (hp : t.parts = s.parts) {part : Nat} (h : s.HasQueue part) : t.HasQueue part := by
  unfold State.HasQueue
  rwa [hp]

/-- A command queue that exists holds what it was set to. -/
theorem queue_setQueue_same {s : State} {part : Nat} (r : RingQueue) (h : s.HasQueue part) :
    (s.setQueue part commandQueue r).queue part commandQueue = r := by
  unfold State.queue State.setQueue
  by_cases hd : part = deviceQueue
  · simp [hd]
  · obtain ⟨p, hp⟩ := Option.isSome_iff_exists.mp (h.resolve_left hd)
    simp [hd, mget_mupd_same, hp]

theorem hasQueue_setQueue {s : State} {part : Nat} (q : Nat) (r : RingQueue) (h : s.HasQueue part) :
    (s.setQueue part q r).HasQueue part := by
  refine h.imp_right fun hp => ?_
  unfold State.setQueue
  split
  · exact hp
  · simpa [mget_mupd_same] using hp

/-- A queue that has reached a command exists. -/
theorem hasQueue_of_cmd {s : State} {part : Nat} {c : Command} (h : (s.queue part commandQueue).cmd = some c) :
    s.HasQueue part := by
  by_cases hd : part = deviceQueue
  · exact .inl hd
  · refine .inr ?_
    simp only [State.queue, hd, if_false] at h
    cases hp : mget s.parts part with
    | none => simp [hp] at h
    | some p => rfl

/-! ### Commands -/

/-- The command a queue has reached, after it is changed. -/
theorem cmd_updCmd {s : State} {queue : Nat} {c : Command} (f : Command → Command)
    (h : (s.queue queue commandQueue).cmd = some c) :
    ((s.updCmd queue f).queue queue commandQueue).cmd = some (f c) := by
  unfold State.updCmd State.updQueue
  rw [queue_setQueue_same _ (hasQueue_of_cmd h)]
  simp [h]

theorem resulted_resultIs {s : State} {queue : Nat} {c : Command} (n : Nat) (h : (s.queue queue commandQueue).cmd = some c) :
    (s.resultIs queue n).resulted queue n c := cmd_updCmd _ h

@[simp] theorem updCmd_mem (s : State) (queue : Nat) (f : Command → Command) : (s.updCmd queue f).mem = s.mem :=
  setQueue_mem _ _ _ _
@[simp] theorem updCmd_ctxs (s : State) (queue : Nat) (f : Command → Command) : (s.updCmd queue f).ctxs = s.ctxs :=
  setQueue_ctxs _ _ _ _
@[simp] theorem updCmd_clusters (s : State) (queue : Nat) (f : Command → Command) :
    (s.updCmd queue f).clusters = s.clusters := setQueue_clusters _ _ _ _
@[simp] theorem updCmd_slices (s : State) (queue : Nat) (f : Command → Command) : (s.updCmd queue f).slices = s.slices :=
  setQueue_slices _ _ _ _
@[simp] theorem updCmd_hostOut (s : State) (queue : Nat) (f : Command → Command) :
    (s.updCmd queue f).hostOut = s.hostOut := setQueue_hostOut _ _ _ _

@[simp] theorem resultIs_mem (s : State) (queue n : Nat) : (s.resultIs queue n).mem = s.mem := updCmd_mem _ _ _
@[simp] theorem resultIs_ctxs (s : State) (queue n : Nat) : (s.resultIs queue n).ctxs = s.ctxs := updCmd_ctxs _ _ _
@[simp] theorem resultIs_clusters (s : State) (queue n : Nat) : (s.resultIs queue n).clusters = s.clusters :=
  updCmd_clusters _ _ _
@[simp] theorem resultIs_slices (s : State) (queue n : Nat) : (s.resultIs queue n).slices = s.slices := updCmd_slices _ _ _
@[simp] theorem resultIs_hostOut (s : State) (queue n : Nat) : (s.resultIs queue n).hostOut = s.hostOut :=
  updCmd_hostOut _ _ _

theorem cmdDue_eq_some {s : State} {queue op : Nat} {c : Command} :
    s.cmdDue queue op = some c ↔
      (s.queue queue commandQueue).cmd = some c ∧ c.op = op ∧ c.result = none ∧ c.waitingFor = [] := by
  simp [State.cmdDue, Option.filter_eq_some_iff, and_assoc]

section
variable {s : State} {queue op part : Nat} {c : Command}

theorem cmd_of_commandDue (h : s.commandDue queue op c part) : (s.queue queue commandQueue).cmd = some c :=
  (cmdDue_eq_some.mp h.1).1

/-- A command that is due, and whose form is sound, is carried out. -/
theorem soundCommand_sound {sound : Command → Nat → Nat → Bool} {body : Command → Nat → Nat → State}
    (h : s.commandDue queue op c part) (hs : sound c part (c.argA queue) = true) :
    s.soundCommand queue op sound body = .next (body c part (c.argA queue)) := by
  obtain ⟨hc, rfl, hp⟩ := h
  obtain ⟨p, hp⟩ := Option.isSome_iff_exists.mp hp
  simp [State.soundCommand, hc, hs, hp]

/-- A command that is due, and whose form is not sound, is malformed. -/
theorem soundCommand_malformed {sound : Command → Nat → Nat → Bool} {body : Command → Nat → Nat → State}
    (h : s.commandDue queue op c part) (hs : sound c part (c.argA queue) = false) :
    s.soundCommand queue op sound body = .next (s.resultIs queue resMalformed) := by
  obtain ⟨hc, rfl, -⟩ := h
  simp [State.soundCommand, hc, hs]

theorem command_due {body : Command → Nat → Nat → State} (h : s.commandDue queue op c part) :
    s.command queue op body = .next (body c part (c.argA queue)) := soundCommand_sound h rfl

end

/-! ### CTX_CREATE (11 R194, R198; 25 R352) -/

section
variable {s : State} {queue part : Nat} {c : Command} {record : List Byte}

/-- A record in bytes that the device does not reach is an address outside the partition. -/
theorem execCtxCreate_beyond (h : s.commandDue queue opCtxCreate c part) (hl : record.length = 512)
    (hb : hostSpan c.b 512 = false) : execCtxCreate queue record s = .next (s.resultIs queue resNotOwned) := by
  unfold execCtxCreate
  rw [if_neg (not_not_intro hl), soundCommand_sound h (by simp [hb])]
  simp [hb]

/-- A record of the wrong form is malformed. -/
theorem execCtxCreate_malformed (h : s.commandDue queue opCtxCreate c part) (hl : record.length = 512)
    (hb : hostSpan c.b 512 = true) (hr : recordOk (s.clustersOf part).length record = false) :
    execCtxCreate queue record s = .next (s.resultIs queue resMalformed) := by
  unfold execCtxCreate
  rw [if_neg (not_not_intro hl), soundCommand_malformed h (by simp [hb, hr])]

/-- A record of the right form makes its context, where that is free. -/
theorem execCtxCreate_sound (h : s.commandDue queue opCtxCreate c part) (hl : record.length = 512)
    (hb : hostSpan c.b 512 = true) (hr : recordOk (s.clustersOf part).length record = true) :
    execCtxCreate queue record s = .next
      (if s.ctxElsewhere part (c.argA queue) then s.resultIs queue resNotOwned
       else if (mget s.ctxs (c.argA queue)).isSome then s.resultIs queue resState
       else { s with ctxs := mset s.ctxs (c.argA queue) (ctxOfRecord part record) }.resultIs queue resDone) := by
  unfold execCtxCreate
  rw [if_neg (not_not_intro hl), soundCommand_sound h (by simp [hb, hr])]
  simp [hb]

theorem ctxCreate_results (h : s.commandDue queue opCtxCreate c part) (hl : record.length = 512) :
    let ctx := c.argA queue
    let ok := recordOk (s.clustersOf part).length record
    (2 ^ 49 < c.b + 512 → ∃ t, exec (.ctxCreate queue record) s = .next t ∧ t.resulted queue 2 c ∧ t.ctxs = s.ctxs) ∧
    (c.b + 512 ≤ 2 ^ 49 →
    (ok = false → ∃ t, exec (.ctxCreate queue record) s = .next t ∧ t.resulted queue 1 c ∧ t.ctxs = s.ctxs) ∧
    (ok = true → s.ctxElsewhere part ctx = true →
      ∃ t, exec (.ctxCreate queue record) s = .next t ∧ t.resulted queue 2 c ∧ t.ctxs = s.ctxs) ∧
    (ok = true → s.ctxElsewhere part ctx = false → (mget s.ctxs ctx).isSome = true →
      ∃ t, exec (.ctxCreate queue record) s = .next t ∧ t.resulted queue 3 c ∧ t.ctxs = s.ctxs) ∧
    (ok = true → s.ctxElsewhere part ctx = false → mget s.ctxs ctx = none →
      ∃ t, exec (.ctxCreate queue record) s = .next t ∧ t.resulted queue 0 c ∧
        mget t.ctxs ctx = some (ctxOfRecord part record) ∧ (∀ m, m ≠ ctx → mget t.ctxs m = mget s.ctxs m) ∧
        t.mem = s.mem)) := by
  have hc := cmd_of_commandDue h
  refine ⟨fun hb => ?_, fun hb => ?_⟩
  · have hb : hostSpan c.b 512 = false := decide_eq_false (Nat.not_le.mpr hb)
    exact ⟨_, execCtxCreate_beyond h hl hb, resulted_resultIs _ hc, resultIs_ctxs _ _ _⟩
  have hb : hostSpan c.b 512 = true := decide_eq_true hb
  refine ⟨fun hr => ⟨_, execCtxCreate_malformed h hl hb hr, resulted_resultIs _ hc, resultIs_ctxs _ _ _⟩,
    fun hr he => ?_, fun hr he hs => ?_, fun hr he hs => ?_⟩
  all_goals have hx := execCtxCreate_sound h hl hb hr
  · rw [if_pos he] at hx
    exact ⟨_, hx, resulted_resultIs _ hc, resultIs_ctxs _ _ _⟩
  · rw [if_neg (by simp [he]), if_pos hs] at hx
    exact ⟨_, hx, resulted_resultIs _ hc, resultIs_ctxs _ _ _⟩
  · rw [if_neg (by simp [he]), if_neg (by simp [hs])] at hx
    refine ⟨_, hx, resulted_resultIs _ hc, ?_, fun m hm => ?_, resultIs_mem _ _ _⟩
    · rw [resultIs_ctxs]
      exact mget_mset_same _ _ _
    · rw [resultIs_ctxs]
      exact mget_mset_ne _ _ hm

end

/-! ### CTX_DESTROY (01 R23) -/

/-- A cluster without the bins of a context. -/
def Cluster.dropBins (k : Cluster) (ctx : Nat) : Cluster := { k with bins := k.bins.filter (fun b => b.2.ctx ≠ ctx) }

/-- A cluster has no workgroup and no slot of a context, and nothing waits to start on it. -/
def Cluster.Quiet (k : Cluster) (ctx : Nat) : Prop :=
  k.hosts ctx = false ∧ k.startQ = [] ∧ ∀ e, e ∈ k.slots → e.2.ctx ≠ ctx

/-- A context with no slot on a cluster has none to lose there. -/
theorem settleSlot_of_noSlot {s : State} {cl ctx : Nat} (h : ∀ e, e ∈ (s.cluster cl).slots → e.2.ctx ≠ ctx) :
    s.settleSlot cl ctx = s.settleLife ctx := by
  have hn : (s.cluster cl).slots.find? (fun x => x.2.ctx == ctx) = none := by simpa using h
  simp only [State.settleSlot, hn]

/-- On a quiet cluster a destruction drops the context's bins, and nothing else. -/
theorem discardOn_quiet {s : State} {ctx cl : Nat} (h : (s.cluster cl).Quiet ctx) :
    s.discardOn ctx cl = (s.setCluster cl ((s.cluster cl).dropBins ctx)).settleLife ctx := by
  obtain ⟨hh, hq, hs⟩ := h
  have hk : ({ s.cluster cl with startQ := [], bins := (s.cluster cl).bins.filter (fun b => b.2.ctx ≠ ctx) } : Cluster) =
      (s.cluster cl).dropBins ctx := by simp [Cluster.dropBins, ← hq]
  have hwa : ((s.cluster cl).wgs.filter (fun g => g.2.ctx == ctx)) = [] ∧
      ((s.cluster cl).away.filter (fun a => a.2.wg.ctx == ctx)) = [] := by
    simpa [Cluster.hosts, List.filter_eq_nil_iff] using hh
  unfold State.discardOn
  simp only [hq, List.filter_nil, hk, cluster_setCluster_same]
  rw [show ((s.cluster cl).dropBins ctx).wgs = (s.cluster cl).wgs from rfl, hwa.1]
  simp only [List.map_nil, List.foldl_nil, cluster_setCluster_same]
  rw [show ((s.cluster cl).dropBins ctx).away = (s.cluster cl).away from rfl, hwa.2]
  refine settleSlot_of_noSlot ?_
  simp only [List.map_nil, List.foldl_nil, cluster_setCluster_same]
  exact hs

theorem cluster_discardOn_quiet {s : State} {ctx cl : Nat} (h : (s.cluster cl).Quiet ctx) (n : Nat) :
    (s.discardOn ctx cl).cluster n = if n = cl then (s.cluster n).dropBins ctx else s.cluster n := by
  rw [discardOn_quiet h]
  show (s.setCluster cl _).cluster n = _
  split
  next e => rw [e, cluster_setCluster_same]
  next e => exact cluster_setCluster_ne s _ e

theorem Cluster.dropBins_dropBins (k : Cluster) (ctx : Nat) : (k.dropBins ctx).dropBins ctx = k.dropBins ctx := by
  simp [Cluster.dropBins]

/-- Over quiet clusters a destruction leaves memory, partitions and the device alone, and drops the context's bins. -/
theorem discard_quiet (l : List Nat) {s : State} {ctx : Nat} (h : ∀ cl, cl ∈ l → (s.cluster cl).Quiet ctx) :
    let t := l.foldl (fun s cl => s.discardOn ctx cl) s
    t.mem = s.mem ∧ t.parts = s.parts ∧ t.dev = s.dev ∧
      ∀ n, t.cluster n = if n ∈ l then (s.cluster n).dropBins ctx else s.cluster n := by
  induction l generalizing s with
  | nil => exact ⟨rfl, rfl, rfl, fun n => rfl⟩
  | cons cl l ih =>
    have hcl : (s.cluster cl).Quiet ctx := h cl (by simp)
    have hat := cluster_discardOn_quiet hcl
    obtain ⟨hm, hp, hd, hk⟩ := ih (s := s.discardOn ctx cl) fun x hx => by
      -- dropping bins keeps a cluster quiet
      have hq : (s.cluster x).Quiet ctx := h x (List.mem_cons_of_mem _ hx)
      rw [hat]
      split <;> exact hq
    have hs := discardOn_quiet hcl
    refine ⟨hm.trans (by rw [hs]; rfl), hp.trans (by rw [hs]; rfl), hd.trans (by rw [hs]; rfl), fun n => ?_⟩
    rw [List.foldl_cons, hk, hat]
    by_cases hn : n = cl <;> by_cases hl : n ∈ l <;> simp [hn, hl, Cluster.dropBins_dropBins]

section
variable {s : State} {queue part : Nat} {c : Command} {x : Ctx}

/-- A context that is free or already being destroyed cannot be destroyed. -/
theorem execCtxDestroy_state (h : s.commandDue s.subj.a opCtxDestroy c part)
    (he : s.ctxElsewhere part (c.argA s.subj.a) = false)
    (hx : ∀ x, mget s.ctxs (c.argA s.subj.a) = some x → x.life = .destroying) :
    execCtxDestroy s = .next (s.resultIs s.subj.a resState) := by
  unfold execCtxDestroy
  rw [command_due h]
  simp only [he]
  cases hm : mget s.ctxs (c.argA s.subj.a) with
  | none => rfl
  | some x => simp [hx x hm]

/-- A destruction begins: the context is marked, and what it has on the partition's clusters goes. -/
def State.beginDestroy (s : State) (part ctx : Nat) (x : Ctx) : State :=
  (s.clustersOf part).foldl (fun s cl => s.discardOn ctx cl)
    { s with ctxs := mset s.ctxs ctx { x with life := .destroying } }

/-- Any other context of the partition begins to be destroyed, and the command waits for it. -/
theorem execCtxDestroy_begin (h : s.commandDue s.subj.a opCtxDestroy c part)
    (he : s.ctxElsewhere part (c.argA s.subj.a) = false) (hm : mget s.ctxs (c.argA s.subj.a) = some x)
    (hx : x.life ≠ .destroying) :
    execCtxDestroy s = .next ((s.beginDestroy part (c.argA s.subj.a) x).updCmd s.subj.a
      (fun d => { d with waitingFor := [c.argA s.subj.a] })) := by
  unfold execCtxDestroy
  rw [command_due h]
  simp only [he, hm, hx]
  rfl

theorem beginDestroy_dooms (s : State) (part ctx : Nat) (x : Ctx) : (s.beginDestroy part ctx x).Dooms ctx :=
  State.Dooms.foldl ⟨_, mget_mset_same _ _ _, rfl⟩ _ fun _ cl h => h.discardOn ctx cl

theorem ctxDestroy_results (h : s.commandDue s.subj.a opCtxDestroy c part)
    (he : s.ctxElsewhere part (c.argA s.subj.a) = false) :
    let ctx := c.argA s.subj.a
    (mget s.ctxs ctx = none → ∃ t, exec .ctxDestroy s = .next t ∧ t.resulted s.subj.a 3 c) ∧
    (mget s.ctxs ctx = some x → x.life = .destroying → ∃ t, exec .ctxDestroy s = .next t ∧ t.resulted s.subj.a 3 c) ∧
    (mget s.ctxs ctx = some x → x.life ≠ .destroying → ∃ t, exec .ctxDestroy s = .next t ∧
      (∃ y, mget t.ctxs ctx = some y ∧ y.life = .destroying) ∧
      ((∀ cl, cl ∈ s.clustersOf part → (s.cluster cl).hosts ctx = false ∧ (s.cluster cl).startQ = [] ∧
          ∀ e, e ∈ (s.cluster cl).slots → e.2.ctx ≠ ctx) →
        (t.queue s.subj.a commandQueue).cmd = some { c with waitingFor := [ctx] } ∧ t.mem = s.mem ∧
          ∀ cl, cl ∈ s.clustersOf part → ∀ b, b ∈ (t.cluster cl).bins → b.2.ctx ≠ ctx)) := by
  have hc := cmd_of_commandDue h
  refine ⟨fun hm => ?_, fun hm hx => ?_, fun hm hx => ?_⟩
  · exact ⟨_, execCtxDestroy_state h he (by simp [hm]), resulted_resultIs _ hc⟩
  · exact ⟨_, execCtxDestroy_state h he (by simp [hm, hx]), resulted_resultIs _ hc⟩
  · refine ⟨_, execCtxDestroy_begin h he hm hx, ?_, fun hq => ?_⟩
    · rw [updCmd_ctxs]
      exact beginDestroy_dooms s part _ x
    · obtain ⟨hmem, hparts, hdev, hk⟩ := discard_quiet (s.clustersOf part)
        (s := { s with ctxs := mset s.ctxs (c.argA s.subj.a) { x with life := .destroying } }) hq
      refine ⟨cmd_updCmd _ ((congrArg RingQueue.cmd (queue_congr hparts hdev _ _)).trans hc),
        (updCmd_mem _ _ _).trans hmem, fun cl hcl b hb => ?_⟩
      have hbins : b ∈ ((s.cluster cl).dropBins (c.argA s.subj.a)).bins := by
        have := hk cl
        rw [if_pos hcl] at this
        rw [← show _ = (s.cluster cl).dropBins (c.argA s.subj.a) from this]
        simpa [State.cluster, State.beginDestroy] using hb
      simpa using (List.mem_filter.mp hbins).2

end

/-! ### The end of a destruction (01 R23; 25 R352) -/

/-- Handing a log over moves lines of slices and posts to the host, and nothing else. -/
theorem handOver_eq (s : State) (queue ctx link addr len : Nat) :
    (s.handOver queue ctx link addr len).2 =
      { s with
        slices := (s.handOver queue ctx link addr len).2.slices
        hostOut := (s.handOver queue ctx link addr len).2.hostOut } := by
  unfold State.handOver
  dsimp only
  split
  · rw [charge_slices]
    dsimp only
    split
    · rfl
    · unfold State.postWrite
      split <;> rfl
  · rfl

/-- A machine in which nothing of a context is left. -/
def State.forgetCtx (s : State) (ctx : Nat) : State :=
  { s with
    ctxs := mdel s.ctxs ctx, clusters := s.clusters.map (fun k => (k.1, k.2.forget ctx))
    slices := s.slices.map (fun x => (x.1, x.2.forget ctx)), ops := s.ops.filter (fun o => o.2.tag.ctx ≠ ctx) }

theorem forgetCtx_cluster (s : State) (ctx n : Nat) : (s.forgetCtx ctx).cluster n = (s.cluster n).forget ctx := by
  simp only [State.forgetCtx, State.cluster, mgetD, mget_map s.clusters (fun _ k => k.forget ctx)]
  cases mget s.clusters n <;> rfl

theorem forgetCtx_slice (s : State) (ctx n : Nat) : (s.forgetCtx ctx).slice n = (s.slice n).forget ctx := by
  simp only [State.forgetCtx, State.slice, mgetD, mget_map s.slices (fun _ x => x.forget ctx)]
  cases mget s.slices n <;> rfl

theorem execDestructionComplete_due {s : State} {c : Command} {ctx : Nat} {l : List Nat}
    (hc : (s.queue s.subj.a commandQueue).cmd = some c) (hop : c.op = opCtxDestroy) (hr : c.result = none)
    (hw : c.waitingFor = ctx :: l) (hb : s.ctxBusy ctx = false) :
    let out := s.handOver s.subj.a ctx (s.queue s.subj.a commandQueue).link c.b c.c
    execDestructionComplete s = .next ((out.2.forgetCtx ctx).resultIs s.subj.a out.1) := by
  have hf : (s.queue s.subj.a commandQueue).cmd.filter (fun c => c.op == opCtxDestroy && c.result.isNone) = some c := by
    simp [hc, Option.filter, hop, hr]
  unfold execDestructionComplete
  simp only [hf, hw, hb]
  rfl

theorem destructionComplete_results {s : State} {c : Command} {ctx : Nat} {l : List Nat}
    (hc : (s.queue s.subj.a commandQueue).cmd = some c) (hop : c.op = opCtxDestroy) (hr : c.result = none)
    (hw : c.waitingFor = ctx :: l) (hb : s.ctxBusy ctx = false) :
    let out := s.handOver s.subj.a ctx (s.queue s.subj.a commandQueue).link c.b c.c
    ∃ t, exec .destructionComplete s = .next t ∧ mget t.ctxs ctx = none ∧ t.resulted s.subj.a out.1 c ∧
      t.hostOut = out.2.hostOut ∧ t.mem = s.mem ∧
      (∀ n b m, mget (t.slice n).mboxes b = some m → m.ctx ≠ ctx) ∧
      ∀ cl e, e ∈ (t.cluster cl).slots → e.2.ctx ≠ ctx := by
  intro out
  have hmem : out.2.mem = s.mem := by rw [handOver_eq]
  have hparts : (out.2.forgetCtx ctx).parts = s.parts := (congrArg State.parts (handOver_eq ..) :)
  have hdev : (out.2.forgetCtx ctx).dev = s.dev := (congrArg State.dev (handOver_eq ..) :)
  refine ⟨_, execDestructionComplete_due hc hop hr hw hb, ?_, resulted_resultIs _ ?_, resultIs_hostOut _ _ _, ?_,
    fun n b m hm => ?_, fun cl e he => ?_⟩
  · rw [resultIs_ctxs]
    exact mget_mdel_same _ _
  · rwa [queue_congr hparts hdev]
  · exact (resultIs_mem _ _ _).trans hmem
  · have hs : mget ((out.2.slice n).forget ctx).mboxes b = some m := by
      rw [← forgetCtx_slice]
      simpa [State.slice] using hm
    simpa using (List.mem_filter.mp (mem_of_mget hs)).2
  · have hs : e ∈ ((out.2.cluster cl).forget ctx).slots := by
      rw [← forgetCtx_cluster]
      simpa [State.cluster] using he
    simpa using (List.mem_filter.mp hs).2

/-! ### Completion of commands (25 R353) -/

/-- Bytes that the device does not reach are not posted (01 R25). -/
theorem postWrite_hostOut (s : State) (fn link addr : Nat) (bs : List Byte) :
    (s.postWrite fn link addr bs).hostOut =
      s.hostOut ++ if 2 ^ 49 < addr + bs.length then [] else [.write fn link addr bs] := by
  unfold State.postWrite busLimit
  split
  next h => rw [if_neg (Nat.not_lt.mpr h)]; rfl
  next h => rw [if_pos (Nat.not_le.mp h)]; exact (List.append_nil _).symm

theorem postWrite_eq (s : State) (fn link addr : Nat) (bs : List Byte) :
    s.postWrite fn link addr bs = { s with hostOut := (s.postWrite fn link addr bs).hostOut } := by
  unfold State.postWrite
  split <;> rfl

theorem queueMsix_eq (s : State) (part vec : Nat) :
    s.queueMsix part vec = { s with hostOut := (s.queueMsix part vec).hostOut } := by
  unfold State.queueMsix
  split <;> rfl

/-- Raising a queue's vector posts it for the queue's function. -/
theorem queueMsix_hostOut (s : State) (part vec : Nat) :
    ∃ l, (s.queueMsix part vec).hostOut = s.hostOut ++ l ∧
      .msix (if part = deviceQueue then physicalFn else part) vec ∈ l := by
  unfold State.queueMsix
  split
  · exact ⟨[.msix physicalFn vec], rfl, by simp⟩
  · exact ⟨[.msix part vec, .msix physicalFn vec], by simp [State.postMsix, State.post], by simp⟩

/-- What becomes of a kick is a wave's matter: the clusters alone change. -/
theorem kickReturn_eq (s : State) (from? : Option WTag) (code : Nat) :
    s.kickReturn from? code = { s with clusters := (s.kickReturn from? code).clusters } := by
  unfold State.kickReturn
  split
  · rfl
  · split <;> rfl

@[simp] theorem queue_queueMsix (s : State) (p vec part q : Nat) : (s.queueMsix p vec).queue part q = s.queue part q := by
  rw [queueMsix_eq]
  rfl
@[simp] theorem queue_kickReturn (s : State) (from? : Option WTag) (code part q : Nat) :
    (s.kickReturn from? code).queue part q = s.queue part q := by
  rw [kickReturn_eq]
  rfl
@[simp] theorem kickReturn_hostOut (s : State) (from? : Option WTag) (code : Nat) :
    (s.kickReturn from? code).hostOut = s.hostOut := by rw [kickReturn_eq]
theorem hasQueue_kickReturn {s : State} (from? : Option WTag) (code : Nat) {part : Nat} (h : s.HasQueue part) :
    (s.kickReturn from? code).HasQueue part := hasQueue_congr (by rw [kickReturn_eq]) h

section
variable {s : State} {part : Nat}

/-- A queue that halts keeps its command and NEXT, and posts its vector. -/
theorem haltQueue_results (status : Nat) (h : s.HasQueue part)
    (hp : (s.queue part commandQueue).pendingKicks = []) :
    let t := s.haltQueue part commandQueue status
    (t.queue part commandQueue).cmd = (s.queue part commandQueue).cmd ∧
      (t.queue part commandQueue).next = (s.queue part commandQueue).next ∧ ∃ l, t.hostOut = s.hostOut ++ l := by
  unfold State.haltQueue
  simp only [hp, List.foldl_nil, queue_queueMsix, queue_kickReturn, queue_setQueue_same _ h, true_and]
  obtain ⟨l, hl, -⟩ := queueMsix_hostOut (State.kickReturn _ _ _) part 2
  exact ⟨l, hl.trans (by rw [kickReturn_hostOut, setQueue_hostOut])⟩

/-- A ring entry that the device reaches is asked for. -/
theorem readRing_asks (ha : (s.queue part commandQueue).entryAddr + 64 ≤ 2 ^ 49) :
    s.readRing part commandQueue =
      { s with
        nextId := s.nextId + 1
        hostReqs := mset s.hostReqs s.nextId
          { ask := .packetRead part commandQueue, fn := part, link := (s.queue part commandQueue).link
            addr := (s.queue part commandQueue).entryAddr, len := 64 } } :=
  if_neg (Nat.not_lt.mpr ha)

/-- A ring entry that the device does not reach halts the queue (01 R25). -/
theorem readRing_halts (ha : ¬ (s.queue part commandQueue).entryAddr + 64 ≤ 2 ^ 49) :
    s.readRing part commandQueue = s.haltQueue part commandQueue haltRing :=
  if_pos (Nat.not_le.mp ha)

theorem nextKicks_nil (s : State) (part q : Nat) :
    s.nextKicks part q [] = s.updQueue part q (fun r => { r with pendingKicks := [] }) := rfl

/-- OnKick returns, with no kick behind it. -/
theorem endKick_results (h : s.HasQueue part) (hp : (s.queue part commandQueue).pendingKicks = []) :
    let t := s.endKick part commandQueue
    t.queue part commandQueue = { s.queue part commandQueue with kick := none } ∧ t.hostOut = s.hostOut := by
  unfold State.endKick
  simp only [hp, nextKicks_nil, State.updQueue]
  rw [queue_setQueue_same _ (hasQueue_kickReturn _ _ (hasQueue_setQueue _ _ h))]
  simp [queue_setQueue_same _ h]

/-- A command taken: NEXT advances; OnKick reads on, and halts where the device does not reach the entry, or returns. -/
theorem advanceNext_results {k : Kick} (h : s.HasQueue part) (hk : (s.queue part commandQueue).kick = some k)
    (hp : (s.queue part commandQueue).pendingKicks = []) :
    let r := s.queue part commandQueue
    let next := (r.next + 1) % 2 ^ 32
    let t := s.advanceNext part commandQueue
    (t.queue part commandQueue).cmd = r.cmd ∧ (t.queue part commandQueue).next = next ∧
      (∃ l, t.hostOut = s.hostOut ++ l) ∧
      (kickGap k.seq next < 2 ^ 31 → RingQueue.entryAddr { r with next := next } + 64 ≤ 2 ^ 49 →
        s.ringAsked t part commandQueue { r with next := next }) ∧
      (2 ^ 31 ≤ kickGap k.seq next → (t.queue part commandQueue).kick = none) := by
  intro r next t
  let r1 : RingQueue := { r with next := next, kick := some { k with rereads := 0, reading := true, packet := none } }
  let s1 := s.setQueue part commandQueue r1
  have ht : t = if kickGap k.seq next < 2 ^ 31 then s1.readRing part commandQueue else s1.endKick part commandQueue := by
    show s.advanceNext part commandQueue = _
    simp only [State.advanceNext, hk]
    rfl
  have h1 : s1.HasQueue part := hasQueue_setQueue _ _ h
  have hq : s1.queue part commandQueue = r1 := queue_setQueue_same _ h
  have ho : s1.hostOut = s.hostOut := setQueue_hostOut _ _ _ _
  by_cases hg : kickGap k.seq next < 2 ^ 31
  · rw [if_pos hg] at ht
    by_cases ha : (s1.queue part commandQueue).entryAddr + 64 ≤ 2 ^ 49
    · rw [readRing_asks ha] at ht
      have htq : t.queue part commandQueue = r1 := by rw [ht]; exact hq
      refine ⟨by rw [htq], by rw [htq], ⟨[], by rw [ht, List.append_nil]; exact ho⟩, fun _ _ => ?_,
        fun hg' => absurd hg (Nat.not_lt.mpr hg')⟩
      unfold State.ringAsked
      rw [ht, ← setQueue_nextId s part commandQueue r1]
      exact (mget_mset_same _ _ _).trans (by rw [hq]; rfl)
    · rw [readRing_halts ha] at ht
      obtain ⟨hc, hn, l, hl⟩ := haltQueue_results haltRing h1 (by rw [hq]; exact hp)
      rw [← ht, hq] at hc hn
      rw [← ht, ho] at hl
      exact ⟨hc, hn, ⟨l, hl⟩, fun _ ha' => absurd (by rwa [hq]) ha, fun hg' => absurd hg (Nat.not_lt.mpr hg')⟩
  · rw [if_neg hg] at ht
    obtain ⟨htq, hto⟩ := endKick_results h1 (by rw [hq]; exact hp)
    rw [← ht, hq] at htq
    rw [← ht, ho] at hto
    exact ⟨by rw [htq], by rw [htq], ⟨[], by rw [hto, List.append_nil]⟩, fun hg' => absurd hg' hg, fun _ => by rw [htq]⟩

end

/-- A command's completion before the queue goes on: the command leaves its queue, and its word and vector 1 are posted. -/
def State.postCompletion (s : State) (queue : Nat) (c : Command) (n : Nat) : State :=
  let r := s.queue queue commandQueue
  let s := s.setQueue queue commandQueue { r with cmd := none }
  let s := if c.done = 0 then s else s.postWrite queue r.link c.done (natToBytes 8 (c.seq + n * 2 ^ 32))
  s.queueMsix queue 1

/-- Beside the queue's command, what the host is told is all that a completion changes. -/
theorem postCompletion_eq (s : State) (queue : Nat) (c : Command) (n : Nat) :
    s.postCompletion queue c n =
      { s.setQueue queue commandQueue { s.queue queue commandQueue with cmd := none } with
        hostOut := (s.postCompletion queue c n).hostOut } := by
  unfold State.postCompletion
  dsimp only
  rw [queueMsix_eq]
  split
  · rfl
  · rw [postWrite_eq]

theorem queue_postCompletion {s : State} {queue : Nat} (c : Command) (n : Nat) (h : s.HasQueue queue) :
    (s.postCompletion queue c n).queue queue commandQueue = { s.queue queue commandQueue with cmd := none } := by
  rw [postCompletion_eq]
  exact queue_setQueue_same _ h

theorem hasQueue_postCompletion {s : State} {queue : Nat} (c : Command) (n : Nat) (h : s.HasQueue queue) :
    (s.postCompletion queue c n).HasQueue queue :=
  hasQueue_congr (congrArg State.parts (postCompletion_eq s queue c n) :) (hasQueue_setQueue _ _ h)

theorem postCompletion_nextId (s : State) (queue : Nat) (c : Command) (n : Nat) :
    (s.postCompletion queue c n).nextId = s.nextId := by
  rw [postCompletion_eq]
  exact setQueue_nextId _ _ _ _

/-- The completion word, where one is asked for and the device reaches its place, and vector 1. -/
theorem postCompletion_hostOut (s : State) (queue : Nat) (c : Command) (n : Nat) :
    ∃ l, (s.postCompletion queue c n).hostOut = s.hostOut ++ (if c.done = 0 ∨ 2 ^ 49 < c.done + 8 then []
        else [.write queue (s.queue queue commandQueue).link c.done (natToBytes 8 (c.seq + n * 2 ^ 32))]) ++ l ∧
      .msix (if queue = deviceQueue then physicalFn else queue) 1 ∈ l := by
  unfold State.postCompletion
  dsimp only
  obtain ⟨l, hl, hm⟩ := queueMsix_hostOut (if c.done = 0 then s.setQueue queue commandQueue _ else
    State.postWrite (s.setQueue queue commandQueue _) queue _ c.done (natToBytes 8 (c.seq + n * 2 ^ 32))) queue 1
  refine ⟨l, hl.trans (congrArg (· ++ l) ?_), hm⟩
  by_cases hd : c.done = 0
  · simp [hd]
  · have hlen : (natToBytes 8 (c.seq + n * 2 ^ 32)).length = 8 := rfl
    rw [if_neg hd, postWrite_hostOut, hlen, setQueue_hostOut]
    simp only [hd, false_or]

theorem execCommandCompletion_due {s : State} {c : Command} {n : Nat}
    (hc : (s.queue s.subj.a commandQueue).cmd = some c) (hn : c.result = some n) :
    execCommandCompletion s = .next ((s.postCompletion s.subj.a c n).advanceNext s.subj.a commandQueue) := by
  simp only [execCommandCompletion, hc, hn]
  rfl

theorem commandCompletion_results {s : State} {c : Command} {n : Nat} {k : Kick}
    (hc : (s.queue s.subj.a commandQueue).cmd = some c) (hn : c.result = some n)
    (hk : (s.queue s.subj.a commandQueue).kick = some k) (hp : (s.queue s.subj.a commandQueue).pendingKicks = []) :
    let r := s.queue s.subj.a commandQueue
    let next := (r.next + 1) % 2 ^ 32
    ∃ t rest, exec .commandCompletion s = .next t ∧ (t.queue s.subj.a commandQueue).cmd = none ∧
      (t.queue s.subj.a commandQueue).next = next ∧
      t.hostOut = s.hostOut ++ (if c.done = 0 ∨ 2 ^ 49 < c.done + 8 then []
        else [.write s.subj.a r.link c.done (natToBytes 8 (c.seq + n * 2 ^ 32))]) ++ rest ∧
      (.msix (if s.subj.a = deviceQueue then physicalFn else s.subj.a) 1) ∈ rest ∧
      (kickGap k.seq next < 2 ^ 31 → RingQueue.entryAddr { r with next := next } + 64 ≤ 2 ^ 49 →
        s.ringAsked t s.subj.a commandQueue { r with next := next }) ∧
      (2 ^ 31 ≤ kickGap k.seq next → (t.queue s.subj.a commandQueue).kick = none) := by
  intro r next
  have h := hasQueue_of_cmd hc
  have hq := queue_postCompletion c n h
  obtain ⟨hcmd, hnext, ⟨l2, hl2⟩, hask, hkick⟩ := advanceNext_results (k := k) (hasQueue_postCompletion c n h)
    (by rw [hq]; exact hk) (by rw [hq]; exact hp)
  obtain ⟨l1, hl1, hm⟩ := postCompletion_hostOut s s.subj.a c n
  rw [hq] at hcmd hnext hask hkick
  unfold State.ringAsked at hask ⊢
  rw [postCompletion_nextId] at hask
  refine ⟨_, l1 ++ l2, execCommandCompletion_due hc hn, hcmd, hnext, ?_, List.mem_append_left _ hm, hask, hkick⟩
  rw [hl2, hl1, List.append_assoc]

/-- Settles O50: the result of CTX_CREATE by the conditions in the order in which the model tests them; a destruction stands
through everything that CTX_DESTROY removes (`State.Dooms`), and on quiet clusters removes bins alone; its end and a command's
completion by what handing over a log, posting and reading the ring leave alone. -/
theorem contextCommands : Obligations.ContextCommands := by
  unfold Obligations.ContextCommands
  refine ⟨fun queue part record s c h hl => ctxCreate_results h hl, fun part s c x h => ?_, ?_, ?_⟩
  · exact fun he => ctxDestroy_results h he
  · exact fun s c ctx l hc hop hr hw hb => destructionComplete_results hc hop hr hw hb
  · exact fun s c n k hc hn hk hp => commandCompletion_results hc hn hk hp

/-! ### The copy of a checkpoint (08 R143; 25 R360) -/

/-- A cluster with no workgroup has none to put aside. -/
theorem putAside_of_noWgs {s : State} {cl : Nat} (h : (s.cluster cl).wgs = []) : s.putAside cl = (false, s) := by
  simp [State.putAside, h, State.evictable]

theorem foldl_putAside_of_noWgs (l : List Nat) {s : State} (h : ∀ cl, cl ∈ l → (s.cluster cl).wgs = []) :
    l.foldl (fun (st : Bool × State) cl => (st.1 || (st.2.putAside cl).1, (st.2.putAside cl).2)) (false, s) = (false, s) := by
  induction l with
  | nil => rfl
  | cons cl l ih =>
    rw [List.foldl_cons, putAside_of_noWgs (h cl List.mem_cons_self)]
    exact ih fun x hx => h x (List.mem_cons_of_mem _ hx)

/-- The copy of a partition at rest is made at once. -/
theorem execCheckpointCopy_atRest {s : State} {p : Part} (hp : mget s.parts s.subj.a = some p)
    (hc : p.checkpointing = true)
    (hr : ∀ cl, cl ∈ s.clustersOf s.subj.a → (s.cluster cl).divQuiet = true ∧ (s.cluster cl).wgs = [])
    (hb : s.partBusy s.subj.a = false) : execCheckpointCopy s = .next (s.checkpointDone s.subj.a) := by
  have hq : (s.clustersOf s.subj.a).any (fun cl => !(s.cluster cl).divQuiet) = false := by
    simpa using fun cl hcl => (hr cl hcl).1
  have hf := foldl_putAside_of_noWgs (s.clustersOf s.subj.a) fun cl hcl => (hr cl hcl).2
  simp [execCheckpointCopy, hp, hc, hq, hf, hb]

/-- An entry of a diversion table whose eviction is done. -/
def activeEntry : DivEntry :=
  { state := .active, kind := .regs, ctx := 1, wgslot := 0, lo := 0, n := 0, shadow := 0 }

/-- The index at which the copy puts a diversion entry of cluster 0 at the start of column 1's checkpoint area. -/
def strayIndex : Nat := (ckptArea 1 - ckptEntries 0) / 16

/-- Partition 0, of column 0 alone, waits for the copy of its checkpoint, with nothing resident and nothing under way; the
diversion table of cluster 0 lists an entry beyond the sixteen that a table has (08 R130). -/
def strayEntryState : State :=
  { State.reset with
    parts := [(0, { cols := [0], share := 0, ready := true, home := [], checkpointing := true })]
    clusters := [(0, { div := [(strayIndex, activeEntry)] })] }

/-- The copy puts STATE and KIND of that entry into the area of column 1. -/
theorem strayEntry_copied : memByte (strayEntryState.checkpointDone 0).mem (ckptArea 1 + 7) = 0x98 := by decide +kernel

/-- Refutes O53: no hypothesis bounds the indices that a diversion table lists, and the copy writes entry i of cluster n at
`ckptEntries n + 16 * i`. An index past the sixteen entries of a table (08 R130) reaches the checkpoint area of a column that
is not the partition's, so memory outside the partition's areas does not stay. -/
theorem not_checkpointCommands : ¬ Obligations.CheckpointCommands := by
  unfold Obligations.CheckpointCommands
  rintro ⟨-, hcopy, -⟩
  have hrest : ∀ cl, cl ∈ strayEntryState.clustersOf 0 →
      (strayEntryState.cluster cl).divQuiet = true ∧ (strayEntryState.cluster cl).wgs = [] := by decide +kernel
  have hbusy : strayEntryState.partBusy 0 = false := by decide +kernel
  obtain ⟨t, q, ht, -, -, -, hkept, -⟩ := hcopy strayEntryState _ rfl rfl hrest hbusy rfl rfl
  cases ht.symm.trans (execCheckpointCopy_atRest (s := strayEntryState) rfl rfl hrest hbusy)
  -- the byte lies outside column 0's area and was zero
  have hzero : memByte (strayEntryState.checkpointDone 0).mem (ckptArea 1 + 7) = 0 := hkept _ (by decide +kernel)
  exact absurd (hzero.symm.trans strayEntry_copied) (by decide)

end Sys2Proof.Machine

/-!
PROOFS. Translation: the commands that copy memory, shoot translations down and release records (O51).
-/
namespace Sys2Proof.Machine

/-! ### Bytes of memory -/

/-- What a byte reads after a write. -/
theorem memByte_memWrite (m : List Host.Cell) (pa : Nat) (bs : List Byte) (a : Nat) :
    memByte (memWrite m pa bs) a = if pa ≤ a ∧ a < pa + bs.length then bs.getD (a - pa) 0 else memByte m a := by
  induction bs generalizing m pa with
  | nil => rw [if_neg (by rw [List.length_nil]; omega)]; rfl
  | cons b t ih =>
    show memByte (memWrite (memSetByte m pa b) (pa + 1) t) a = _
    rw [ih, List.length_cons]
    obtain hlt | rfl | hgt := Nat.lt_trichotomy a pa
    · rw [if_neg (by omega), if_neg (by omega), memByte_memSetByte_ne m b (by omega)]
    · rw [if_neg (by omega), if_pos (by omega), memByte_memSetByte_same, Nat.sub_self, List.getD_cons_zero]
    · obtain ⟨i, rfl⟩ := Nat.exists_eq_add_of_lt hgt
      rw [memByte_memSetByte_ne m b (by omega), show pa + i + 1 - pa = i + 1 by omega, List.getD_cons_succ,
        show pa + i + 1 - (pa + 1) = i by omega]
      exact ite_congr (propext (by omega)) (fun _ => rfl) fun _ => rfl

theorem memRead_add (m : List Host.Cell) (a x y : Nat) : memRead m a (x + y) = memRead m a x ++ memRead m (a + x) y := by
  induction x generalizing a with
  | zero => simp [memRead]
  | succ x ih =>
    rw [Nat.succ_add, memRead, ih, memRead, List.cons_append, Nat.succ_add_eq_add_succ]

@[simp] theorem length_memRead (m : List Host.Cell) (a n : Nat) : (memRead m a n).length = n := by
  induction n generalizing a with
  | zero => rfl
  | succ n ih => rw [memRead, List.length_cons, ih]

/-! ### The barrier engine's lines stay -/

/-- The slices' lists of barrier lines are as they were, as is what gives an address its home. -/
def State.SameBarriers (s t : State) : Prop :=
  t.parts = s.parts ∧ t.dev = s.dev ∧ ∀ n, (t.slice n).barriers = (s.slice n).barriers

theorem State.SameBarriers.trans {s t u : State} (h : s.SameBarriers t) (k : t.SameBarriers u) : s.SameBarriers u := by
  obtain ⟨hp, hd, hb⟩ := h
  obtain ⟨kp, kd, kb⟩ := k
  exact ⟨kp.trans hp, kd.trans hd, fun n => (kb n).trans (hb n)⟩

/-- Where an address is homed rests on the partitions and the device alone. -/
theorem homeOf_congr {s t : State} (hp : t.parts = s.parts) (hd : t.dev = s.dev) (part pa : Nat) :
    t.homeOf part pa = s.homeOf part pa := by
  have hcol (c : Nat) : t.partOfCol c = s.partOfCol c := by rw [State.partOfCol, State.partOfCol, hp]
  simp only [State.homeOf, State.homeIn, State.ownerOf, State.partOfCluster, State.granuleOwner, hcol, hp, hd]

theorem State.SameBarriers.barriers_contains {s t : State} (h : s.SameBarriers t) (pa : Nat) :
    (t.slice (t.lineHome pa)).barriers.contains pa = (s.slice (s.lineHome pa)).barriers.contains pa := by
  obtain ⟨hp, hd, hb⟩ := h
  rw [hb, State.lineHome, homeOf_congr hp hd]
  rfl

/-- A slice changed but for its barriers. -/
theorem sameBarriers_setSlice (s : State) {n : Nat} {x : Slice} (h : x.barriers = (s.slice n).barriers) :
    s.SameBarriers (s.setSlice n x) := by
  refine ⟨rfl, rfl, fun m => ?_⟩
  by_cases hm : m = n
  · rw [hm, slice_setSlice_same, h]
  · rw [slice_setSlice_ne s x hm]

theorem draw_barriers (x : Slice) (n : Nat) (lapsed : Bool) : (x.draw n lapsed).barriers = x.barriers := by
  unfold Slice.draw
  dsimp only
  split <;> rfl

theorem sameBarriers_chargeLine (s : State) (u : Nat × LineUse) : s.SameBarriers (s.chargeLine u) :=
  sameBarriers_setSlice s (draw_barriers _ _ _)

theorem sameBarriers_charge (s : State) (l : List (Nat × LineUse)) : s.SameBarriers (s.charge l) := by
  unfold State.charge
  induction l generalizing s with
  | nil => exact ⟨rfl, rfl, fun _ => rfl⟩
  | cons u t ih => exact (sameBarriers_chargeLine s u).trans (ih _)

theorem sameBarriers_store (s : State) (pa : Nat) (bs : List Byte) : s.SameBarriers (s.store pa bs) := by
  refine ⟨rfl, rfl, fun n => ?_⟩
  simp only [State.store, State.slice, mgetD, mget_map s.slices (fun _ x => x.dropKeys pa bs.length)]
  cases mget s.slices n <;> rfl

theorem sameBarriers_touchQueue (s : State) (pa : Nat) : s.SameBarriers (s.touchQueue pa) := by
  unfold State.touchQueue
  dsimp only
  split
  · exact sameBarriers_setSlice s rfl
  · exact ⟨rfl, rfl, fun _ => rfl⟩

theorem touchQueue_mem (s : State) (pa : Nat) : (s.touchQueue pa).mem = s.mem := by
  unfold State.touchQueue
  dsimp only
  split <;> rfl

/-! ### Stores clear of barrier lines (16 R286) -/

/-- A write to a line that is no barrier's touches a task queue at most. -/
theorem touchLine_of_noBarrier {s : State} {pa : Nat}
    (h : (s.slice (s.lineHome pa)).barriers.contains pa = false) : s.touchLine pa = s.touchQueue pa := by
  have ht := ((sameBarriers_touchQueue s pa).barriers_contains pa).trans h
  unfold State.touchLine State.touchBarrier
  rw [ht]
  rfl

theorem foldl_touchLine_of_noBarrier (ls : List Nat) {s : State}
    (h : ∀ l, l ∈ ls → (s.slice (s.lineHome (64 * l))).barriers.contains (64 * l) = false) :
    let t := ls.foldl (fun s l => s.touchLine (64 * l)) s
    s.SameBarriers t ∧ t.mem = s.mem := by
  induction ls generalizing s with
  | nil => exact ⟨⟨rfl, rfl, fun _ => rfl⟩, rfl⟩
  | cons l ls ih =>
    have hq := sameBarriers_touchQueue s (64 * l)
    rw [List.foldl_cons, touchLine_of_noBarrier (h l List.mem_cons_self)]
    obtain ⟨hb, hm⟩ := ih fun k hk => (hq.barriers_contains _).trans (h k (List.mem_cons_of_mem _ hk))
    exact ⟨hq.trans hb, hm.trans (touchQueue_mem s _)⟩

theorem mem_rangeFrom {x i n : Nat} : x ∈ rangeFrom i n ↔ i ≤ x ∧ x < i + n := by
  induction n generalizing i with
  | zero => simp only [rangeFrom, List.not_mem_nil, false_iff]; omega
  | succ n ih => simp only [rangeFrom, List.mem_cons, ih]; omega

theorem noBarrier_of_sameBarriers {s t : State} {pa n : Nat} (h : s.SameBarriers t) (hn : s.noBarrier pa n) :
    t.noBarrier pa n := fun l hl hlt => (h.barriers_contains _).trans (hn l hl hlt)

/-- A store clear of barrier lines writes its bytes and no others. -/
theorem homeStore_of_noBarrier {s : State} {pa : Nat} {bs : List Byte} (hn : s.noBarrier pa bs.length) :
    s.SameBarriers (s.homeStore pa bs) ∧ (s.homeStore pa bs).mem = memWrite s.mem pa bs := by
  have hs := sameBarriers_store s pa bs
  unfold State.homeStore
  dsimp only
  split
  · obtain ⟨hb, hm⟩ := foldl_touchLine_of_noBarrier (s := s.store pa bs)
      (rangeFrom (pa / 64) ((pa % 64 + bs.length + 63) / 64)) fun l hl => by
        obtain ⟨hlo, hhi⟩ := mem_rangeFrom.mp hl
        exact noBarrier_of_sameBarriers hs hn l hlo (by omega)
    exact ⟨hs.trans hb, hm⟩
  · exact ⟨hs, rfl⟩

theorem firmwareStore_of_noBarrier {s : State} {pa : Nat} {bs : List Byte} (hn : s.noBarrier pa bs.length) :
    s.SameBarriers (s.firmwareStore pa bs) ∧ (s.firmwareStore pa bs).mem = memWrite s.mem pa bs := by
  unfold State.firmwareStore
  split
  next he => rw [List.isEmpty_iff.mp he]; exact ⟨⟨rfl, rfl, fun _ => rfl⟩, rfl⟩
  next =>
    have hc : s.SameBarriers (s.chargeWrite pa bs.length 1) := sameBarriers_charge s _
    obtain ⟨hb, hm⟩ := homeStore_of_noBarrier (noBarrier_of_sameBarriers hc hn)
    exact ⟨hc.trans hb, by rw [hm, chargeWrite_mem]⟩

/-! ### Where a command's result is put -/

/-- The command's queue holds the result, where the partitions and the device are still those that it was found in. -/
theorem resulted_of_parts_dev {s t : State} {queue : Nat} {c : Command} (n : Nat)
    (hc : (s.queue queue commandQueue).cmd = some c) (hp : t.parts = s.parts) (hd : t.dev = s.dev) :
    (t.resultIs queue n).resulted queue n c :=
  resulted_resultIs n (by rwa [queue_congr hp hd])

@[simp] theorem setQueue_shootdowns (s : State) (part q : Nat) (r : RingQueue) :
    (s.setQueue part q r).shootdowns = s.shootdowns := by rw [setQueue_eq]
@[simp] theorem updCmd_shootdowns (s : State) (queue : Nat) (f : Command → Command) :
    (s.updCmd queue f).shootdowns = s.shootdowns := setQueue_shootdowns _ _ _ _
@[simp] theorem resultIs_shootdowns (s : State) (queue n : Nat) : (s.resultIs queue n).shootdowns = s.shootdowns :=
  updCmd_shootdowns _ _ _

/-- Bytes of the host that a command names end where the device's reach does (01 R25). -/
theorem hostSpan_eq_true {addr n : Nat} (h : addr + n ≤ 2 ^ 49) : hostSpan addr n = true := decide_eq_true h

theorem hostSpan_eq_false {addr n : Nat} (h : 2 ^ 49 < addr + n) : hostSpan addr n = false :=
  decide_eq_false (Nat.not_le.mpr h)

/-- A copy is refused where the host's bytes are out of reach or the device's are not the partition's. -/
theorem copyRefused_of {s : State} {addr part pa n : Nat} (h : 2 ^ 49 < addr + n ∨ s.spanOwned part pa n = false) :
    (!hostSpan addr n || !s.spanOwned part pa n) = true := by
  obtain h | h := h
  · rw [hostSpan_eq_false h]; rfl
  · rw [h, Bool.not_false, Bool.or_true]

theorem copyRefused_eq_false {s : State} {addr part pa n : Nat} (h : addr + n ≤ 2 ^ 49)
    (ho : s.spanOwned part pa n = true) : (!hostSpan addr n || !s.spanOwned part pa n) = false := by
  rw [hostSpan_eq_true h, ho]
  rfl

/-! ### COPY_IN (25 R352) -/

section
variable {s : State} {queue part : Nat} {c : Command} {data : List Byte}

/-- COPY_IN with as many bytes as it asks for. -/
theorem execCopyIn_due (h : s.commandDue queue opCopyIn c part) (hl : data.length = c.c) :
    execCopyIn queue data s = .next
      (if !hostSpan (c.argA queue) c.c || !s.spanOwned part c.b c.c then s.resultIs queue resNotOwned
       else (s.firmwareStore c.b data).resultIs queue resDone) := by
  unfold execCopyIn
  rw [h.1]
  dsimp only
  rw [if_neg (not_not_intro hl), command_due h]

theorem copyIn_results (h : s.commandDue queue opCopyIn c part) (hl : data.length = c.c) :
    (2 ^ 49 < c.argA queue + c.c ∨ s.spanOwned part c.b c.c = false →
      ∃ t, exec (.copyIn queue data) s = .next t ∧ t.resulted queue 2 c ∧ t.mem = s.mem) ∧
    (c.argA queue + c.c ≤ 2 ^ 49 → s.spanOwned part c.b c.c = true → s.noBarrier c.b c.c →
      ∃ t, exec (.copyIn queue data) s = .next t ∧ t.resulted queue 0 c ∧ s.storedAt t c.b data) := by
  have hc := cmd_of_commandDue h
  have he := execCopyIn_due h hl
  refine ⟨fun hr => ?_, fun hb ho hn => ?_⟩
  · rw [if_pos (copyRefused_of hr)] at he
    exact ⟨_, he, resulted_resultIs _ hc, resultIs_mem _ _ _⟩
  · rw [if_neg (Bool.not_eq_true _ ▸ copyRefused_eq_false hb ho)] at he
    obtain ⟨⟨hp, hd, -⟩, hm⟩ := firmwareStore_of_noBarrier (bs := data) (hl.symm ▸ hn)
    refine ⟨_, he, resulted_of_parts_dev _ hc hp hd, fun a => ?_⟩
    rw [resultIs_mem, hm, memByte_memWrite]

end

/-! ### COPY_OUT (25 R352) -/

/-- Lines of which none is poisoned give the host memory's bytes. -/
theorem hostBytes_of_noPoison (n : Nat) {s : State} {pa : Nat} (h : ∀ k, k < n → s.poisoned (pa + 64 * k) 64 = false) :
    s.hostBytes pa n = (memRead s.mem pa (64 * n), s) := by
  induction n generalizing pa with
  | zero => rfl
  | succ n ih =>
    have hline : s.poisoned pa 64 = false := h 0 (Nat.succ_pos n)
    have hrest := ih (pa := pa + 64) fun k hk => by
      rw [show pa + 64 + 64 * k = pa + 64 * (k + 1) by omega]
      exact h (k + 1) (Nat.succ_lt_succ hk)
    simp only [State.hostBytes, hline, Bool.false_eq_true, if_false, hrest]
    rw [Nat.mul_succ, Nat.add_comm (64 * n), memRead_add]

section
variable {s : State} {part : Nat} {c : Command}

theorem execCopyOut_refused (h : s.commandDue s.subj.a opCopyOut c part)
    (hr : 2 ^ 49 < c.b + c.c ∨ s.spanOwned part (c.argA s.subj.a) c.c = false) :
    execCopyOut s = .next (s.resultIs s.subj.a resNotOwned) := by
  unfold execCopyOut
  dsimp only
  rw [command_due h, if_pos (copyRefused_of hr)]

/-- A copy of lines that are the partition's, none of them poisoned. -/
theorem execCopyOut_posts (h : s.commandDue s.subj.a opCopyOut c part) (hb : c.b + c.c ≤ 2 ^ 49)
    (ho : s.spanOwned part (c.argA s.subj.a) c.c = true) (hpos : 0 < c.c) (hlines : c.c % 64 = 0)
    (hp : ∀ k, k < c.c / 64 → s.poisoned (c.argA s.subj.a + 64 * k) 64 = false) :
    let u := s.chargeRead (c.argA s.subj.a) c.c 1
    execCopyOut s = .next ((u.postWrite s.subj.a (s.queue s.subj.a commandQueue).link c.b
      (memRead s.mem (c.argA s.subj.a) c.c)).resultIs s.subj.a resDone) := by
  intro u
  have hu : u = { s with slices := u.slices } := charge_slices s _
  have hbytes : u.hostBytes (c.argA s.subj.a) (c.c / 64) = (memRead s.mem (c.argA s.subj.a) c.c, u) := by
    rw [hostBytes_of_noPoison _ fun k hk => by rw [hu]; exact hp k hk, Nat.mul_div_cancel' (Nat.dvd_of_mod_eq_zero hlines),
      chargeRead_mem]
  have hsome : (memRead s.mem (c.argA s.subj.a) c.c).isEmpty = false := by
    rw [List.isEmpty_eq_false_iff, ← List.length_pos_iff, length_memRead]
    exact hpos
  have hq : u.queue s.subj.a commandQueue = s.queue s.subj.a commandQueue := by rw [hu]; rfl
  unfold execCopyOut
  dsimp only
  rw [command_due h, if_neg (Bool.not_eq_true _ ▸ copyRefused_eq_false hb ho), hbytes]
  simp only [hsome, hq]
  rfl

theorem copyOut_results (h : s.commandDue s.subj.a opCopyOut c part) :
    let pa := c.argA s.subj.a
    (2 ^ 49 < c.b + c.c ∨ s.spanOwned part pa c.c = false →
      ∃ t, exec .copyOut s = .next t ∧ t.resulted s.subj.a 2 c ∧ t.hostOut = s.hostOut) ∧
    (c.b + c.c ≤ 2 ^ 49 → s.spanOwned part pa c.c = true → 0 < c.c → c.c % 64 = 0 →
      (∀ k, k < c.c / 64 → s.poisoned (pa + 64 * k) 64 = false) →
      ∃ t, exec .copyOut s = .next t ∧ t.resulted s.subj.a 0 c ∧ t.mem = s.mem ∧
        t.hostOut = s.hostOut ++ [.write s.subj.a (s.queue s.subj.a commandQueue).link c.b (memRead s.mem pa c.c)]) := by
  intro pa
  have hc := cmd_of_commandDue h
  refine ⟨fun hr => ?_, fun hb ho hpos hlines hp => ?_⟩
  · exact ⟨_, execCopyOut_refused h hr, resulted_resultIs _ hc, resultIs_hostOut _ _ _⟩
  · have hu : s.chargeRead pa c.c 1 = { s with slices := (s.chargeRead pa c.c 1).slices } := charge_slices s _
    refine ⟨_, execCopyOut_posts h hb ho hpos hlines hp, resulted_of_parts_dev _ hc ?_ ?_, ?_, ?_⟩
    · rw [postWrite_eq, hu]
    · rw [postWrite_eq, hu]
    · rw [resultIs_mem, postWrite_eq, hu]
    · rw [resultIs_hostOut, postWrite_hostOut, length_memRead, if_neg (Nat.not_lt.mpr hb), hu]

end

/-! ### SHOOTDOWN (02 R40, R41) -/

theorem tbit_eq_testBit (n i : Nat) : tbit n i = n.testBit i := by
  rw [tbit, Nat.testBit_eq_decide_div_mod_eq, Nat.shiftRight_eq_div_pow]
  rfl

/-- The shootdown that a command orders of every cluster of its partition. -/
def State.orderedShootdown (s : State) (queue part : Nat) (c : Command) : Shootdown :=
  let a := c.argA queue
  { queue := queue, ctx := a % 4096, ranges := tbit a 12, pages := tbit a 13, acks := s.clustersOf part, waits := []
    lo := if c.c = 0 then 0 else c.b, hi := if c.c = 0 then 2 ^ 64 - 1 else c.b + 4096 * c.c - 1 }

/-- A shootdown of no pages is one of the whole space. -/
theorem orderedShootdown_covers_all (s : State) (queue part : Nat) {c : Command} {va n : Nat} (hc : c.c = 0)
    (hva : va < 2 ^ 64) (hn : 0 < n) : (s.orderedShootdown queue part c).covers va n = true := by
  simp only [Shootdown.covers, State.orderedShootdown, hc, if_true, Bool.and_eq_true, decide_eq_true_eq]
  omega

theorem orderedShootdown_covers_iff (s : State) (queue part : Nat) {c : Command} (hc : 0 < c.c) (va n : Nat) :
    (s.orderedShootdown queue part c).covers va n = true ↔ c.b < va + n ∧ va < c.b + 4096 * c.c := by
  simp only [Shootdown.covers, State.orderedShootdown, if_neg (Nat.ne_of_gt hc), Bool.and_eq_true, decide_eq_true_eq]
  omega

section
variable {s : State} {part : Nat} {c : Command}

theorem execShootdown_notOwned (h : s.commandDue s.subj.a opShootdown c part)
    (hx : s.ctxIn part (c.argA s.subj.a % 4096) = false) :
    execShootdown s = .next (s.resultIs s.subj.a resNotOwned) := by
  unfold execShootdown
  dsimp only
  rw [command_due h, hx]
  rfl

theorem execShootdown_ordered (h : s.commandDue s.subj.a opShootdown c part)
    (hx : s.ctxIn part (c.argA s.subj.a % 4096) = true) :
    execShootdown s = .next
      ({ s with
          nextId := s.nextId + 1
          shootdowns := mset s.shootdowns s.nextId (s.orderedShootdown s.subj.a part c) }.updCmd
        s.subj.a (fun d => { d with waitingFor := [s.nextId] })) := by
  unfold execShootdown
  dsimp only
  rw [command_due h, hx]
  rfl

theorem shootdown_results (h : s.commandDue s.subj.a opShootdown c part) :
    let a := c.argA s.subj.a
    (s.ctxIn part (a % 4096) = false → ∃ t, exec .shootdown s = .next t ∧ t.resulted s.subj.a 2 c) ∧
    (s.ctxIn part (a % 4096) = true → ∃ t d, exec .shootdown s = .next t ∧ mget t.shootdowns s.nextId = some d ∧
      d.queue = s.subj.a ∧ d.ctx = a % 4096 ∧ d.acks = s.clustersOf part ∧ d.waits = [] ∧
      (d.ranges = true ↔ a.testBit 12 = true) ∧ (d.pages = true ↔ a.testBit 13 = true) ∧
      (c.c = 0 → ∀ va n, va < 2 ^ 64 → 0 < n → d.covers va n = true) ∧
      (0 < c.c → ∀ va n, 0 < n → (d.covers va n = true ↔ c.b < va + n ∧ va < c.b + 4096 * c.c)) ∧
      (t.queue s.subj.a commandQueue).cmd = some { c with waitingFor := [s.nextId] }) := by
  intro a
  have hc := cmd_of_commandDue h
  refine ⟨fun hx => ⟨_, execShootdown_notOwned h hx, resulted_resultIs _ hc⟩, fun hx => ?_⟩
  refine ⟨_, s.orderedShootdown s.subj.a part c, execShootdown_ordered h hx, ?_, rfl, rfl, rfl, rfl, ?_, ?_,
    fun h0 va n => orderedShootdown_covers_all _ _ _ h0, fun hpos va n _ => orderedShootdown_covers_iff _ _ _ hpos va n,
    cmd_updCmd _ hc⟩
  · rw [updCmd_shootdowns]
    exact mget_mset_same _ _ _
  · rw [← tbit_eq_testBit]; rfl
  · rw [← tbit_eq_testBit]; rfl

end

/-! ### SHOOTDOWN_ACKNOWLEDGE (02 R40, R41) -/

section
variable (d : Shootdown) (k : Cluster)

/-- A translation that stays after a discard: another context's, one not covered, or, where no range entry changed, one that
no changed page entry could have given. -/
def Shootdown.Spares (e : Cached) : Prop :=
  e.ctx ≠ d.ctx ∨ d.covers e.lo (e.hi + 1 - e.lo) = false ∨ d.ranges = false ∧ (d.pages = false ∨ e.range = true)

theorem mem_discard_tcache (e : Cached) : e ∈ (d.discard k).tcache ↔ e ∈ k.tcache ∧ d.Spares e := by
  refine List.mem_filter.trans (and_congr_right fun _ => ?_)
  simp only [Shootdown.Spares, Bool.or_eq_true, decide_eq_true_eq, Bool.not_eq_true', Bool.or_eq_false_iff,
    Bool.and_eq_false_iff, Bool.not_eq_false', or_assoc]

theorem mem_discard_tables (e : TableCopy) : e ∈ (d.discard k).tables ↔ e ∈ k.tables ∧ d.dropsCopy e = false :=
  List.mem_filter.trans (and_congr_right fun _ => by rw [Bool.not_eq_true'])

theorem mem_discard_icache (b : CodeBlock) :
    b ∈ (d.discard k).icache ↔ b ∈ k.icache ∧ (b.ctx ≠ d.ctx ∨ d.covers b.va 32 = false) :=
  List.mem_filter.trans (and_congr_right fun _ => by simp)

end

/-- The machine with a cluster's discard for a shootdown carried out, and an identifier given out. -/
def State.discarded (s : State) (cl : Nat) (d : Shootdown) : State :=
  let s := s.newId.2.cancelFetches cl d.ctx (fun b => d.covers b 32)
  s.setCluster cl (d.discard (s.cluster cl))

/-- Fetches called back change waves alone. -/
theorem cluster_cancelFetches (s : State) (cl ctx : Nat) (p : Nat → Bool) :
    (s.cancelFetches cl ctx p).cluster cl =
      { s.cluster cl with waves := ((s.cancelFetches cl ctx p).cluster cl).waves } := by
  unfold State.cancelFetches
  simp only [cluster_setCluster_same]

/-- The cluster after its discard: what it discards does not rest on its waves. -/
theorem cluster_discarded (s : State) (cl : Nat) (d : Shootdown) :
    ∃ ws, (s.discarded cl d).cluster cl = d.discard { s.cluster cl with waves := ws } := by
  unfold State.discarded
  dsimp only
  rw [cluster_setCluster_same, cluster_cancelFetches]
  exact ⟨_, rfl⟩

section
variable {s : State} {id cl : Nat} {d : Shootdown}

theorem acknowledge_last (h : ∀ x, x ∈ d.acks → x = cl) :
    s.acknowledge id cl d = { s with shootdowns := mdel s.shootdowns id }.resultIs d.queue resDone := by
  have hl : (without cl d.acks).isEmpty = true := by simpa [without] using h
  exact if_pos hl

theorem acknowledge_more (h : ∃ x, x ∈ d.acks ∧ x ≠ cl) :
    s.acknowledge id cl d = { s with shootdowns := mset s.shootdowns id { d with acks := without cl d.acks } } := by
  have hl : ¬ (without cl d.acks).isEmpty = true := by simpa [without] using h
  exact if_neg hl

theorem acknowledge_mem : (s.acknowledge id cl d).mem = s.mem := by
  unfold State.acknowledge
  dsimp only
  split
  · exact resultIs_mem _ _ _
  · rfl

theorem acknowledge_clusters : (s.acknowledge id cl d).clusters = s.clusters := by
  unfold State.acknowledge
  dsimp only
  split
  · exact resultIs_clusters _ _ _
  · rfl

end

section
variable {s : State} {d : Shootdown}

/-- The shootdown once a cluster has discarded with nothing under way. -/
def Shootdown.awaited (d : Shootdown) (cl mark : Nat) : Shootdown :=
  { d with waits := mset d.waits cl [], marks := mset d.marks cl mark }

/-- A cluster with nothing under way discards and acknowledges in one step. -/
theorem execShootdownAcknowledge_quiet (hd : mget s.shootdowns s.subj.a = some d)
    (ha : d.acks.contains s.subj.b = true) (hw : mget d.waits s.subj.b = none) (hu : s.underWay s.subj.b d = [])
    (he : s.engineOut s.subj.b s.nextId d = false) :
    execShootdownAcknowledge s =
      .next ((s.discarded s.subj.b d).acknowledge s.subj.a s.subj.b (d.awaited s.subj.b s.nextId)) := by
  have hwaits : mgetD (d.awaited s.subj.b s.nextId).waits s.subj.b [] = [] := mgetD_mset_same _ _ _ _
  have hmark : mgetD (d.awaited s.subj.b s.nextId).marks s.subj.b 0 = s.nextId := mgetD_mset_same _ _ _ _
  have hout : (s.discarded s.subj.b d).engineOut s.subj.b s.nextId (d.awaited s.subj.b s.nextId) = false := he
  unfold execShootdownAcknowledge
  simp only [hd, ha, hw, hu, Bool.not_true, Bool.false_eq_true, if_false]
  refine if_neg ?_
  show ¬ ((mgetD (d.awaited s.subj.b s.nextId).waits s.subj.b []).any _ ||
    (s.discarded s.subj.b d).engineOut s.subj.b (mgetD (d.awaited s.subj.b s.nextId).marks s.subj.b 0)
      (d.awaited s.subj.b s.nextId)) = true
  rw [hwaits, hmark, hout]
  exact Bool.false_ne_true

/-- What the discard leaves in the cluster, whatever the acknowledgement completes. -/
theorem acknowledge_discarded (id cl : Nat) (d e : Shootdown) (s : State) :
    let k := ((s.discarded cl d).acknowledge id cl e).cluster cl
    (∀ e, e ∈ k.tcache ↔ e ∈ (s.cluster cl).tcache ∧ d.Spares e) ∧
    (∀ e, e ∈ k.tables ↔ e ∈ (s.cluster cl).tables ∧ d.dropsCopy e = false) ∧
    (∀ b, b ∈ k.icache ↔ b ∈ (s.cluster cl).icache ∧ (b.ctx ≠ d.ctx ∨ d.covers b.va 32 = false)) := by
  intro k
  obtain ⟨ws, hk⟩ := cluster_discarded s cl d
  have hk : k = d.discard { s.cluster cl with waves := ws } := by
    rw [← hk]
    exact congrArg (mgetD · cl {}) acknowledge_clusters
  rw [hk]
  exact ⟨mem_discard_tcache d _, mem_discard_tables d _, mem_discard_icache d _⟩

theorem shootdownAcknowledge_results (hd : mget s.shootdowns s.subj.a = some d) (ha : d.acks.contains s.subj.b = true)
    (hw : mget d.waits s.subj.b = none) (hu : s.underWay s.subj.b d = []) (he : s.engineOut s.subj.b s.nextId d = false) :
    ∃ t, exec .shootdownAcknowledge s = .next t ∧ t.mem = s.mem ∧
      (∀ e, e ∈ (t.cluster s.subj.b).tcache ↔ e ∈ (s.cluster s.subj.b).tcache ∧ d.Spares e) ∧
      (∀ e, e ∈ (t.cluster s.subj.b).tables ↔ e ∈ (s.cluster s.subj.b).tables ∧ d.dropsCopy e = false) ∧
      (∀ b, b ∈ (t.cluster s.subj.b).icache ↔ b ∈ (s.cluster s.subj.b).icache ∧ (b.ctx ≠ d.ctx ∨ d.covers b.va 32 = false)) ∧
      ((∀ x, x ∈ d.acks → x = s.subj.b) → mget t.shootdowns s.subj.a = none ∧
        ∀ c, (s.queue d.queue commandQueue).cmd = some c → t.resulted d.queue 0 c) ∧
      ((∃ x, x ∈ d.acks ∧ x ≠ s.subj.b) → ∃ d', mget t.shootdowns s.subj.a = some d' ∧
        d'.acks = d.acks.filter (fun x => x ≠ s.subj.b)) := by
  obtain ⟨htc, htab, hic⟩ := acknowledge_discarded s.subj.a s.subj.b d (d.awaited s.subj.b s.nextId) s
  refine ⟨_, execShootdownAcknowledge_quiet hd ha hw hu he, acknowledge_mem, htc, htab, hic, fun hl => ?_, fun hm => ?_⟩
  · rw [acknowledge_last (d := d.awaited s.subj.b s.nextId) hl]
    refine ⟨?_, fun c hc => resulted_of_parts_dev _ hc rfl rfl⟩
    rw [resultIs_shootdowns]
    exact mget_mdel_same _ _
  · rw [acknowledge_more (d := d.awaited s.subj.b s.nextId) hm]
    exact ⟨_, mget_mset_same _ _ _, rfl⟩

end

/-! ### LOG_FREE (08 R141; 25 R352) -/

theorem storeSpans_eq (s : State) (l : List (Nat × Nat × Nat)) (bs : List Byte) :
    s.storeSpans l bs =
      { s with
        mem := (s.storeSpans l bs).mem, poison := (s.storeSpans l bs).poison, slices := (s.storeSpans l bs).slices } := by
  induction l generalizing s bs with
  | nil => rfl
  | cons e t ih =>
    obtain ⟨pa, n, ca⟩ := e
    have hc : s.chargeWrite pa n ca = { s with slices := (s.chargeWrite pa n ca).slices } := charge_slices s _
    rw [State.storeSpans, ih, State.store, hc]

/-- A hardware write changes memory, its poison, and lines and feedback keys at their homes, and nothing else. -/
theorem hwWrite_eq {s t : State} {cl ctx va : Nat} {bs : List Byte} (hw : s.hwWrite cl ctx va bs = .ok t) :
    t = { s with mem := t.mem, poison := t.poison, slices := t.slices } := by
  unfold State.hwWrite at hw
  split at hw
  · cases hw
  · cases hw
    rw [storeSpans_eq, charge_slices]

section
variable {s : State} {part : Nat} {c : Command} {h : LogHeader}

/-- The index to be freed lies in a log that can be read exactly where no more records are freed than stand in it. -/
theorem logInRange_of_readLog {ctx i : Nat} (hctx : ctx ≠ 0) (hr : { s with old := [] }.readLog 0 ctx = .ok h) :
    s.logInRange ctx i = decide (h.before i ≤ h.held) := by
  unfold State.logInRange
  rw [if_neg hctx, hr]

theorem ctx_ne_zero_of_ctxIn {ctx : Nat} (hx : s.ctxIn part ctx = true) : ctx ≠ 0 := by
  rintro rfl
  cases hx

/-- The machine once the records that are to be freed have been read. -/
def State.logRead (s : State) (ctx : Nat) (h : LogHeader) (n : Nat) : State :=
  let u := { s with old := [] }
  u.charge (u.logUses ctx h h.free n)

theorem logRead_eq (s : State) (ctx : Nat) (h : LogHeader) (n : Nat) :
    s.logRead ctx h n = { s with old := [], slices := (s.logRead ctx h n).slices } := charge_slices _ _

section
variable (hd : s.commandDue s.subj.a opLogFree c part) (hx : s.ctxIn part (c.argA s.subj.a) = true)
  (hr : { s with old := [] }.readLog 0 (c.argA s.subj.a) = .ok h)
include hd hx hr

/-- More records than stand in the log are malformed. -/
theorem execLogFree_beyond (hn : h.held < h.before c.b) : execLogFree s = .next (s.resultIs s.subj.a resMalformed) := by
  have hout := (logInRange_of_readLog (ctx_ne_zero_of_ctxIn hx) hr).trans (decide_eq_false (Nat.not_le.mpr hn))
  unfold execLogFree
  dsimp only
  rw [soundCommand_malformed hd hout]

/-- Records of which some may not be released stay. -/
theorem execLogFree_refused (hn : h.before c.b ≤ h.held)
    (hz : { s with old := [] }.logResult (c.argA s.subj.a) h (h.before c.b) h.free resDone ≠ 0) :
    execLogFree s = .next ((s.logRead (c.argA s.subj.a) h (h.before c.b)).resultIs s.subj.a
      ({ s with old := [] }.logResult (c.argA s.subj.a) h (h.before c.b) h.free resDone)) := by
  have hin := (logInRange_of_readLog (ctx_ne_zero_of_ctxIn hx) hr).trans (decide_eq_true hn)
  unfold execLogFree
  dsimp only
  rw [soundCommand_sound hd hin]
  -- `hz` picks the branch of the results other than 0
  simp only [hx, hr, Bool.not_true, Bool.false_eq_true, if_false]
  rfl

/-- Delivered records are released by writing FREE. -/
theorem execLogFree_released {v : State} (hn : h.before c.b ≤ h.held)
    (hz : { s with old := [] }.logResult (c.argA s.subj.a) h (h.before c.b) h.free resDone = 0)
    (hw : (s.logRead (c.argA s.subj.a) h (h.before c.b)).hwWrite 0 (c.argA s.subj.a) ((s.ctxOf (c.argA s.subj.a)).flog + 16)
      (natToBytes 4 c.b) = .ok v) : execLogFree s = .next (v.resultIs s.subj.a resDone) := by
  have hin := (logInRange_of_readLog (ctx_ne_zero_of_ctxIn hx) hr).trans (decide_eq_true hn)
  unfold State.logRead at hw
  unfold execLogFree
  dsimp only
  rw [soundCommand_sound hd hin]
  simp only [hx, hr, hz, hw, Bool.not_true, Bool.false_eq_true, if_false]

end

theorem logFree_results (hd : s.commandDue s.subj.a opLogFree c part) (hx : s.ctxIn part (c.argA s.subj.a) = true)
    (hr : { s with old := [] }.readLog 0 (c.argA s.subj.a) = .ok h) :
    let ctx := c.argA s.subj.a
    let u := { s with old := [] }
    let n := (c.b + 2 ^ 32 - h.free) % 2 ^ 32
    let read := u.charge (u.logUses ctx h h.free n)
    ((h.write + 2 ^ 32 - h.free) % 2 ^ 32 < n → ∃ t, exec .logFree s = .next t ∧ t.resulted s.subj.a 1 c ∧ t.mem = s.mem) ∧
    (n ≤ (h.write + 2 ^ 32 - h.free) % 2 ^ 32 → u.logResult ctx h n h.free 0 ≠ 0 →
      ∃ t, exec .logFree s = .next t ∧ t.resulted s.subj.a (u.logResult ctx h n h.free 0) c ∧ t.mem = s.mem) ∧
    (∀ v, n ≤ (h.write + 2 ^ 32 - h.free) % 2 ^ 32 → u.logResult ctx h n h.free 0 = 0 →
      read.hwWrite 0 ctx ((s.ctxOf ctx).flog + 16) (natToBytes 4 c.b) = .ok v →
      ∃ t, exec .logFree s = .next t ∧ t.resulted s.subj.a 0 c ∧ t.mem = v.mem) := by
  intro ctx u n read
  have hc := cmd_of_commandDue hd
  have hread : read = { s with old := [], slices := read.slices } := logRead_eq s ctx h n
  refine ⟨fun hn => ?_, fun hn hz => ?_, fun v hn hz hw => ?_⟩
  · exact ⟨_, execLogFree_beyond hd hx hr hn, resulted_resultIs _ hc, resultIs_mem _ _ _⟩
  · refine ⟨_, execLogFree_refused hd hx hr hn hz, resulted_of_parts_dev (t := read) _ hc ?_ ?_, ?_⟩
    · rw [hread]
    · rw [hread]
    · exact (resultIs_mem read _ _).trans (by rw [hread])
  · refine ⟨_, execLogFree_released hd hx hr hn hz hw, resulted_of_parts_dev _ hc ?_ ?_, resultIs_mem _ _ _⟩
    · rw [hwWrite_eq hw, hread]
    · rw [hwWrite_eq hw, hread]

end

/-- Settles O51: a copy's result by its two refusals, its bytes by what a store clear of barrier lines and unpoisoned lines
leave; a shootdown by what it covers, its acknowledgement by what a cluster's discard leaves; LOG_FREE by the order of its
refusals, and by what a hardware write leaves alone. -/
theorem memoryCommands : Obligations.MemoryCommands := by
  unfold Obligations.MemoryCommands
  refine ⟨fun queue part data s c h hl => copyIn_results h hl, fun part s c h => copyOut_results h,
    fun part s c h => shootdown_results h, fun s d hd ha hw hu he => shootdownAcknowledge_results hd ha hw hu he, ?_⟩
  exact fun part s c h hd hx hr => logFree_results hd hx hr

end Sys2Proof.Machine

/-!
PROOFS. Levels of detail: LODFENCE, and VLDL where every active lane finds a resident page (O37).
-/
namespace Sys2Proof.Machine

/-! ### Instructions whose body goes on -/

/-- An instruction that runs in the common frame completes with the effect of its body. -/
theorem completes_of_run {i : Instr} {h : Hints} {floor len : Nat} {s t : State} {body : State → Attempt State}
    (he : exec i s = run h floor len s body) (hb : body s = .ok t) : Completes i h floor len s t := by
  intro hw hc
  obtain ⟨w, hw⟩ := Option.isSome_iff_exists.mp hw
  rw [he, run_ok hw hb hc, State.goesOn, w_of_curWave hw]

theorem needFeature_ok {s : State} {bit : Nat} (i : Instr) (h : s.feature bit = true) : needFeature s bit i = .ok () :=
  if_pos h

theorem active_ok {s : State} {k : KReg} {m : Mask} (h : readK s k = .ok m) : active s k = .ok m.getLsbD := by
  rw [active, h]
  rfl

theorem forM_ok {α : Type} {l : List α} {f : α → Attempt Unit} (h : ∀ a ∈ l, f a = .ok ()) : l.forM f = .ok () := by
  induction l with
  | nil => rfl
  | cons a l ih =>
    change (f a >>= fun _ => l.forM f) = _
    rw [h a List.mem_cons_self]
    exact ih fun b hb => h b (List.mem_cons_of_mem a hb)

/-! ### Active lanes -/

theorem rangeFrom_eq_range' (i n : Nat) : rangeFrom i n = List.range' i n := by
  induction n generalizing i with
  | zero => rfl
  | succ n ih => rw [rangeFrom, ih, List.range'_succ]

theorem activeList_eq (act : Nat → Bool) : activeList act = (List.range 128).filter act := by
  rw [activeList, rangeFrom_eq_range', List.range_eq_range', gWidth]

theorem mem_activeList {m : Mask} {l : Nat} : l ∈ activeList m.getLsbD ↔ m.getLsbD l = true := by
  rw [activeList_eq, List.mem_filter, List.mem_range]
  exact and_iff_right_of_imp BitVec.lt_of_getLsbD

/-- A mask with a bit set has an active lane. -/
theorem activeList_not_isEmpty {m : Mask} (hm : m ≠ 0) : ¬(activeList m.getLsbD).isEmpty = true := by
  refine fun he => hm (BitVec.eq_of_getLsbD_eq fun l _ => ?_)
  have hl : l ∉ activeList m.getLsbD := List.isEmpty_iff.mp he ▸ List.not_mem_nil
  exact (eq_false_of_ne_true (mt mem_activeList.mpr hl)).trans BitVec.getLsbD_zero.symm

/-- Looking up a lane among entries made for each lane of a list. -/
theorem find?_lanes {α : Type} (f : Nat → α) (ls : List Nat) (l : Nat) :
    (ls.map (fun i => (i, f i))).find? (fun g => g.1 == l) = if l ∈ ls then some (l, f l) else none := by
  induction ls with
  | nil => rfl
  | cons i t ih =>
    by_cases hi : i = l
    · simp only [List.map_cons, List.find?_cons, hi, beq_self_eq_true, List.mem_cons, true_or, if_true]
    · simp only [List.map_cons, List.find?_cons, beq_false_of_ne hi, ih, List.mem_cons, Ne.symm hi, false_or]

/-! ### LODFENCE (04 R79; 16 R281) -/

theorem lodFence_ok {s : State} {res : Nat} (hp : waitPoint s .dev = .ok ()) (hb : s.lodBusy s.w.ctx res = false) :
    lodFence s res = .ok s := by
  rw [lodFence, hp, ok_bind, hb]
  rfl

theorem lodfence_completes {h : Hints} {a : SReg} {s s1 : State} {x : DWord} (hf : s.feature 3 = true)
    (ha : readS s a = .ok (x, s1)) (hp : waitPoint s1 .dev = .ok ())
    (hb : s1.lodBusy s1.w.ctx (x.toNat % 2 ^ 32) = false) : Completes (.lodfence h a) h 1 8 s s1 := by
  refine completes_of_run (by rfl) ?_
  rw [needFeature_ok _ hf, ok_bind, ha]
  exact lodFence_ok hp hb

theorem lodfence96_completes {h : Hints} {imm : Word} {s : State} (hf : s.feature 3 = true)
    (hp : waitPoint s .dev = .ok ()) (hb : s.lodBusy s.w.ctx imm.toNat = false) :
    Completes (.lodfence96 h imm) h 1 12 s s := by
  refine completes_of_run (by rfl) ?_
  rw [needFeature_ok _ hf]
  exact lodFence_ok hp hb

/-! ### VLDL over resident pages (04 R66, R70, R71; 16 R278) -/

/-- The address of the element a lane is given: its level and its place there (04 R66). -/
def LodDesc.texelVa (desc : LodDesc) (e : Nat × Nat × Nat) : Nat := desc.elemAddr e.1 e.2.1 e.2.2

/-- The status of a lane (04 R71): the level delivered, with bit 4 set where it is not the level asked for. -/
def LodDesc.laneStatus (desc : LodDesc) (lreq : Word) (e : Nat × Nat × Nat) : Word :=
  BitVec.ofNat 32 (e.1 + (if e.1 = min (lreq.toNat % 16) desc.nlm1 then 0 else 16))

/-- What one lane of a VLDL reads and is given: what its chain finds, its element, and where its texel lies. -/
structure LodLane where
  found : LodFound
  elem : Nat × Nat × Nat
  place : Nat × Nat

/-- The lane finds a resident page: it reads the map words in their turn, has an element in a level, and may read its
texel. -/
structure LodLane.Resident (x : LodLane) (s : State) (desc : LodDesc) (l : Nat) : Prop where
  turn : ∀ w ∈ x.found.words, accessTurn s w.1 8 false = .ok ()
  level : x.found.result = .ok x.elem
  read : (s.accessOf l).lodRead s.cur.1 s.w.ctx (desc.texelVa x.elem) = .ok x.place

/-- The state once a VLDL has issued for lanes that have all found a resident page; s has their statuses written. The map
words have been read; each texel's read and each report is in flight (log 40). -/
def State.vldlIssued (s : State) (o : Order) (sc : Scope) (d status : VReg) (desc : LodDesc) (act : List Nat)
    (lane : Nat → LodLane) : State :=
  let reports := act.filterMap (fun l => lodReportOf s.tag 0 desc (lane l).found (.lane status.toNat l false))
  let (id, s3) := s.newOp { tag := s.tag, ld := true, left := act.length + reports.length
                            owed := [.v d.toNat, .v status.toNat], acq := isAcquire o sc, lod := some desc.resource }
  let checked : List Checked := act.map (fun l =>
    { acc := { lane := l, va := desc.texelVa (lane l).elem, dest := .lane d.toNat l false }
      pa := (lane l).place.1, attr := (lane l).place.2 })
  let s4 := useAll (sendLanes s id .load 4 false [] checked
    (s3.tookWords s3.cur.1 s3.w.ctx (act.flatMap (fun l => (lane l).found.words)))) checked
  let s5 := if isAcquire o sc then s4.noteAcquire else s4
  reports.foldl (fun s r => s.sendReport { r with op := id }) s5

section
variable {h : Hints} {k : KReg} {o : Order} {sc : Scope} {d : VReg} {a : SReg} {b c level status : VReg}
  {s s0 s1 s2 : State} {m : Mask} {u v lv : Nat → Word} {base : DWord} {bytes : List Byte} {desc : LodDesc}
  {lane : Nat → LodLane}

/-- The statuses that VLDL writes are looked up among its lanes' elements; each active lane finds its own. -/
theorem laneStatus_lookup (desc : LodDesc) (lv : Nat → Word) (m : Mask) (elem : Nat → Nat × Nat × Nat)
    (rest : Nat → Nat × Nat × Nat) (l : Nat) :
    Option.map (fun g : Nat × Nat × Nat × Nat × Nat =>
        BitVec.ofNat 32 (g.2.1 + if g.2.1 ≠ min ((lv l).toNat % 16) desc.nlm1 then 16 else 0))
      (((activeList m.getLsbD).map (fun i => (i, (elem i).1, rest i))).find? (fun g => g.1 == l)) =
      onActive m.getLsbD (fun l => desc.laneStatus (lv l) (elem l)) l := by
  rw [find?_lanes (fun i => ((elem i).1, rest i))]
  by_cases hl : m.getLsbD l = true
  · simp only [onActive, mem_activeList, hl, if_true, Option.map_some, LodDesc.laneStatus, ne_eq, ite_not]
  · simp only [onActive, mem_activeList, hl, if_false, Option.map_none, Bool.false_eq_true]

/-- VLDL completes once every active lane finds a resident page: the model's list of faults is empty, and its list of checked
lanes gives each active lane its element and its texel's place. -/
theorem vldl_completes (hf : s.feature 3 = true) (hk : readK s k = .ok m) (hu : readV s b.toNat m.getLsbD = .ok u)
    (hv : readV s c.toNat m.getLsbD = .ok v) (hlv : readV s level.toNat m.getLsbD = .ok lv)
    (hd : targetV s d.toNat m.getLsbD = .ok ()) (hst : targetV s status.toNat m.getLsbD = .ok ())
    (ha : readS s a = .ok (base, s0)) (hm : m ≠ 0)
    (hdesc : lodDescriptor s0 base.toNat (maskOf m.getLsbD) = .ok (bytes, desc, s1))
    (hlook : ∀ l, (s1.accessOf (mapAccess l)).lodLookup s1.cur.1 s1.w.ctx desc (u l).toNat (v l).toNat (lv l).toNat =
      (lane l).found)
    (hroom : counterRoom s1 Op.ld = .ok ()) (hres : ∀ l ∈ activeList m.getLsbD, (lane l).Resident s1 desc l)
    (hw : writeV s1 status.toNat (onActive m.getLsbD fun l => desc.laneStatus (lv l) (lane l).elem) = .ok s2) :
    Completes (.vldl h k o sc d a b c level status) h 1 16 s
      (s2.vldlIssued o sc d status desc (activeList m.getLsbD) lane) := by
  refine completes_of_run (by rfl) ?_
  simp -zeta only [needFeature_ok _ hf, active_ok hk, hu, hv, hlv, hd, hst, ha, ok_bind]
  extract_lets lanes
  rw [if_neg (activeList_not_isEmpty hm), hdesc, ok_bind]
  dsimp -zeta only
  extract_lets found words took checks bad tag faultReports good stat checked
  have hfound : found = lanes.map (fun l => (l, (lane l).found)) := List.map_congr_left fun l _ => by rw [hlook l]
  have hwords : words = lanes.flatMap (fun l => (lane l).found.words) := by
    simp only [words, hfound, List.flatMap_map]
  have hchecks : checks = lanes.map (fun l =>
      (l, (lane l).found, .ok ((lane l).elem.1, desc.texelVa (lane l).elem, (lane l).place))) := by
    simp only [checks, hfound, List.map_map]
    refine List.map_congr_left fun l hl => ?_
    obtain ⟨_, hlevel, hread⟩ := hres l hl
    unfold LodDesc.texelVa at hread ⊢
    -- a bound variable stands for the lane's read, which the kernel would otherwise unfold
    obtain ⟨readAt, hreadAt⟩ : ∃ r, r = (s1.accessOf l).lodRead s1.cur.1 s1.w.ctx := ⟨_, rfl⟩
    rw [← hreadAt] at hread
    simp only [Function.comp_apply]
    rw [← hreadAt]
    simp only [hlevel, hread]
  have hbad : bad = [] := by
    simp only [bad, hchecks, List.filterMap_map]
    exact List.filterMap_eq_nil_iff.mpr fun _ _ => rfl
  have hgood : good = lanes.map (fun l => (l, (lane l).elem.1, desc.texelVa (lane l).elem, (lane l).place)) := by
    simp only [good, hchecks, List.filterMap_map, Function.comp_def, List.filterMap_eq_map']
  have hstat : stat = onActive m.getLsbD (fun l => desc.laneStatus (lv l) (lane l).elem) := by
    funext l
    simp only [stat, hgood]
    exact laneStatus_lookup desc lv m (fun i => (lane i).elem) _ l
  have hturn : words.forM (fun w => accessTurn s1 w.1 8 false) = .ok () := forM_ok fun w hmem => by
    obtain ⟨l, hl, hmem⟩ := List.mem_flatMap.mp (hwords ▸ hmem)
    exact (hres l hl).turn w hmem
  rw [hturn, ok_bind, hroom, ok_bind, hbad]
  dsimp -zeta only
  rw [hstat, hw, ok_bind]
  simp only [State.vldlIssued, took, checked, hgood, hwords, hfound, List.filterMap_map, List.map_map, List.length_map,
    Function.comp_def, pure_eq_ok]
  rfl
end

/-- Settles O37: LODFENCE by its two waits, both over; VLDL by what its list of checked lanes comes to where every active
lane finds a resident page. -/
theorem levelsOfDetail : Obligations.LevelsOfDetail := by
  unfold Obligations.LevelsOfDetail
  refine ⟨?_, ?_⟩
  · rintro h s s1 res i len hf (⟨a, x, rfl, rfl, ha, rfl⟩ | ⟨imm, rfl, rfl, rfl, rfl⟩) hp hb
    · exact lodfence_completes hf ha hp hb
    · exact lodfence96_completes hf hp hb
  · intro h k o sc d a b c level status s s0 s1 s2 m u v lv base bytes desc elem place hf hk hu hv hlv hd hst ha hm act
      hdesc found hturn hroom hplaced hw
    have hact : activeList m.getLsbD = act := activeList_eq _
    let lane (l : Nat) : LodLane := { found := found l, elem := elem l, place := place l }
    have hres : ∀ l ∈ activeList m.getLsbD, (lane l).Resident s1 desc l := fun l hl => by
      rw [hact] at hl
      obtain ⟨hlevel, hread⟩ := hplaced l hl
      exact { turn := hturn l hl, level := hlevel, read := hread }
    have hdone := vldl_completes (h := h) (o := o) (sc := sc) hf hk hu hv hlv hd hst ha hm hdesc (fun _ => rfl) hroom
      hres hw
    rwa [hact] at hdone

end Sys2Proof.Machine

/-!
PROOFS. Fences and publication: FENCE, IFENCE, WAIT and PUBLISH (O32).
-/
namespace Sys2Proof.Machine

/-! ### Instructions whose body is held or traps -/

section
variable {i : Instr} {h : Hints} {floor len : Nat} {s : State} {body : State → Attempt State}

/-- An instruction whose body is held leaves the wave at it, and nothing else. -/
theorem exec_holding_of_run {why : Why} (he : exec i s = run h floor len s body) (hw : s.curWave?.isSome)
    (hb : body s = hold why) : exec i s = .next (s.holding why) := by
  obtain ⟨w, hw⟩ := Option.isSome_iff_exists.mp hw
  exact he.trans (runWith_held hw hb)

/-- An instruction whose body traps takes the trap in the state it began in. -/
theorem exec_trapped_of_run {r : TrapRec} (he : exec i s = run h floor len s body) (hw : s.curWave?.isSome)
    (hb : body s = trapWith r) : exec i s = .next (s.trapped s.w h.s.toNat r) := by
  obtain ⟨w, hw⟩ := Option.isSome_iff_exists.mp hw
  rw [he, w_of_curWave hw]
  exact runWith_trap hw hb rfl

end

/-! ### FENCE and IFENCE (06 R108; 16 R280) -/

@[simp] theorem isPending_updW (s : State) (f : Wave → Wave) (id : Nat) : (s.updW f).isPending id = s.isPending id := rfl

/-- What a fence of the wave still waits for, each later access that it orders waits for. -/
theorem mem_orderAfter_of_fence {s : State} {f : FenceWait} {id : Nat} {write : Bool} (hf : f ∈ s.w.fences)
    (hid : id ∈ f.ids) (hp : s.isPending id = true) (hwrite : f.writesOnly = true → write = true) :
    id ∈ s.orderAfter write := by
  have hords : ¬ (f.writesOnly && !write) = true := by simpa using hwrite
  unfold State.orderAfter
  refine List.mem_append_left _ (List.mem_filter.mpr ⟨List.mem_flatMap.mpr ⟨f, hf, ?_⟩, hp⟩)
  rwa [if_neg hords]

/-- What a new fence is given to wait for, each later access that it orders waits for: it stands last among the wave's
fences. -/
theorem mem_orderAfter_addFence {s : State} {ids : List Nat} {id : Nat} {writesOnly write : Bool}
    (hw : s.curWave?.isSome) (hid : id ∈ ids) (hp : s.isPending id = true) (hwrite : writesOnly = true → write = true) :
    id ∈ (s.addFence ids writesOnly).orderAfter write := by
  obtain ⟨w, hw⟩ := Option.isSome_iff_exists.mp hw
  unfold State.addFence
  refine mem_orderAfter_of_fence (f := { ids := ids, writesOnly := writesOnly }) ?_ hid ?_ hwrite
  · rw [w_updW _ hw]
    exact List.mem_append_right _ List.mem_cons_self
  · rwa [isPending_updW]

theorem noteAcquire_curWave_isSome {s : State} (hw : s.curWave?.isSome) : s.noteAcquire.curWave?.isSome := by
  unfold State.noteAcquire
  rwa [curWave_updW, Option.isSome_map]

section
variable {s : State} {sc : Scope} {id : Nat} {write : Bool}

/-- fence.acq: every later access comes after each earlier load. -/
theorem fenceAcq_orders {a : Access} (hsc : sc ≠ .wave) (hw : s.curWave?.isSome) (hp : s.isPending id = true)
    (ha : (id, a) ∈ s.pendingOf s.tag) (hl : AccessKind.isLoad a.kind = true) :
    id ∈ (s.fenceEffect .acq sc).orderAfter write := by
  unfold State.fenceEffect
  rw [if_neg hsc]
  refine mem_orderAfter_addFence (noteAcquire_curWave_isSome hw) ?_ hp Bool.noConfusion
  exact List.mem_map_of_mem (f := Prod.fst) (List.mem_filter.mpr ⟨ha, hl⟩)

/-- fence.rel: every later write comes after the point. -/
theorem fenceRel_orders (hsc : sc ≠ .wave) (hw : s.curWave?.isSome) (hp : s.isPending id = true)
    (hid : id ∈ s.pointAt s.tag sc) : id ∈ (s.fenceEffect .rel sc).orderAfter true := by
  unfold State.fenceEffect
  rw [if_neg hsc]
  exact mem_orderAfter_addFence hw hid hp fun _ => rfl

/-- fence.ar: every later access comes after the point. -/
theorem fenceAr_orders (hsc : sc ≠ .wave) (hw : s.curWave?.isSome) (hp : s.isPending id = true)
    (hid : id ∈ s.pointAt s.tag sc) : id ∈ (s.fenceEffect .ar sc).orderAfter write := by
  unfold State.fenceEffect
  rw [if_neg hsc]
  exact mem_orderAfter_addFence (noteAcquire_curWave_isSome hw) hid hp Bool.noConfusion

end

theorem fence_completes (h : Hints) (o : Order) (sc : Scope) (s : State) :
    Completes (.fence h o sc) h 1 8 s (s.fenceEffect o sc) :=
  completes_of_run (body := fun s => .ok (s.fenceEffect o sc)) rfl rfl

theorem ifence_completes {h : Hints} {s : State} (hp : waitPoint s .dev = .ok ()) :
    Completes (.ifence h) h 1 8 s s.dropFetched := by
  refine completes_of_run (by rfl) ?_
  rw [hp]
  rfl

/-! ### WAIT (16 R282) -/

/-- Each counter of the wave is at or below its limit; 0xFF sets none. -/
def State.withinLimits (s : State) (ld st cp tl : Byte) : Prop :=
  let within (limit : Byte) (which : Op → Bool) : Prop := limit = 0xFF ∨ s.counter s.tag which ≤ limit.toNat
  within ld Op.ld ∧ within st Op.st ∧ within cp Op.cp ∧ within tl Op.tl

theorem withinLimits_iff (s : State) (ld st cp tl : Byte) :
    (withinLimit s ld Op.ld && withinLimit s st Op.st && withinLimit s cp Op.cp && withinLimit s tl Op.tl) = true ↔
      s.withinLimits ld st cp tl := by
  simp only [withinLimit, State.withinLimits, Bool.and_eq_true, Bool.or_eq_true, decide_eq_true_eq, and_assoc]

section
variable {h : Hints} {ld st cp tl : Byte} {s : State}

theorem wait_completes (hl : s.withinLimits ld st cp tl) (hr : ∀ r, r ∈ s.w.held → waitNames ld cp tl r = false) :
    Completes (.wait h ld st cp tl) h 1 12 s s := by
  have hnone : s.w.held.find? (waitNames ld cp tl) = none :=
    List.find?_eq_none.mpr fun r hm => Bool.eq_false_iff.mp (hr r hm)
  refine completes_of_run (by rfl) ?_
  rw [if_pos ((withinLimits_iff s ld st cp tl).mpr hl), hnone]

theorem wait_holds (hl : ¬ s.withinLimits ld st cp tl) (hw : s.curWave?.isSome) :
    exec (.wait h ld st cp tl) s = .next (s.holding .dep) := by
  refine exec_holding_of_run (by rfl) hw ?_
  rw [if_neg (mt (withinLimits_iff s ld st cp tl).mp hl)]

/-- The first held record that the WAIT names is the one that traps. -/
theorem wait_traps {r : JobRec} {l1 l2 : List JobRec} (hl : s.withinLimits ld st cp tl) (hs : s.w.held = l1 ++ r :: l2)
    (h1 : ∀ q, q ∈ l1 → waitNames ld cp tl q = false) (hr : waitNames ld cp tl r = true) (hw : s.curWave?.isSome) :
    exec (.wait h ld st cp tl) s = .next (s.trapped s.w h.s.toNat (asyncTrap s.w.pc r)) := by
  have hfirst : s.w.held.find? (waitNames ld cp tl) = some r :=
    List.find?_eq_some_iff_append.mpr ⟨hr, l1, l2, hs, fun q hq => congrArg Bool.not (h1 q hq)⟩
  refine exec_trapped_of_run (by rfl) hw ?_
  rw [if_pos ((withinLimits_iff s ld st cp tl).mpr hl), hfirst]

end

/-! ### What PUBLISH posts (07 R125) -/

/-- What posting a write tells the host: nothing, where the device does not reach its bytes (log 87). -/
def postedWrite (part link addr : Nat) (bs : List Byte) : List HostOut :=
  if addr + bs.length ≤ 2 ^ 49 then [.write part link addr bs] else []

/-- What posting a write held for a window tells the host. -/
def PubWrite.posted (part link : Nat) (e : PubWrite) : List HostOut := postedWrite part link e.addr e.bytes

/-- The writes that a slice holds for a window, in entry order. -/
def Slice.heldFor (x : Slice) (win : Nat) : List PubWrite := x.pub.filter (fun e => e.win == win)

/-- The slice once it holds nothing for a window. -/
def Slice.released (x : Slice) (win : Nat) : Slice := { x with pub := x.pub.filter (fun e => e.win != win) }

theorem postWrite_eq_posted (s : State) (part link addr : Nat) (bs : List Byte) :
    s.postWrite part link addr bs = { s with hostOut := s.hostOut ++ postedWrite part link addr bs } := by
  rw [postWrite_eq, postWrite_hostOut, postedWrite]
  simp only [← Nat.not_le, ite_not]

theorem foldl_postWrite_eq (part link : Nat) (l : List PubWrite) (s : State) :
    l.foldl (fun s e => s.postWrite part link e.addr e.bytes) s =
      { s with hostOut := s.hostOut ++ l.flatMap (PubWrite.posted part link) } := by
  induction l generalizing s with
  | nil => rw [List.flatMap_nil, List.append_nil]; rfl
  | cons e l ih =>
    rw [List.foldl_cons, ih, postWrite_eq_posted, List.flatMap_cons, ← List.append_assoc]
    rfl

section
variable (part win link : Nat)

/-- One slice releases what it holds for the window, and that is posted. -/
theorem publishSlice_eq (s : State) (n : Nat) :
    publishSlice part win link s n =
      { s.setSlice n ((s.slice n).released win) with
        hostOut := s.hostOut ++ ((s.slice n).heldFor win).flatMap (PubWrite.posted part link) } := by
  have hne : (fun e : PubWrite => decide (e.win ≠ win)) = fun e => e.win != win := by
    funext e
    rw [decide_not]
    rfl
  unfold publishSlice
  dsimp only
  rw [foldl_postWrite_eq, hne]
  rfl

theorem publishSlice_slice_same (s : State) (n : Nat) :
    (publishSlice part win link s n).slice n = (s.slice n).released win := by
  rw [publishSlice_eq]
  exact slice_setSlice_same _ _ _

theorem publishSlice_slice_ne (s : State) {n p : Nat} (h : p ≠ n) :
    (publishSlice part win link s n).slice p = s.slice p := by
  rw [publishSlice_eq]
  exact slice_setSlice_ne _ _ h

theorem foldl_publishSlice_mem (ns : List Nat) (s : State) : (ns.foldl (publishSlice part win link) s).mem = s.mem := by
  induction ns generalizing s with
  | nil => rfl
  | cons n ns ih =>
    rw [List.foldl_cons, ih, publishSlice_eq]
    rfl

theorem foldl_publishSlice_slice_notMem {ns : List Nat} (s : State) {p : Nat} (hp : p ∉ ns) :
    (ns.foldl (publishSlice part win link) s).slice p = s.slice p := by
  induction ns generalizing s with
  | nil => rfl
  | cons n ns ih =>
    rw [List.foldl_cons, ih _ (List.not_mem_of_not_mem_cons hp),
      publishSlice_slice_ne _ _ _ s (List.ne_of_not_mem_cons hp)]

/-- Each of the slices, none named twice, releases what it held at the start. -/
theorem foldl_publishSlice_slice_mem {ns : List Nat} (hd : ns.Nodup) (s : State) {p : Nat} (hp : p ∈ ns) :
    (ns.foldl (publishSlice part win link) s).slice p = (s.slice p).released win := by
  induction ns generalizing s with
  | nil => exact absurd hp List.not_mem_nil
  | cons n ns ih =>
    obtain ⟨hn, hd⟩ := List.nodup_cons.mp hd
    rw [List.foldl_cons]
    rcases List.mem_cons.mp hp with rfl | hp
    · rw [foldl_publishSlice_slice_notMem _ _ _ _ hn, publishSlice_slice_same]
    · rw [ih hd _ hp, publishSlice_slice_ne _ _ _ s (ne_of_mem_of_not_mem hp hn)]

/-- What is posted is what the slices, none named twice, held at the start, slice by slice. -/
theorem foldl_publishSlice_hostOut {ns : List Nat} (hd : ns.Nodup) (s : State) :
    (ns.foldl (publishSlice part win link) s).hostOut =
      s.hostOut ++ (ns.flatMap (fun n => (s.slice n).heldFor win)).flatMap (PubWrite.posted part link) := by
  induction ns generalizing s with
  | nil => exact (List.append_nil _).symm
  | cons n ns ih =>
    obtain ⟨hn, hd⟩ := List.nodup_cons.mp hd
    have hrest : ns.flatMap (fun p => ((publishSlice part win link s n).slice p).heldFor win) =
        ns.flatMap (fun p => (s.slice p).heldFor win) := by
      rw [List.flatMap_def, List.flatMap_def, List.map_congr_left fun p hp => ?_]
      rw [publishSlice_slice_ne _ _ _ s (ne_of_mem_of_not_mem hp hn)]
    rw [List.foldl_cons, ih hd, hrest, publishSlice_eq, List.flatMap_cons, List.flatMap_append, ← List.append_assoc]

end

theorem slicesOf_nodup (s : State) (part : Nat) : (s.slicesOf part).Nodup := by
  unfold State.slicesOf
  split
  · rw [rangeFrom_eq_range']
    exact List.Pairwise.filter _ List.nodup_range'
  · exact List.nodup_nil

section
variable (s : State) (part win : Nat) (w : PubWindow)

/-- The counter that PUBLISH posts and returns. -/
def PubWindow.next (w : PubWindow) : Nat := (w.version + 1) % 2 ^ 64

/-- What is held for the window goes out slice by slice, and the counter behind it. -/
theorem publish_hostOut :
    (s.publish part win w).2.hostOut =
      s.hostOut ++ ((s.slicesOf part).flatMap (fun n => (s.slice n).heldFor win)).flatMap (PubWrite.posted part w.link) ++
        postedWrite part w.link w.vaddr (natToBytes 8 w.next) := by
  unfold State.publish
  dsimp only
  rw [postWrite_eq_posted, ← foldl_publishSlice_hostOut part win w.link (slicesOf_nodup s part) s]
  rfl

theorem publish_slice {n : Nat} (hn : n ∈ s.slicesOf part) :
    (s.publish part win w).2.slice n = (s.slice n).released win := by
  unfold State.publish
  dsimp only
  rw [postWrite_eq_posted]
  exact foldl_publishSlice_slice_mem part win w.link (slicesOf_nodup s part) s hn

theorem publish_mem : (s.publish part win w).2.mem = s.mem := by
  unfold State.publish
  dsimp only
  rw [postWrite_eq_posted]
  exact foldl_publishSlice_mem part win w.link _ s

end

/-! ### PUBLISH (16 R281) -/

section
variable {s : State} {d : SReg} {win : Nat}

/-- The window that a PUBLISH of the wave at issue names; there is none from 16 up. -/
def State.pubWindow? (s : State) (win : Nat) : Option PubWindow :=
  if win < 16 then (mget s.parts (s.partOfCtx s.w.ctx)).bind (fun p => mget p.windows win) else none

theorem pubWindow?_eq_some {w : PubWindow} : s.pubWindow? win = some w ↔
    win < 16 ∧ ∃ p, mget s.parts (s.partOfCtx s.w.ctx) = some p ∧ mget p.windows win = some w := by
  unfold State.pubWindow?
  rw [Option.ite_none_right_eq_some, Option.bind_eq_some_iff]

/-- PUBLISH past its point, by the window that it names. -/
theorem publishOp_eq (hp : waitPoint s .sys = .ok ()) (hc : counterRoom s Op.ld = .ok ()) :
    publishOp s d win = match s.pubWindow? win with
      | some w =>
        if w.en then writeS (s.publish (s.partOfCtx s.w.ctx) win w).2 d (BitVec.ofNat 64 w.next) else writeS s d 0
      | none => writeS s d 0 := by
  unfold publishOp
  rw [hp, ok_bind, hc, ok_bind]
  rfl

theorem publishOp_enabled {w : PubWindow} (hp : waitPoint s .sys = .ok ()) (hc : counterRoom s Op.ld = .ok ())
    (hw : s.pubWindow? win = some w) (he : w.en = true) :
    publishOp s d win = writeS (s.publish (s.partOfCtx s.w.ctx) win w).2 d (BitVec.ofNat 64 w.next) := by
  simp only [publishOp_eq hp hc, hw, he, if_true]

theorem publishOp_disabled (hp : waitPoint s .sys = .ok ()) (hc : counterRoom s Op.ld = .ok ())
    (hoff : ∀ w, s.pubWindow? win = some w → w.en = false) : publishOp s d win = writeS s d 0 := by
  rw [publishOp_eq hp hc]
  cases hw : s.pubWindow? win with
  | none => rfl
  | some w => exact if_neg (Bool.eq_false_iff.mp (hoff w hw))

end

/-- Both forms of PUBLISH complete with what PUBLISH of the window number does. -/
theorem publish_completes {h : Hints} {d : SReg} {s s1 t : State} {win len : Nat} {i : Instr}
    (hi : (∃ a x, i = .publish h d a ∧ len = 8 ∧ readS s a = .ok (x, s1) ∧ win = x.toNat) ∨
      (∃ imm, i = .publish96 h d imm ∧ len = 12 ∧ s1 = s ∧ win = imm.toNat))
    (ht : publishOp s1 d win = .ok t) : Completes i h 1 len s t := by
  rcases hi with ⟨a, x, rfl, rfl, ha, rfl⟩ | ⟨imm, rfl, rfl, rfl, rfl⟩
  · refine completes_of_run (by rfl) ?_
    rw [ha]
    exact ht
  · exact completes_of_run (by rfl) ht

/-- Settles O32: a fence is the last of the wave's fences, which its later accesses wait for; WAIT by the first held record
that it names; PUBLISH slice by slice, no slice of a partition standing twice. -/
theorem fencesAndPublication : Obligations.FencesAndPublication := by
  unfold Obligations.FencesAndPublication
  refine ⟨fun h s => ⟨fun o sc => ⟨fence_completes h o sc s, ?_⟩, ifence_completes, fun ld st cp tl => ?_⟩, ?_⟩
  · rintro hw hsc id hp (⟨rfl | rfl, hid⟩ | ⟨rfl, a, ha, hl⟩)
    · exact ⟨fenceRel_orders hsc hw hp hid, fun hne => absurd rfl hne⟩
    · exact ⟨fenceAr_orders hsc hw hp hid, fun _ => fenceAr_orders hsc hw hp hid⟩
    · exact ⟨fenceAcq_orders hsc hw hp ha hl, fun _ => fenceAcq_orders hsc hw hp ha hl⟩
  · exact ⟨wait_completes, wait_holds, fun r l1 l2 => wait_traps⟩
  · intro h d s s1 t win i len hi hp hc
    refine ⟨fun p w hpart hwin hlt hen => ⟨⟨rfl, publish_hostOut s1 _ win w, fun n hn => ?_, publish_mem s1 _ win w⟩,
      fun ht => publish_completes hi ?_⟩, fun hoff ht => publish_completes hi ?_⟩
    · rw [publish_slice s1 _ win w hn]
      rfl
    · exact (publishOp_enabled hp hc (pubWindow?_eq_some.mpr ⟨hlt, p, hpart, hwin⟩) hen).trans ht
    · refine (publishOp_disabled hp hc fun w hw => ?_).trans ht
      obtain ⟨hlt, p, hpart, hwin⟩ := pubWindow?_eq_some.mp hw
      exact hoff.elim (fun hge => absurd hlt (Nat.not_lt.mpr hge)) fun hdis => hdis p w hpart hwin

end Sys2Proof.Machine

/-!
PROOFS. Links and peers: the answers of the host and of peers to what the device reads, and the requests of peers (O54).
-/
namespace Sys2Proof.Machine

/-! ### Bytes of a number -/

@[simp] theorem length_natToBytes (n w : Nat) : (natToBytes n w).length = n := by
  induction n generalizing w with
  | zero => rfl
  | succ n ih => rw [natToBytes, List.length_cons, ih]

/-- Bytes come back from the number that they hold. -/
theorem natToBytes_bytesToNat (bs : List Byte) : natToBytes bs.length (bytesToNat bs) = bs := by
  induction bs with
  | nil => rfl
  | cons b t ih =>
    have hhead : BitVec.ofNat 8 (b.toNat + 256 * bytesToNat t) = b := by
      apply BitVec.eq_of_toNat_eq
      rw [BitVec.toNat_ofNat]
      omega
    have htail : (b.toNat + 256 * bytesToNat t) / 256 = bytesToNat t := by omega
    rw [bytesToNat, List.length_cons, natToBytes, hhead, htail, ih]

theorem natToBytes_memNat (m : List Host.Cell) (pa n : Nat) : natToBytes n (memNat m pa n) = memRead m pa n := by
  have h := natToBytes_bytesToNat (memRead m pa n)
  rwa [length_memRead] at h

/-! ### The outbound order (06 R105) -/

/-- Of a machine, packets' places in the outbound order, and the identifiers given out for them, alone have changed. -/
def State.Restamped (s t : State) : Prop :=
  t = { s with packets := t.packets, nextId := t.nextId } ∧
    ∀ id p, mget s.packets id = some p → ∃ n, mget t.packets id = some { p with stamp := n }

theorem State.Restamped.refl (s : State) : s.Restamped s := ⟨rfl, fun _ _ hp => ⟨_, hp⟩⟩

theorem State.Restamped.trans {s t u : State} (h : s.Restamped t) (k : t.Restamped u) : s.Restamped u := by
  obtain ⟨ht, hp⟩ := h
  obtain ⟨hu, hq⟩ := k
  refine ⟨by rw [hu, ht], fun id p hid => ?_⟩
  obtain ⟨n, hn⟩ := hp id p hid
  obtain ⟨k, hk⟩ := hq id _ hn
  exact ⟨k, hk⟩

theorem restamped_enterOne (s : State) (id : Nat) : s.Restamped (enterOne s id) := by
  unfold enterOne
  split
  · exact .refl s
  next p hp =>
    split
    · split
      · refine ⟨rfl, fun i q hi => ?_⟩
        by_cases he : i = id
        · subst he
          cases hp.symm.trans hi
          exact ⟨_, mget_mset_same _ _ _⟩
        · exact ⟨q.stamp, (mget_mset_ne _ _ he).trans hi⟩
      · exact .refl s
    · exact .refl s

theorem restamped_enterOutbound (s : State) : s.Restamped s.enterOutbound := by
  unfold State.enterOutbound
  generalize s.packets.map Prod.fst = ids
  induction ids generalizing s with
  | nil => exact .refl s
  | cons id ids ih => exact (restamped_enterOne s id).trans (ih _)

/-! ### An access that a link has answered (07 R121, R128) -/

section
variable (s : State) (id : Nat) (p : Packet) {a : Access} (x : Nat)

/-- Beside packets and the identifiers given out for them, an access that has performed changes nothing. -/
theorem performed_eq :
    s.performed id p a x =
      { s with packets := (s.performed id p a x).packets, nextId := (s.performed id p a x).nextId } := by
  obtain ⟨h, -⟩ := restamped_enterOutbound
    (s.answerWith id p (answerKind a.kind).1 (answerKind a.kind).2 (.access { a with performed := true, result := x }))
  exact h

/-- A load that has performed is answered with its result. -/
theorem answered_performed (hk : a.kind = .load) : (s.performed id p a x).answered id p a 1 x := by
  have hkind : answerKind a.kind = (1, 2) := by rw [hk]; rfl
  unfold State.performed
  rw [hkind]
  obtain ⟨-, h⟩ := restamped_enterOutbound (s.answerWith id p 1 2 (.access { a with performed := true, result := x }))
  obtain ⟨n, hn⟩ := h id _ (mget_mset_same _ _ _)
  exact ⟨_, hn, rfl, rfl, rfl, rfl, rfl, rfl⟩

end

section
variable {s : State} {id : Nat} {r : HostReq} {p : Packet} {a : Access}

/-- What a read of a load's brings is the load's result. -/
theorem packetAnswered_ok (hp : mget s.packets id = some p) (hb : p.body = .access a) (hk : a.kind = .load)
    (hw : r.write = false) (data : List Byte) :
    s.packetAnswered id r true data = s.performed id p a (bytesToNat (data.take a.size)) := by
  simp [State.packetAnswered, hp, hb, hk, State.wrote, hw]

/-- A load whose read failed gets a free value (log 45). -/
theorem packetAnswered_failed (hp : mget s.packets id = some p) (hb : p.body = .access a) (data : List Byte) :
    s.packetAnswered id r false data =
      s.takeFree.2.performed id p { a with failed := true } (s.takeFree.1 % 2 ^ (8 * a.size)) := by
  simp [State.packetAnswered, hp, hb, State.wrote]

end

/-! ### Completions (07 R121, R125) -/

section
variable {s : State} {id : Nat} {r : HostReq} {data : List Byte}

theorem fits_of_length (ok : Bool) (h : data.length = r.len) : r.fits ok data = true := by
  simp [HostReq.fits, h]

/-- A completion with as many bytes as were asked for is taken, with the held writes over them. -/
theorem execHostCompletion_asked (ok : Bool) (hr : mget s.hostReqs id = some r) (hl : data.length = r.len) :
    execHostCompletion id ok data s =
      .next ({ s with hostReqs := mdel s.hostReqs id }.linkAnswer id r ok (r.sees data)) := by
  simp only [execHostCompletion, hr, fits_of_length ok hl, if_true]

/-- A peer's bytes are taken as they come. -/
theorem execPeerCompletion_asked (ok : Bool) (hr : mget s.peerReqs id = some r) (hl : data.length = r.len) :
    execPeerCompletion id ok data s = .next ({ s with peerReqs := mdel s.peerReqs id }.linkAnswer id r ok data) := by
  simp only [execPeerCompletion, hr, fits_of_length ok hl, if_true]

theorem linkAnswer_packet {n : Nat} (ha : r.ask = .packet n) (ok : Bool) :
    s.linkAnswer id r ok data = s.packetAnswered n r ok data := by
  simp only [State.linkAnswer, ha]

theorem linkAnswer_packetRead {part q : Nat} (ha : r.ask = .packetRead part q) (ok : Bool) :
    s.linkAnswer id r ok data = s.ringRead part q ok data := by
  simp only [State.linkAnswer, ha]

theorem linkAnswer_fetch {cl row block : Nat} (ha : r.ask = .fetch cl row block) (ok : Bool) :
    s.linkAnswer id r ok data = s.blockAnswer cl row id block ok data := by
  simp only [State.linkAnswer, ha]

/-- A read of a packet's sees the held writes. -/
theorem sees_packet {n : Nat} (ha : r.ask = .packet n) (hn : r.atomic = none) :
    r.sees data = r.heldOver.foldl (overlay r.addr) data := by
  simp only [HostReq.sees, ha, hn]

/-- A ring entry is the host's own. -/
theorem sees_packetRead {part q : Nat} (ha : r.ask = .packetRead part q) : r.sees data = data := by
  simp only [HostReq.sees, ha]

theorem sees_of_noneHeld (h : r.heldOver = []) : r.sees data = data := by
  unfold HostReq.sees
  rw [h]
  split <;> rfl

end

section
variable {s : State} {rid id : Nat} {r : HostReq} {p : Packet} {a : Access} {data : List Byte}

/-- What the answer to a load's read leaves: the load answered, and no byte of memory changed. -/
theorem loadCompletion_results (ha : r.ask = .packet id) (hw : r.write = false) (hn : r.atomic = none)
    (hl : data.length = r.len) (hp : mget s.packets id = some p) (hb : p.body = .access a) (hk : a.kind = .load) :
    (mget s.hostReqs rid = some r → ∃ t, exec (.hostCompletion rid true data) s = .next t ∧ mget t.hostReqs rid = none ∧
      t.answered id p a 1 (bytesToNat ((r.heldOver.foldl (overlay r.addr) data).take a.size)) ∧ t.mem = s.mem) ∧
    (mget s.peerReqs rid = some r → ∃ t, exec (.peerCompletion rid true data) s = .next t ∧ mget t.peerReqs rid = none ∧
      t.answered id p a 1 (bytesToNat (data.take a.size)) ∧ t.mem = s.mem) ∧
    (mget s.hostReqs rid = some r → ∃ t x, exec (.hostCompletion rid false data) s = .next t ∧
      t.answered id p { a with failed := true } 1 x ∧ t.mem = s.mem) := by
  -- the request is answered; the packets still stand as they were
  let s1 : State := { s with hostReqs := mdel s.hostReqs rid }
  let s2 : State := { s with peerReqs := mdel s.peerReqs rid }
  refine ⟨fun hr => ?_, fun hr => ?_, fun hr => ?_⟩
  · have hx := execHostCompletion_asked true hr hl
    rw [sees_packet ha hn, linkAnswer_packet ha, packetAnswered_ok (s := s1) hp hb hk hw] at hx
    refine ⟨_, hx, ?_, answered_performed _ _ _ _ hk, ?_⟩
    · rw [performed_eq]
      exact mget_mdel_same _ _
    · rw [performed_eq]
  · have hx := execPeerCompletion_asked true hr hl
    rw [linkAnswer_packet ha, packetAnswered_ok (s := s2) hp hb hk hw] at hx
    refine ⟨_, hx, ?_, answered_performed _ _ _ _ hk, ?_⟩
    · rw [performed_eq]
      exact mget_mdel_same _ _
    · rw [performed_eq]
  · have hx := execHostCompletion_asked false hr hl
    rw [linkAnswer_packet ha, packetAnswered_failed (s := s1) hp hb] at hx
    refine ⟨_, _, hx, answered_performed _ _ _ _ hk, ?_⟩
    rw [performed_eq]
    rfl

end

/-! ### A block of code (07 R121) -/

theorem keepBlock_waves (k : Cluster) (b : CodeBlock) : (k.keepBlock b).waves = k.waves := by
  unfold Cluster.keepBlock
  rfl

/-- A wave that waits for a block of code gets it, whatever its cluster keeps. -/
theorem waveAt_blockAnswer {s : State} {cl row id block : Nat} {w : Wave} (hw : s.waveAt? cl row = some w)
    (hi : w.waiting = some id) (data : List Byte) :
    (s.blockAnswer cl row id block true data).waveAt? cl row =
      some { w with waiting := none, fetched := mset w.fetched block (data.take 32) } := by
  have hread : w.blockRead id block true data =
      { w with waiting := none, fetched := mset w.fetched block (data.take 32) } := if_pos hi
  have hkept (k : CodeBlock) : (s.setCluster cl ((s.cluster cl).keepBlock k)).waveAt? cl row = some w :=
    (waveAt_setCluster s cl (keepBlock_waves _ k) cl row).trans hw
  unfold State.blockAnswer
  simp only [hw, hi, Bool.true_and, beq_self_eq_true, if_true]
  rw [waveAt_updWave_same, hkept, Option.map_some, hread]

theorem fetchCompletion_results {s : State} {id cl row block : Nat} {r : HostReq} {w : Wave} {data : List Byte}
    (hr : mget s.hostReqs id = some r) (ha : r.ask = .fetch cl row block) (hh : r.heldOver = [])
    (hl : data.length = r.len) (hw : s.waveAt? cl row = some w) (hi : w.waiting = some id) :
    ∃ t, exec (.hostCompletion id true data) s = .next t ∧
      t.waveAt? cl row = some { w with waiting := none, fetched := mset w.fetched block (data.take 32) } := by
  have hx := execHostCompletion_asked true hr hl
  rw [sees_of_noneHeld hh, linkAnswer_fetch ha] at hx
  exact ⟨_, hx, waveAt_blockAnswer (s := { s with hostReqs := mdel s.hostReqs id }) hw hi data⟩

/-! ### Ring entries (10 R167; 25 R350, R352) -/

section
variable {s : State} {part q : Nat}

/-- A queue that exists holds what it was set to. -/
theorem queue_setQueue_self (r : RingQueue) (h : s.HasQueue part) : (s.setQueue part q r).queue part q = r := by
  by_cases hc : q = commandQueue
  · rw [hc]
    exact queue_setQueue_same r h
  unfold State.queue State.setQueue
  by_cases hd : part = deviceQueue
  · simp [hd]
  · obtain ⟨p, hp⟩ := Option.isSome_iff_exists.mp (h.resolve_left hd)
    simp [hd, hc, mget_mupd_same, hp]

/-- A queue with a kick under way exists. -/
theorem hasQueue_of_kick {k : Kick} (h : (s.queue part q).kick = some k) : s.HasQueue part := by
  by_cases hd : part = deviceQueue
  · exact .inl hd
  · refine .inr (Option.isSome_iff_ne_none.mpr fun hp => ?_)
    simp [State.queue, hd, hp] at h

theorem queue_foldl_kickReturn (l : List (Nat × Option WTag)) (code : Nat) (s : State) :
    (l.foldl (fun s k => s.kickReturn k.2 code) s).queue part q = s.queue part q := by
  induction l generalizing s with
  | nil => rfl
  | cons k l ih => rw [List.foldl_cons, ih, queue_kickReturn]

/-- A queue that halts keeps all but its kicks and the map it was reading. -/
theorem queue_haltQueue (status : Nat) (h : s.HasQueue part) :
    (s.haltQueue part q status).queue part q =
      { s.queue part q with
        halted := true, status := status, kick := none, pendingKicks := [], mapAsk := none, mapGot := [] } := by
  unfold State.haltQueue
  dsimp only
  rw [queue_queueMsix, queue_foldl_kickReturn, queue_kickReturn, queue_setQueue_self _ h]

section
variable {k : Kick} {data : List Byte} (hk : (s.queue part q).kick = some k) (hr : k.reading = true)
include hk hr

theorem ringRead_failed : s.ringRead part q false data = s.haltQueue part q haltRing := by
  simp [State.ringRead, hk, hr]

/-- An entry with the right SEQ is the command that its queue has reached. -/
theorem ringRead_command (hs : bytesToNat (data.take 4) = (s.queue part q).next) (hq : q = commandQueue) :
    s.ringRead part q true data = s.setQueue part q { s.queue part q with cmd := some (commandOf part data) } := by
  subst hq
  simp [State.ringRead, hk, hr, hs]

/-- An entry that does not show yet is read again. -/
theorem ringRead_again (hs : bytesToNat (data.take 4) ≠ (s.queue part q).next) (hn : k.rereads < maxRereads) :
    s.ringRead part q true data =
      s.setQueue part q
        { s.queue part q with kick := some { k with reading := false, due := s.now + rereadDelay } } := by
  simp [State.ringRead, hk, hr, hs, Nat.not_le.mpr hn]

/-- An entry that does not show after the last reread halts its queue. -/
theorem ringRead_notVisible (hs : bytesToNat (data.take 4) ≠ (s.queue part q).next) (hn : maxRereads ≤ k.rereads) :
    s.ringRead part q true data = s.haltQueue part q haltNotVisible := by
  simp [State.ringRead, hk, hr, hs, hn]

end
end

theorem ringCompletion_results {s : State} {id part q : Nat} {req : HostReq} {k : Kick} {data : List Byte} {ok : Bool}
    (hreq : mget s.hostReqs id = some req) (ha : req.ask = .packetRead part q) (hl : data.length = req.len)
    (hk : (s.queue part q).kick = some k) (hr : k.reading = true) :
    let r := s.queue part q
    let seq := bytesToNat (data.take 4)
    (ok = true → seq = r.next → q = commandQueue →
      ∃ t, exec (.hostCompletion id ok data) s = .next t ∧ (t.queue part q).cmd = some (commandOf part data)) ∧
    (ok = true → seq ≠ r.next → k.rereads < 64 →
      ∃ t, exec (.hostCompletion id ok data) s = .next t ∧ t.queue part q =
        { r with kick := some { k with reading := false, due := s.now + 422 } }) ∧
    (ok = true → seq ≠ r.next → 64 ≤ k.rereads → ∃ t, exec (.hostCompletion id ok data) s = .next t ∧
      (t.queue part q).halted = true ∧ (t.queue part q).status = 1 ∧ (t.queue part q).next = r.next) ∧
    (ok = false → ∃ t, exec (.hostCompletion id ok data) s = .next t ∧ (t.queue part q).halted = true ∧
      (t.queue part q).status = 6 ∧ (t.queue part q).next = r.next) := by
  intro r seq
  -- the request is answered; the queue still stands as it was
  let s1 : State := { s with hostReqs := mdel s.hostReqs id }
  have hx : exec (.hostCompletion id ok data) s = .next (s1.ringRead part q ok data) := by
    have hx := execHostCompletion_asked ok hreq hl
    rwa [sees_packetRead ha, linkAnswer_packetRead ha] at hx
  have hk : (s1.queue part q).kick = some k := hk
  have hq := hasQueue_of_kick hk
  refine ⟨?_, ?_, ?_, ?_⟩
  · rintro rfl hs hc
    rw [ringRead_command hk hr hs hc] at hx
    exact ⟨_, hx, by rw [queue_setQueue_self _ hq]⟩
  · rintro rfl hs hn
    rw [ringRead_again hk hr hs hn] at hx
    exact ⟨_, hx, queue_setQueue_self _ hq⟩
  · rintro rfl hs hn
    rw [ringRead_notVisible hk hr hs hn] at hx
    have ht := queue_haltQueue (q := q) haltNotVisible hq
    exact ⟨_, hx, by rw [ht], by rw [ht]; rfl, by rw [ht]; rfl⟩
  · rintro rfl
    rw [ringRead_failed hk hr] at hx
    have ht := queue_haltQueue (q := q) haltRing hq
    exact ⟨_, hx, by rw [ht], by rw [ht]; rfl, by rw [ht]; rfl⟩

/-! ### Stores at their homes -/

/-- Where tokens cover the moves of lines, the moves are what a charge makes. -/
theorem charge_of_moveLines {s t : State} {l : List (Nat × LineUse)} (h : s.moveLines l = some t) : t = s.charge l := by
  induction l generalizing s with
  | nil =>
    cases h
    rfl
  | cons u l ih =>
    unfold State.moveLines at h
    split at h
    · exact ih h
    · cases h

theorem touchQueue_hostOut (s : State) (pa : Nat) : (s.touchQueue pa).hostOut = s.hostOut := by
  unfold State.touchQueue
  dsimp only
  split <;> rfl

theorem foldl_touchLine_hostOut_of_noBarrier (ls : List Nat) {s : State}
    (h : ∀ l, l ∈ ls → (s.slice (s.lineHome (64 * l))).barriers.contains (64 * l) = false) :
    (ls.foldl (fun s l => s.touchLine (64 * l)) s).hostOut = s.hostOut := by
  induction ls generalizing s with
  | nil => rfl
  | cons l ls ih =>
    rw [List.foldl_cons, touchLine_of_noBarrier (h l List.mem_cons_self), ih fun k hk => ?_, touchQueue_hostOut]
    exact ((sameBarriers_touchQueue s (64 * l)).barriers_contains _).trans (h k (List.mem_cons_of_mem _ hk))

section
variable {s : State} {pa : Nat} {bs : List Byte} (hn : s.noBarrier pa bs.length)
include hn

/-- A store clear of barrier lines tells the host nothing: no waiter is woken. -/
theorem homeStore_hostOut_of_noBarrier : (s.homeStore pa bs).hostOut = s.hostOut := by
  unfold State.homeStore
  dsimp only
  split
  · refine foldl_touchLine_hostOut_of_noBarrier (s := s.store pa bs) _ fun l hl => ?_
    obtain ⟨hlo, hhi⟩ := mem_rangeFrom.mp hl
    exact noBarrier_of_sameBarriers (sameBarriers_store s pa bs) hn l hlo (by omega)
  · rfl

theorem storedAt_homeStore : s.storedAt (s.homeStore pa bs) pa bs := fun a => by
  rw [(homeStore_of_noBarrier hn).2, memByte_memWrite]

end

/-! ### Requests of peers (01 R24, R26; 25 R355) -/

theorem elemBytes_eq_memSize (ty : MemType) : elemBytes ty = memSize ty := by cases ty <;> rfl

section
variable {s s1 : State} {r : PeerRequestIn}

/-- What a peer's request, its lines moved, does at its home. -/
def peerServed (r : PeerRequestIn) (s : State) : Nat × State := s.performAt r.addr (peerAccess r)

theorem peerAccess_pa (r : PeerRequestIn) : (peerAccess r).pa = r.addr := by
  unfold peerAccess
  cases r.op <;> rfl

theorem served_read {n : Nat} (h : r.op = .read n) : peerServed r s = (memNat s.mem r.addr n, s) := by
  simp only [peerServed, peerAccess, h, State.performAt]

theorem served_write {b : List Byte} (h : r.op = .write b) : peerServed r s = (0, s.homeStore r.addr b) := by
  simp only [peerServed, peerAccess, h, State.performAt, natToBytes_bytesToNat]

theorem served_atomic {op : AtomOp} {ty : MemType} {x y : Nat} (h : r.op = .atomic op ty x y) :
    peerServed r s =
      (memNat s.mem r.addr (memSize ty),
        s.homeStore r.addr (natToBytes (memSize ty) (atomNew op ty (memNat s.mem r.addr (memSize ty)) x y))) := by
  simp only [peerServed, peerAccess, h, State.performAt]

section
variable (hl : s.dev.linkDown.contains r.link = false)
include hl

/-- A request that is not admitted, or whose bytes are not its partition's, is refused. -/
theorem execPeerRequest_refused (h : s.admitted r = false ∨ s.spanOwned r.part r.addr (peerAccess r).size = false) :
    execPeerRequest r s = .next (s.post (.peerAnswer r.link r.tag false [])) := by
  have hno : (!s.admitted r || !s.spanOwned r.part r.addr (peerAccess r).size || !peerOffered r) = true := by
    rcases h with h | h <;> simp [h]
  unfold execPeerRequest
  simp only [hl, hno, Bool.false_eq_true, if_false, if_true]

/-- A request that passes every check is served and answered. -/
theorem execPeerRequest_served (ha : s.admitted r = true) (ho : s.spanOwned r.part r.addr (peerAccess r).size = true)
    (hp : peerOffered r = true) (hd : (peerAccess r).kind = .store ∨ s.poisoned r.addr (peerAccess r).size = false)
    (hk : s.lockedOut (peerAccess r) = false) (ht : ∀ parts, r.op ≠ .drain parts)
    (hm : s.moveLines (peerAccess r).uses = some s1) :
    execPeerRequest r s =
      .next ((peerServed r s1).2.post (.peerAnswer r.link r.tag true (peerAnswerOf r (peerServed r s1).1))) := by
  have hpoison : ¬ ((peerAccess r).kind ≠ .store && s.poisoned r.addr (peerAccess r).size) = true := by
    rcases hd with hd | hd <;> simp [hd]
  have hhere : s.performHere (peerAccess r) = some (peerServed r s1) := by
    unfold State.performHere
    rw [hm, peerAccess_pa]
    rfl
  unfold execPeerRequest
  simp only [hl, ha, ho, hp, Bool.false_eq_true, if_false, Bool.not_true, Bool.or_self, hpoison, hk, hhere]
  split
  next parts h => exact absurd h (ht parts)
  all_goals rfl

end

/-- The machine once the lines of a request have moved, by its tokens. -/
theorem movedLines_eq {l : List (Nat × LineUse)} (h : s.moveLines l = some s1) :
    s1 = { s with slices := s1.slices } ∧ s.SameBarriers s1 := by
  rw [charge_of_moveLines h]
  exact ⟨charge_slices s l, sameBarriers_charge s l⟩

/-- A store at its home after its lines have moved: its bytes are those written, and the host is told nothing. -/
theorem homeStore_movedLines {l : List (Nat × LineUse)} {pa : Nat} {bs : List Byte} (h : s.moveLines l = some s1)
    (hn : s.noBarrier pa bs.length) :
    s.storedAt (s1.homeStore pa bs) pa bs ∧ (s1.homeStore pa bs).hostOut = s.hostOut := by
  obtain ⟨he, hb⟩ := movedLines_eq h
  have hn1 := noBarrier_of_sameBarriers hb hn
  have hmem : s1.mem = s.mem := by rw [he]
  refine ⟨fun a => ?_, ?_⟩
  · rw [← hmem]
    exact storedAt_homeStore hn1 a
  · rw [homeStore_hostOut_of_noBarrier hn1, he]

variable (hl : s.dev.linkDown.contains r.link = false)
include hl

theorem peerRead_refused {n : Nat} (hop : r.op = .read n) (ho : s.spanOwned r.part r.addr n = false) :
    execPeerRequest r s = .next (s.post (.peerAnswer r.link r.tag false [])) := by
  refine execPeerRequest_refused hl (.inr ?_)
  simpa only [peerAccess, hop] using ho

theorem peerRead_results {n : Nat} (hop : r.op = .read n) (ha : s.admitted r = true)
    (ho : s.spanOwned r.part r.addr n = true) (hd : s.poisoned r.addr n = false)
    (hm : (s.moveLines (peerAccess r).uses).isSome) :
    ∃ t, exec (.peerRequest r) s = .next t ∧ t.mem = s.mem ∧
      t.hostOut = s.hostOut ++ [.peerAnswer r.link r.tag true (memRead s.mem r.addr n)] := by
  obtain ⟨s1, hm⟩ := Option.isSome_iff_exists.mp hm
  have hacc : (peerAccess r).size = n ∧ (peerAccess r).kind = .load := by simp only [peerAccess, hop, and_self]
  obtain ⟨hsize, hkind⟩ := hacc
  have hx := execPeerRequest_served hl ha (by rwa [hsize]) (by simp only [peerOffered, hop]) (.inr (by rwa [hsize]))
    (by simp only [State.lockedOut, hkind]) (by simp [hop]) hm
  obtain ⟨he, -⟩ := movedLines_eq hm
  refine ⟨_, hx, ?_, ?_⟩
  · rw [served_read hop, he]
    rfl
  · rw [served_read hop, he]
    simp only [State.post, peerAnswerOf, hop, natToBytes_memNat]

theorem peerWrite_results {b : List Byte} (hop : r.op = .write b) (ha : s.admitted r = true)
    (ho : s.spanOwned r.part r.addr b.length = true) (hn : s.noBarrier r.addr b.length)
    (hm : (s.moveLines (peerAccess r).uses).isSome) :
    ∃ t, exec (.peerRequest r) s = .next t ∧ s.storedAt t r.addr b ∧
      t.hostOut = s.hostOut ++ [.peerAnswer r.link r.tag true []] := by
  obtain ⟨s1, hm⟩ := Option.isSome_iff_exists.mp hm
  have hacc : (peerAccess r).size = b.length ∧ (peerAccess r).kind = .store := by
    simp only [peerAccess, hop, and_self]
  obtain ⟨hsize, hkind⟩ := hacc
  have hx := execPeerRequest_served hl ha (by rwa [hsize]) (by simp only [peerOffered, hop]) (.inl hkind)
    (by simp only [State.lockedOut, hkind]) (by simp [hop]) hm
  obtain ⟨hstored, hout⟩ := homeStore_movedLines hm hn
  rw [served_write hop] at hx
  refine ⟨_, hx, hstored, ?_⟩
  simp only [State.post, hout, peerAnswerOf, hop]

theorem peerAtomic_results {op : AtomOp} {ty : MemType} {x y : Nat} (hop : r.op = .atomic op ty x y)
    (ha : s.admitted r = true) (ho : s.spanOwned r.part r.addr (elemBytes ty) = true) (hp : peerOffered r = true)
    (hd : s.poisoned r.addr (elemBytes ty) = false) (hn : s.noBarrier r.addr (elemBytes ty))
    (hk : s.pageLocked r.addr = false) (hm : (s.moveLines (peerAccess r).uses).isSome) :
    let n := elemBytes ty
    let old := bytesToNat (memRead s.mem r.addr n)
    ∃ t, exec (.peerRequest r) s = .next t ∧ s.storedAt t r.addr (natToBytes n (atomNew op ty old x y)) ∧
      t.hostOut = s.hostOut ++ [.peerAnswer r.link r.tag true (memRead s.mem r.addr n)] := by
  obtain ⟨s1, hm⟩ := Option.isSome_iff_exists.mp hm
  rw [elemBytes_eq_memSize] at ho hd hn ⊢
  intro n old
  have hacc : (peerAccess r).size = memSize ty ∧ (peerAccess r).kind = .atomic op ty := by
    simp only [peerAccess, hop, and_self]
  obtain ⟨hsize, hkind⟩ := hacc
  have hx := execPeerRequest_served hl ha (by rwa [hsize]) hp (.inr (by rwa [hsize]))
    (by simpa only [State.lockedOut, hkind, peerAccess_pa] using hk) (by simp [hop]) hm
  have hold : memNat s1.mem r.addr (memSize ty) = old := by
    rw [(movedLines_eq hm).1]
    rfl
  obtain ⟨hstored, hout⟩ := homeStore_movedLines (bs := natToBytes n (atomNew op ty old x y)) hm
    (by rwa [length_natToBytes])
  rw [served_atomic hop, hold] at hx
  refine ⟨_, hx, hstored, ?_⟩
  simp only [State.post, peerAnswerOf, hop]
  rw [hout, ← natToBytes_memNat s.mem r.addr n]
  rfl

end

/-- Settles O54: a completion by what asked for it, an access's answer by its packet, which the outbound order gives a stamp and
nothing else; a ring entry by the branches of reading it; a peer's request by the two checks that refuse it, and by what it does
at its home once its lines have moved. -/
theorem linksAndPeers : Obligations.LinksAndPeers := by
  unfold Obligations.LinksAndPeers
  refine ⟨⟨fun s rid id r p a data ha hw hn hl hp hb hk => loadCompletion_results ha hw hn hl hp hb hk,
    fun s id cl row block r w data hr ha _ hh hl hw hi => fetchCompletion_results hr ha hh hl hw hi,
    fun s id part q req k data ok hreq ha _ hl => ringCompletion_results hreq ha hl⟩, fun s r hl => ⟨fun ha => ?_,
    fun n hop ho => ?_, fun n => peerRead_results hl, fun b => peerWrite_results hl,
    fun op ty x y => peerAtomic_results hl⟩⟩
  · exact ⟨_, execPeerRequest_refused hl (.inl ha), rfl, rfl⟩
  · exact ⟨_, peerRead_refused hl hop ho, rfl, rfl⟩

end Sys2Proof.Machine
